-- ==== Sys2Proof/Word.lean ====
section
/-! DEFINITION. The words of the N9 (R138: every token is 64 bits; R117: every instruction word is 32 bits;
R84: every multi-byte value is little-endian) and their plainest arithmetic. -/

namespace Sys2Proof

/-- A token, a global register, an address (R138). -/
abbrev Word := BitVec 64
/-- An instruction word or a block header (R117, R129). -/
abbrev Word32 := BitVec 32
/-- The smallest addressable unit of memory. -/
abbrev Byte := BitVec 8

/-- `ceil(a / b)` on naturals; zero when `b` is zero. -/
def ceilDiv (a b : Nat) : Nat := (a + b - 1) / b

/-- `a` rounded up to a multiple of `b`. -/
def roundUp (a b : Nat) : Nat := ceilDiv a b * b

end Sys2Proof
end

