-- ==== Sys2Proof/Syntax.lean ====
section
/-! DEFINITION. The syntax of the N9: predicates and targets (R118, R119), the messages that travel between the parts
of a module and between modules, and the one inductive `Instr` with a constructor for every row of
spec/opcode_table.json: 194 instruction words (04_word_and_block_formats.md) and 104 events
(95_what_each_step_holds.md). An event carries as arguments what the spec says it is about.
The events that the module itself brings about stand before those that only reach it from outside. -/

namespace Sys2Proof

/-- PR (R118): the predicate under which a word fires; 0b11 is reserved and no value of this type. -/
inductive Pred where
  | always | onTrue | onFalse
deriving DecidableEq, Repr

/-- A 9-bit target (R119): the operand of a slot that a result fills, or none. -/
inductive Target where
  | none
  | left  (s : BitVec 6)
  | right (s : BitVec 6)
  | pred  (s : BitVec 6)
deriving DecidableEq, Repr

/-- A dataflow token (R16, R235): a value, a null, or a cancelling token. -/
inductive Token where
  | value (v : Word)
  | null
  | cancel
deriving DecidableEq, Repr

/-- The returning atomics of OP 0x2C (R174). -/
inductive AOp where
  | add | swp | cas | min | max | minu | maxu | and | or | xor | maxrs
deriving DecidableEq, Repr

/-- The non-returning reductions of OP 0x2D (R176). -/
inductive ROp where
  | add | min | max | and | or | xor | fadd
deriving DecidableEq, Repr

/-- A SEND on its way to its frame's home (R157). -/
structure SendMsg where
  task   : Nat      -- the sender's task
  strand : Nat      -- the sender
  fp     : Word     -- the frame, in the sender's flat space
  pa     : Nat      -- the physical address that the sender's translation found
  slot   : Nat
  value  : Word
  block  : Word
  islot  : Nat
  tag    : Word
deriving DecidableEq, Repr

/-- What a barrier answers to an arrival (R180): it is counted for a generation, it is refused, or its generation is complete. -/
inductive BarAnswer where
  | counted (gen : BitVec 16)
  | refused
  | complete (gen : BitVec 16)
deriving DecidableEq, Repr

/-- A GBAR arrival (R180); `strand` is none for an arrival of a peer's strand at a domain barrier homed here. -/
structure Arrival where
  task   : Nat
  scope  : Nat
  home   : Nat        -- the pavilion, the grove, the device (0) or the chip that holds the barrier
  bar    : Nat
  nm1    : Nat
  strand : Option Nat
  slot   : Nat
  chip   : Nat        -- the arriving strand's chip
  answer : Option BarAnswer := none   -- from the barrier's home on a peer, for a strand here
deriving DecidableEq, Repr

/-- An MSEND record that has arrived whole at its ring (R184 to R186). -/
structure RingMsg where
  pav     : Nat       -- physical pavilion that holds the ring
  ring    : Nat
  srcChip : Nat
  srcPav  : Nat
  log2    : Nat       -- LOG2SIZE of the sender's handle
  payload : List Byte
  strand  : Option Nat  -- the sending strand of this chip; none for a peer's
  cv      : Bool
  creg    : Nat
  block   : Word
  slot    : Nat
  tag     : Word
deriving DecidableEq, Repr

/-- A KPUT on its way to its store (R246, R247). -/
structure KputMsg where
  task   : Nat
  strand : Nat
  dom    : Nat
  store  : Nat
  tag    : Word
  len    : Nat
  data   : List Byte
  cv     : Bool
  creg   : Nat
  block  : Word
  slot   : Nat
  owner  : Option Nat := none   -- the peer whose task it comes from; none for a task of this chip
deriving DecidableEq, Repr

/-- A KDEL on its way to its store (R247). -/
structure KdelMsg where
  task   : Nat
  strand : Nat
  dom    : Nat
  id     : Nat
  cv     : Bool
  creg   : Nat
  block  : Word
  slot   : Nat
  tag    : Word
  owner  : Option Nat := none   -- as a KPUT's
deriving DecidableEq, Repr

/-- An MDOM at its domain's arbiter (R244, R245). -/
structure MdomMsg where
  task   : Nat
  strand : Nat
  cmd    : Word
  loc    : Word
  block  : Word
  slot   : Nat
  tag    : Word
  owner  : Option Nat := none   -- the peer whose domain arbiter sends it to a store here; none for a domain of this chip
  read   : Option Nat := none   -- an ATTACH that an arbiter makes from its table: the counter read, and the segment is not written (R370)
deriving DecidableEq, Repr

/-- A peer's query at a store of its task that is attached here, and, once it is merged there, the CTRs of the store's winners (R372,
R373). -/
structure PeerQuery where
  chip    : Nat
  number  : Nat          -- the query's number at the peer
  task    : Nat
  dom     : Nat
  tag     : Word
  consume : Bool
  r       : Word         -- match descriptor
  third   : Word
  bytes   : List Byte
  winners : List Nat := []
deriving DecidableEq, Repr

/-- A query as a store's arbiter meets it: one of this chip's match units, or a peer's. -/
inductive QueryAt where
  | own  (q : Nat)
  | peer (m : PeerQuery)
deriving DecidableEq, Repr

/-- The fields that the launches of one collective share (R196). -/
structure CollKey where
  cid    : Nat
  chip0  : Nat
  parts  : Nat
  stride : Nat
  len    : Nat
  fmt    : Nat
  op     : Nat
  mode   : Nat
deriving DecidableEq, Repr

/-- A participant's contribution at the collective unit of CHIP0 (R408). -/
structure CollMsg where
  key    : CollKey
  rank   : Nat
  vals   : List Word
  engine : Option Nat   -- the engine operation of this chip; none for a peer's
  chip   : Nat
deriving DecidableEq, Repr

/-- An access that a message carries to a page's owner (R331, R333). -/
inductive MemOp where
  | read   (n : Nat)
  | write  (data : List Byte)
  | atomic (op : AOp) (w : Bool) (v e : Word)
  | reduce (op : ROp) (w : Bool) (v : Word)
deriving DecidableEq, Repr

/-- A relayed access (R331): the requester's chip and request number, and the access as it was sent. -/
structure Access where
  pa   : Nat
  op   : MemOp
  chip : Nat
  req  : Nat
deriving DecidableEq, Repr

/-- An operand that an iteration's tile tokens fill when a resident block fires (R20), and the edge port by which a token comes in, or
by which the iteration's output leaves (R352, log 9). -/
structure TokIn where
  target : Target
  value  : Word
  port   : Option Nat := none
deriving DecidableEq, Repr

/-- A soft error: the strand, and the slot whose tokens it hits (R424, R40). -/
structure SoftError where
  strand : Nat
  slot   : Nat := 0
deriving DecidableEq, Repr

/-- A link on which a flit fails (R398, R399). -/
inductive LinkRef where
  | mesh (t : Nat)       -- a mesh link inside Terrace t
  | die  (t u : Nat)     -- a die-to-die link
  | port (p : Nat)       -- a Colonnade port
deriving DecidableEq, Repr

/-- The context that the header of a packet with an uncorrectable payload names (R400). -/
inductive PayloadCtx where
  | strandRead (k : Nat)
  | engineRead (e : Nat)
  | toHome
  | class0Answer (q : Nat)
  | redirToLoad (k named owner : Nat)
deriving DecidableEq, Repr

/-- State that a discard keeps and an uncorrectable error poisons (R425). -/
inductive Place where
  | mem  (pa : Nat)
  | bank (key : Nat)
  | acc  (id : Nat)
  | reg  (k n : Nat)
deriving DecidableEq, Repr

/-- The registers that REGISTER_WRITE covers: every register with no row of its own. -/
inductive DevReg where
  | tagwin (task : Nat) | rclim (task : Nat) | seed (task : Nat) | itb (task : Nat)
  | ringhold | lqcfg (q : Nat) | colid | croute (c : Nat) | esccfg | heatctl
  | pwrlim | eccstat (t : Nat) | migdst (i : Nat) | xreply (t : Nat) | meas (i : Nat)
  | guard             -- GUARD (R420)
  | bar (off : Nat)   -- 8 bytes of the endpoint's BAR at a byte offset, from 16 on (R409)
deriving DecidableEq, Repr

/-- Every instruction word and every event of spec/opcode_table.json. In a word, `p` is its predicate, `a` and `b` are
its targets TA and TB. -/
inductive Instr where
  /-- READ (R141). -/
  | read (r : BitVec 7) (a b : Target)
  /-- WRITE (R141). -/
  | write (r : BitVec 7)
  /-- READP (R141). -/
  | readp (r : BitVec 7) (a b : Target)
  /-- WRITEP (R141). -/
  | writep (r : BitVec 7)
  /-- MOV (R142). -/
  | mov (p : Pred) (a b : Target)
  /-- NULL (R142). -/
  | nul (a b : Target)
  /-- STOP (R146). -/
  | stop (p : Pred)
  /-- YIELD (R147). -/
  | yield (p : Pred)
  /-- SELF (R148). -/
  | self (p : Pred) (a b : Target)
  /-- GENC (R143). -/
  | genc (imm : BitVec 15) (a : Target)
  /-- APPC (R143). -/
  | appc (p : Pred) (imm : BitVec 15) (a : Target)
  /-- BRO (R144). -/
  | bro (p : Pred) (off : BitVec 24)
  /-- BRI (R145). -/
  | bri (p : Pred)
  /-- CALL (R145). -/
  | call (p : Pred)
  /-- CALLI (R145). -/
  | calli (p : Pred)
  /-- RET (R145). -/
  | ret (p : Pred)
  /-- ADD (R150). -/
  | add (p : Pred) (a b : Target)
  /-- SUB (R150). -/
  | sub (p : Pred) (a b : Target)
  /-- MUL (R150). -/
  | mul (p : Pred) (a b : Target)
  /-- MULH (R150). -/
  | mulh (p : Pred) (a b : Target)
  /-- MULHU (R150). -/
  | mulhu (p : Pred) (a b : Target)
  /-- DIV (R151). -/
  | div (p : Pred) (a b : Target)
  /-- DIVU (R151). -/
  | divu (p : Pred) (a b : Target)
  /-- REM (R151). -/
  | rem (p : Pred) (a b : Target)
  /-- REMU (R151). -/
  | remu (p : Pred) (a b : Target)
  /-- AND (R150). -/
  | and (p : Pred) (a b : Target)
  /-- OR (R150). -/
  | or (p : Pred) (a b : Target)
  /-- XOR (R150). -/
  | xor (p : Pred) (a b : Target)
  /-- ANDN (R150). -/
  | andn (p : Pred) (a b : Target)
  /-- SHL (R150). -/
  | shl (p : Pred) (a b : Target)
  /-- SHR (R150). -/
  | shr (p : Pred) (a b : Target)
  /-- SAR (R150). -/
  | sar (p : Pred) (a b : Target)
  /-- ROTL (R150). -/
  | rotl (p : Pred) (a b : Target)
  /-- CLZ (R150). -/
  | clz (p : Pred) (a b : Target)
  /-- CTZ (R150). -/
  | ctz (p : Pred) (a b : Target)
  /-- POPC (R150). -/
  | popc (p : Pred) (a b : Target)
  /-- MIN (R150). -/
  | min (p : Pred) (a b : Target)
  /-- MAX (R150). -/
  | max (p : Pred) (a b : Target)
  /-- MINU (R150). -/
  | minu (p : Pred) (a b : Target)
  /-- MAXU (R150). -/
  | maxu (p : Pred) (a b : Target)
  /-- SEXT (R150). -/
  | sext (p : Pred) (a b : Target)
  /-- ZEXT (R150). -/
  | zext (p : Pred) (a b : Target)
  /-- BFX (R150). -/
  | bfx (p : Pred) (a b : Target)
  /-- BFI (R150). -/
  | bfi (p : Pred) (a b : Target)
  /-- ADDI (R152). -/
  | addi (p : Pred) (imm : BitVec 15) (a : Target)
  /-- ANDI (R152). -/
  | andi (p : Pred) (imm : BitVec 15) (a : Target)
  /-- ORI (R152). -/
  | ori (p : Pred) (imm : BitVec 15) (a : Target)
  /-- XORI (R152). -/
  | xori (p : Pred) (imm : BitVec 15) (a : Target)
  /-- SHLI (R152). -/
  | shli (p : Pred) (s : BitVec 6) (a : Target)
  /-- SHRI (R152). -/
  | shri (p : Pred) (s : BitVec 6) (a : Target)
  /-- SARI (R152). -/
  | sari (p : Pred) (s : BitVec 6) (a : Target)
  /-- TEQI (R149). -/
  | teqi (p : Pred) (imm : BitVec 15) (a : Target)
  /-- TLTI (R149). -/
  | tlti (p : Pred) (imm : BitVec 15) (a : Target)
  /-- TEQ (R149). -/
  | teq (p : Pred) (a b : Target)
  /-- TNE (R149). -/
  | tne (p : Pred) (a b : Target)
  /-- TLT (R149). -/
  | tlt (p : Pred) (a b : Target)
  /-- TLE (R149). -/
  | tle (p : Pred) (a b : Target)
  /-- TLTU (R149). -/
  | tltu (p : Pred) (a b : Target)
  /-- TLEU (R149). -/
  | tleu (p : Pred) (a b : Target)
  /-- TBIT (R149). -/
  | tbit (p : Pred) (a b : Target)
  /-- FADD (R154). -/
  | fadd (p : Pred) (f : BitVec 2) (a b : Target)
  /-- FSUB (R154). -/
  | fsub (p : Pred) (f : BitVec 2) (a b : Target)
  /-- FMUL (R154). -/
  | fmul (p : Pred) (f : BitVec 2) (a b : Target)
  /-- FDIV (R154). -/
  | fdiv (p : Pred) (f : BitVec 2) (a b : Target)
  /-- FSQRT (R154). -/
  | fsqrt (p : Pred) (f : BitVec 2) (a b : Target)
  /-- FMIN (R154). -/
  | fmin (p : Pred) (f : BitVec 2) (a b : Target)
  /-- FMAX (R154). -/
  | fmax (p : Pred) (f : BitVec 2) (a b : Target)
  /-- FCEQ (R154). -/
  | fceq (p : Pred) (f : BitVec 2) (a b : Target)
  /-- FCLT (R154). -/
  | fclt (p : Pred) (f : BitVec 2) (a b : Target)
  /-- FCLE (R154). -/
  | fcle (p : Pred) (f : BitVec 2) (a b : Target)
  /-- FCVT (R155). -/
  | fcvt (p : Pred) (f : BitVec 2) (a b : Target)
  /-- FCLASS (R154). -/
  | fclass (p : Pred) (f : BitVec 2) (a b : Target)
  /-- SEL (R153). -/
  | sel (a b : Target)
  /-- FFMA (R153). -/
  | ffma (f : BitVec 2) (a b : Target)
  /-- LEA (R153). -/
  | lea (p : Pred) (s : BitVec 2) (a b : Target)
  /-- FORK (R156). -/
  | fork (p : Pred)
  /-- FORKN (R156). -/
  | forkn (p : Pred)
  /-- SEND (R157). -/
  | send (p : Pred)
  /-- FRALLOC (R158). -/
  | fralloc (p : Pred) (a b : Target)
  /-- FRFREE (R159). -/
  | frfree (p : Pred)
  /-- TAGGET (R160). -/
  | tagget (p : Pred) (a b : Target)
  /-- TAGSET (R160). -/
  | tagset (p : Pred)
  /-- DQPUSH (R162). -/
  | dqpush (p : Pred) (a b : Target)
  /-- DQPOP (R162). -/
  | dqpop (p : Pred) (a b : Target)
  /-- DQSTEAL (R162). -/
  | dqsteal (p : Pred) (a b : Target)
  /-- RGN (R171). -/
  | rgn (scope : BitVec 3) (cls : BitVec 4) (drainpref efence : Bool)
  /-- RCNT (R173). -/
  | rcnt (a : Target)
  /-- GBAR (R180). -/
  | gbar (p : Pred) (a b : Target)
  /-- GBARX (R182). -/
  | gbarx (p : Pred)
  /-- MRING (R183). -/
  | mring (p : Pred) (a b : Target)
  /-- MSEND (R185). -/
  | msend (p : Pred)
  /-- MWAIT (R188). -/
  | mwait (p : Pred) (a b : Target)
  /-- TRAP (R268). -/
  | trap (p : Pred) (code : BitVec 11)
  /-- MFSR (R269). -/
  | mfsr (p : Pred) (n : BitVec 11) (a : Target)
  /-- MTSR (R269). -/
  | mtsr (p : Pred) (n : BitVec 11)
  /-- RESUME (R270). -/
  | resume (p : Pred) (a : Target)
  /-- TLBI (R271). -/
  | tlbi (p : Pred)
  /-- PERF (R272). -/
  | perf (p : Pred) (c : BitVec 6) (a : Target)
  /-- IDLE (R273). -/
  | idle (p : Pred) (a : Target)
  /-- LDB (R165). -/
  | ldb (p : Pred) (lsid : BitVec 6) (off : BitVec 9) (a : Target)
  /-- LDH (R165). -/
  | ldh (p : Pred) (lsid : BitVec 6) (off : BitVec 9) (a : Target)
  /-- LDW (R165). -/
  | ldw (p : Pred) (lsid : BitVec 6) (off : BitVec 9) (a : Target)
  /-- LDD (R165). -/
  | ldd (p : Pred) (lsid : BitVec 6) (off : BitVec 9) (a : Target)
  /-- LDSB (R165). -/
  | ldsb (p : Pred) (lsid : BitVec 6) (off : BitVec 9) (a : Target)
  /-- LDSH (R165). -/
  | ldsh (p : Pred) (lsid : BitVec 6) (off : BitVec 9) (a : Target)
  /-- LDSW (R165). -/
  | ldsw (p : Pred) (lsid : BitVec 6) (off : BitVec 9) (a : Target)
  /-- PREF (R169). -/
  | pref (p : Pred) (lsid : BitVec 6) (off : BitVec 9)
  /-- STB (R165). -/
  | stb (p : Pred) (lsid : BitVec 6) (off : BitVec 9)
  /-- STH (R165). -/
  | sth (p : Pred) (lsid : BitVec 6) (off : BitVec 9)
  /-- STW (R165). -/
  | stw (p : Pred) (lsid : BitVec 6) (off : BitVec 9)
  /-- STD (R165). -/
  | std (p : Pred) (lsid : BitVec 6) (off : BitVec 9)
  /-- AADD (R174). -/
  | aadd (p : Pred) (w : Bool) (a b : Target)
  /-- ASWP (R174). -/
  | aswp (p : Pred) (w : Bool) (a b : Target)
  /-- ACAS (R174). -/
  | acas (w : Bool) (a b : Target)
  /-- AMIN (R174). -/
  | amin (p : Pred) (w : Bool) (a b : Target)
  /-- AMAX (R174). -/
  | amax (p : Pred) (w : Bool) (a b : Target)
  /-- AMINU (R174). -/
  | aminu (p : Pred) (w : Bool) (a b : Target)
  /-- AMAXU (R174). -/
  | amaxu (p : Pred) (w : Bool) (a b : Target)
  /-- AAND (R174). -/
  | aand (p : Pred) (w : Bool) (a b : Target)
  /-- AOR (R174). -/
  | aor (p : Pred) (w : Bool) (a b : Target)
  /-- AXOR (R174). -/
  | axor (p : Pred) (w : Bool) (a b : Target)
  /-- AMAXRS (R178). -/
  | amaxrs (p : Pred) (w : Bool) (a b : Target)
  /-- RADD (R176). -/
  | radd (p : Pred) (w : Bool)
  /-- RMIN (R176). -/
  | rmin (p : Pred) (w : Bool)
  /-- RMAX (R176). -/
  | rmax (p : Pred) (w : Bool)
  /-- RAND (R176). -/
  | rand (p : Pred) (w : Bool)
  /-- ROR (R176). -/
  | ror (p : Pred) (w : Bool)
  /-- RXOR (R176). -/
  | rxor (p : Pred) (w : Bool)
  /-- RFADD (R176). -/
  | rfadd (p : Pred) (w : Bool)
  /-- CPY (R194). -/
  | cpy (p : Pred)
  /-- CPYT (R195). -/
  | cpyt (p : Pred)
  /-- COLL (R197). -/
  | coll (p : Pred)
  /-- WSLD (R198). -/
  | wsld (p : Pred)
  /-- WSREF (R199). -/
  | wsref (p : Pred) (a b : Target)
  /-- BUFDEF (R207). -/
  | bufdef (p : Pred)
  /-- BUFINFO (R209). -/
  | bufinfo (p : Pred) (a b : Target)
  /-- WAITF (R209). -/
  | waitf (p : Pred) (a b : Target)
  /-- WAITE (R209). -/
  | waite (p : Pred) (a b : Target)
  /-- ADVP (R210). -/
  | advp (p : Pred)
  /-- ADVC (R210). -/
  | advc (p : Pred)
  /-- SLOAD (R213). -/
  | sload (p : Pred)
  /-- SSTORE (R213). -/
  | sstore (p : Pred)
  /-- VADD (R215). -/
  | vadd (p : Pred) (a b : Target)
  /-- VSUB (R215). -/
  | vsub (p : Pred) (a b : Target)
  /-- VMUL (R215). -/
  | vmul (p : Pred) (a b : Target)
  /-- VFMA (R215). -/
  | vfma (a b : Target)
  /-- VMIN (R215). -/
  | vmin (p : Pred) (a b : Target)
  /-- VMAX (R215). -/
  | vmax (p : Pred) (a b : Target)
  /-- VABS (R215). -/
  | vabs (p : Pred) (a b : Target)
  /-- VNEG (R215). -/
  | vneg (p : Pred) (a b : Target)
  /-- VEXP2 (R215). -/
  | vexp2 (p : Pred) (a b : Target)
  /-- VRCP (R215). -/
  | vrcp (p : Pred) (a b : Target)
  /-- VRSQ (R215). -/
  | vrsq (p : Pred) (a b : Target)
  /-- VCVT (R218). -/
  | vcvt (p : Pred) (a b : Target)
  /-- VSEL (R216). -/
  | vsel (p : Pred) (a b : Target)
  /-- VCMP (R216). -/
  | vcmp (p : Pred) (a b : Target)
  /-- VAND (R215). -/
  | vand (p : Pred) (a b : Target)
  /-- VOR (R215). -/
  | vor (p : Pred) (a b : Target)
  /-- VXOR (R215). -/
  | vxor (p : Pred) (a b : Target)
  /-- VSHL (R215). -/
  | vshl (p : Pred) (a b : Target)
  /-- VSHR (R215). -/
  | vshr (p : Pred) (a b : Target)
  /-- VREDSUM (R219). -/
  | vredsum (p : Pred) (a b : Target)
  /-- VREDMAX (R219). -/
  | vredmax (p : Pred) (a b : Target)
  /-- VREDMIN (R219). -/
  | vredmin (p : Pred) (a b : Target)
  /-- VSCAN (R220). -/
  | vscan (p : Pred) (a b : Target)
  /-- VPERM (R221). -/
  | vperm (p : Pred) (a b : Target)
  /-- VBCAST (R222). -/
  | vbcast (p : Pred) (a b : Target)
  /-- VISECT (R223). -/
  | visect (p : Pred) (a b : Target)
  /-- TLD (R225). -/
  | tld (p : Pred) (a b : Target)
  /-- TLDT (R226). -/
  | tldt (p : Pred) (a b : Target)
  /-- TST (R226). -/
  | tst (p : Pred) (a b : Target)
  /-- TZERO (R227). -/
  | tzero (p : Pred) (a b : Target)
  /-- TMMA (R230). -/
  | tmma (a b : Target)
  /-- TCVT (R231). -/
  | tcvt (p : Pred) (a b : Target)
  /-- TDRAIN (R233). -/
  | tdrain (p : Pred) (a b : Target)
  /-- STEER (R234). -/
  | steer (a b : Target)
  /-- MERGE (R236). -/
  | merge (p : Pred) (a b : Target)
  /-- GDEF (R238). -/
  | gdef (p : Pred)
  /-- GSEED (R239). -/
  | gseed (p : Pred) (a b : Target)
  /-- KPUT (R246). -/
  | kput (p : Pred)
  /-- KDEL (R247). -/
  | kdel (p : Pred)
  /-- KAPPEND (R256). -/
  | kappend (p : Pred)
  /-- KMERGE (R257). -/
  | kmerge (p : Pred)
  /-- MATCH (R251). -/
  | matchQ (a b : Target)
  /-- MATCHC (R254). -/
  | matchc (a b : Target)
  /-- MSCAN (R258). -/
  | mscan (p : Pred)
  /-- KSUM (R259). -/
  | ksum (p : Pred)
  /-- MATCHB (R260). -/
  | matchb (p : Pred) (a b : Target)
  /-- MDOM (R244). -/
  | mdom (p : Pred)
  /-- TOPK (R261). -/
  | topk (p : Pred) (a b : Target)
  /-- ITBL (R263). -/
  | itbl (p : Pred)
  /-- ITPERM (R264). -/
  | itperm (p : Pred) (a b : Target)
  /-- IGATHER (R265). -/
  | igather (p : Pred)
  /-- WALK (R266). -/
  | walk (p : Pred)
  /-- STRAND_PLACE (R10): The scheduler grants a waiting strand a place in a pavilion and loads its state. -/
  | strandPlace (k pav : Nat)
  /-- BLOCK_FETCH (R131): A block is fetched into a window and checked whole before anything fires. -/
  | blockFetch (k : Nat)
  /-- BLOCK_COMMIT (R17): An ordinary block commits once its commit condition holds, taking writes and stores and the branch. -/
  | blockCommit (k : Nat)
  /-- LOAD_RETURN (R165): A load's data returns from memory, pinning its line. -/
  | loadReturn (k slot : Nat)
  /-- REGION_END (R34): A region ends and its publish begins with the scope check and step 1. -/
  | regionEnd (k : Nat)
  /-- PUBLISH_STEP_2 (R34): Once step 1 completes, the deferred list launches in order and step 3 commits accumulators. -/
  | publishStep2 (k : Nat)
  /-- QUEUED_PUBLISH_RESUME (R324): A suspended queued publish proceeds once the strand's earlier side-log entries are gone. -/
  | queuedPublishResume (k : Nat)
  /-- LINE_PERFORMED_AT_HOME (R275): A line published at a narrow scope reaches and is performed at its home. -/
  | linePerformedAtHome (i : Nat)
  /-- HELD_STRAND_RECORD (R322): When ring room appears, a strand held for want of room has its record written. -/
  | heldStrandRecord (t : Nat)
  /-- SEND_ARRIVE_HOME (R24): A SEND reaches its frame's home and writes the slot and presence bit. -/
  | sendArriveHome (m : SendMsg)
  /-- HELD_SEND_DELIVER (R25): A SEND held on a set presence bit is delivered after the launch clears it. -/
  | heldSendDeliver (i : Nat)
  /-- FORK_CHILD_CREATE (R156): A child waiting on TAGWIN is created once an older tag of its source retires. -/
  | forkChildCreate (i : Nat)
  /-- TAGSET_RELEASE (R160): A TAGSET waiting at publish on TAGWIN takes effect once an older tag retires. -/
  | tagsetRelease (k : Nat)
  /-- HOME_ATOMIC_PERFORM (R174): A returning atomic is performed indivisibly at its home and returns the old value. -/
  | homeAtomicPerform (k slot : Nat)
  /-- HOME_REDUCTION_PERFORM (R176): A reduction is performed indivisibly at its word's home. -/
  | homeReductionPerform (k : Nat)
  /-- BARRIER_ARRIVAL (R180): A GBAR arrival is counted at the barrier's home. -/
  | barrierArrival (m : Arrival)
  /-- GROVE_RETURN (R182): A grove whose pavilions have passed and whose strands have ended returns to the scheduler. -/
  | groveReturn (task g : Nat)
  /-- RING_RECORD_ARRIVE (R186): A record arrives whole at a ring and is placed, wrapped with a PAD, or held. -/
  | ringRecordArrive (m : RingMsg)
  /-- RING_HOLD_EXPIRE (R186): A record held RINGHOLD cycles is returned with RING_FULL. -/
  | ringHoldExpire (pav ring i : Nat)
  /-- MSEND_RETURN_ARRIVE (R397): A returned record reaches its sender and its completion is written. -/
  | msendReturnArrive (k : Nat) (cv : Bool) (creg : Nat) (status bytes : Nat) (block : Word) (slot : Nat) (tag : Word)
  /-- ENGINE_START (R189): An engine operation starts in its copy queue and reads its command. -/
  | engineStart (e : Nat)
  /-- ENGINE_SLOT_RESUME (R195): An engine waiting for free buffer slots continues once they are free. -/
  | engineSlotResume (e : Nat)
  /-- ENGINE_COMPLETE (R191): An engine operation writes its completion after its destination writes are visible. -/
  | engineComplete (e : Nat)
  /-- DRAIN_PLACE (R233): An arriving drain is placed in slot P mod count and P advanced, or waits for free. -/
  | drainPlace (i : Nat)
  /-- COLL_CONTRIBUTION_ARRIVE (R408): A participant's contribution arrives whole at the collective unit of CHIP0. -/
  | collContributionArrive (m : CollMsg)
  /-- COLL_RESULT_ARRIVE (R408): Collective results arrive at a participant, which writes DST and its completion. -/
  | collResultArrive (e status : Nat) (vals : List Word)
  /-- DOMAIN_GRANT (R372): The domain arbiter grants a query against its membership and sends it to every store. -/
  | domainGrant (q : Nat)
  /-- STORE_QUERY_GRANT (R251): A store grants a query, forms its candidates, reserves for MATCHC and answers. -/
  | storeQueryGrant (q : QueryAt) (store : Nat)
  /-- MATCH_MERGE (R374): The match unit merges store answers in a fixed tree and delivers the result. -/
  | matchMerge (q : Nat)
  /-- STORE_DECISIONS (R372): A store performs a MATCHC's decrements and releases and acknowledges them. -/
  | storeDecisions (q : QueryAt) (store : Nat)
  /-- STORE_KPUT_INSERT (R247): A store's arbiter performs an insertion, with eviction or a refusing status. -/
  | storeKputInsert (m : KputMsg)
  /-- STORE_KDEL (R247): A store's arbiter removes an entry by id or reports ABSENT. -/
  | storeKdel (m : KdelMsg)
  /-- COLLECTION_KAPPEND (R256): The header home appends a side record as one step. -/
  | collectionKappend (e : Nat)
  /-- COLLECTION_KMERGE (R257): The header home merges the side list once earlier scans have ended. -/
  | collectionKmerge (e : Nat)
  /-- COLLECTION_SCAN_GRANT (R378): The header home grants an MSCAN or KSUM and snapshots N and SIDELEN. -/
  | collectionScanGrant (e : Nat)
  /-- ITPERM_PERFORM (R264): The table home permutes entries and increments the generation as one step. -/
  | itpermPerform (k slot : Nat)
  /-- TLBI_COMPLETE (R271): TLBI writes DONE once every access that used a dropped entry has completed. -/
  | tlbiComplete (e : Nat)
  /-- RESIDENT_ITERATION_START (R20): A resident block fires for a new iteration tag. -/
  | residentIterationStart (task blk : Nat) (tag : Word) (toks : List TokIn)
  /-- RESIDENT_ITERATION_END (R136): An iteration ends once all reachable instructions have fired and its region publishes. -/
  | residentIterationEnd (k : Nat)
  /-- RECONFIG_TOKEN_PASS (R286): A graph's reconfiguration token passes once iterations and engine operations have ended. -/
  | reconfigTokenPass (task : Nat)
  /-- TASK_LAUNCH (R347): The scheduler checks a queue head, takes groves and creates the first strand. -/
  | taskLaunch (q : Nat)
  /-- TASK_END (R342): The last launch of an entry ends and DONE is written with ENDED or ABORTED. -/
  | taskEnd (task : Nat) (aborted : Bool)
  /-- PREEMPT_CHOICE (R358): A waiting higher-priority head triggers choice of victims and of DRAIN, CHECKPOINT or DISCARD. -/
  | preemptChoice (q : Nat)
  /-- PREEMPT_SAVE (R360): Once boundaries are reached and engines ended, the save area is written and groves freed. -/
  | preemptSave (task : Nat)
  /-- TASK_RESUME (R365): A saved task is restored into free groves when its turn comes. -/
  | taskResume (task : Nat)
  /-- IDLE_TIMEOUT (R273): 2^20 cycles pass and a waiting IDLE sends 1. -/
  | idleTimeout (k slot : Nat)
  /-- REFRESH_WINDOW_END (R303): A segment's refresh window ends and waiting WSLD units proceed. -/
  | refreshWindowEnd (t seg : Nat)
  /-- MIG_SLOT_WAKE (R329): A slot waiting in WAIT_CHAIN or WAIT_STUB goes on once its condition clears. -/
  | migSlotWake (slot : Nat) (accepts : Bool)
  /-- PRECOPY_PASS_END (R330): A precopy pass ends and either recopies dirty tiles or holds new accesses for FINAL. -/
  | precopyPassEnd (slot : Nat)
  /-- FINAL_DRAINED (R330): Granted accesses have completed; remaining dirty tiles and COMMIT are sent. -/
  | finalDrained (slot : Nat)
  /-- REFRESH_WINDOW_START (R303): A weight-store segment's refresh window begins. -/
  | refreshWindowStart (t seg : Nat)
  /-- MDOM_ATTACH (R245): Attaches an empty store to a domain, or is refused. -/
  | mdomAttach (m : MdomMsg)
  /-- MDOM_DETACH (R245): Removes a store once it has answered its granted queries. -/
  | mdomDetach (m : MdomMsg)
  /-- MDOM_SERVE (R371): Sets a domain to SERVE. -/
  | mdomServe (m : MdomMsg)
  /-- MDOM_REBUILD (R371): Sets a domain to REBUILD. -/
  | mdomRebuild (m : MdomMsg)
  /-- MDOM_CLEAR (R245): Removes every entry of a store and resets its counter. -/
  | mdomClear (m : MdomMsg)
  /-- XREPLY_MAPPED (R314): The Lodge answers MAPPED: side-log entries replay and parked parties are released. -/
  | xreplyMapped (t : Nat) (recno : BitVec 32)
  /-- XREPLY_INVALID (R314): The Lodge answers INVALID: entries dropped, engines end XLATE, own-access strands FAULTED. -/
  | xreplyInvalid (t : Nat) (recno : BitVec 32)
  /-- WEIGHT_STORE_WRITE (R305): The Lodge writes a Terrace's weight store through its load port. -/
  | weightStoreWrite (t off : Nat) (data : List Byte)
  /-- FABRIC_PAGE_MOVE (R353): The allocator moves a fabric page of a quiescent graph and remaps it. -/
  | fabricPageMove (task page pav : Nat)
  /-- LQ_DOORBELL (R341): A write of TAIL to LQDB rings a launch queue's doorbell. -/
  | lqDoorbell (q : Nat) (tail : BitVec 32)
  /-- MTSR_FRING (R318): A write of FRING moves the fault ring to a new base. -/
  | mtsrFring (t : Nat) (v : Word)
  /-- MTSR_MDT (R370): A write of MDT takes the old table's stores out of service and reads the new table. -/
  | mtsrMdt (task : Nat) (v : Word)
  /-- MTSR_ROUTE (R232): A write of ROUTE makes the pavilions reread the route table. -/
  | mtsrRoute (task : Nat) (v : Word)
  /-- MTSR_FSTAT (R269): A write of 1 to FSTAT.OVF clears the sticky bit. -/
  | mtsrFstat (t : Nat) (v : Word)
  /-- REGISTER_WRITE (R6): A write to a register with no row of its own, with reserved-field and range rules. -/
  | registerWrite (r : DevReg) (v : Word)
  /-- HEAT_SNAPSHOT (R328): A write of SNAP writes the heat table to BASE and clears the counts. -/
  | heatSnapshot
  /-- OWNER_CACHE_DROP (R326): The owner cache drops an entry to make room. -/
  | ownerCacheDrop (i : Nat)
  /-- MIG_GO (R329): A write of GO starts a page move, checked and then refused, waiting or opened. -/
  | migGo (slot : Nat) (v : Word) (accepts : Bool)
  /-- MOVE_OPEN (R333): The destination receives MOVE_OPEN and accepts or refuses the move. -/
  | moveOpen (srcFrame dstFrame : Nat) (chip slot : Nat)
  /-- TILE (R330): The destination receives 4 KiB of page data with poison bits. -/
  | tile (dstFrame idx : Nat) (data : List Byte) (poison : BitVec 64)
  /-- COMMIT (R331): The destination receives COMMIT and becomes the page's owner. -/
  | commit (dstFrame : Nat) (holders : BitVec 72) (behind oldest : Nat)
  /-- COMMIT_ACK (R330): The old owner makes its stub live, relays held accesses and sends RETIRE. -/
  | commitAck (slot : Nat)
  /-- RELAY (R331): An access reaching a stub is relayed to its forward frame. -/
  | relay (m : Access)
  /-- REDIR_COMPLETION (R332): A completion with REDIR writes the owner cache and reorders later accesses. -/
  | redirCompletion (named owner : Nat)
  /-- RETIRE (R336): A chip receives RETIRE and acknowledges after rewriting leaves and TLBI. -/
  | retire (oldFrame fwdFrame chip : Nat)
  /-- RETIRE_ACK (R336): A stub counts an acknowledgement and goes FREE when every group has acknowledged. -/
  | retireAck (oldFrame chip : Nat)
  /-- HOLD (R337): A HOLD sets the holder bit at a stub or owner and completes with REDIR. -/
  | hold (frame chip : Nat)
  /-- STUB_GONE (R334): STUB_GONE reaches the owner, which lowers BEHIND. -/
  | stubGone (frame : Nat)
  /-- ESCAPE_DIVERT (R395): A flow's head packet waits ESCTIME cycles and the flow is diverted to the escape network. -/
  | escapeDivert (i : Nat)
  /-- ESCAPE_HANDOFF (R395): The destination hands on escape packets in sequence order and returns the flow when done. -/
  | escapeHandoff (i : Nat)
  /-- FLIT_CRC_REPLAY (R398): A flit failing its CRC is sent again from the replay buffer. -/
  | flitCrcReplay (l : LinkRef)
  /-- CORRUPT_HEADER_FENCE (R399): A header failing after 8 replays fences its Terrace or port. -/
  | corruptHeaderFence (l : LinkRef)
  /-- PAYLOAD_UNCORRECTABLE (R400): An uncorrectable payload with an intact header is handled per its context. -/
  | payloadUncorrectable (c : PayloadCtx)
  /-- PORT_FAIL (R401): A Colonnade port loses training or is fenced; its replay buffer moves to another port. -/
  | portFail (p : Nat)
  /-- RETRAIN (R404): A write of RETRAIN starts training of a Colonnade port. -/
  | retrain (p : Nat)
  /-- PORT_TRAINED (R401): Training succeeds and the port returns to service with PEER recorded. -/
  | portTrained (p : Nat) (peer : BitVec 13)
  /-- POWER_GOOD (R410): Power good resets the module and starts the boot ROM. -/
  | powerGood
  /-- SAFE_IMAGE_ARRIVE (R410): A new image over the management link is written to flash and the module resets. -/
  | safeImageArrive (image : List Byte)
  /-- MEMORY_TRAINING_DONE (R410): Memories are trained; failed devices are mapped out and the runtime starts. -/
  | memoryTrainingDone (gddrOut lpddrOut : Nat)
  /-- TERRACE_TEST_DONE (R412): A Terrace test ends, admitting or failing it and harvesting pavilions. -/
  | terraceTestDone (t : Nat) (pass : Bool) (harvest : List (BitVec 16))
  /-- ADMIT (R412): A write of ADMIT starts a new test of a fenced or failed Terrace. -/
  | admitTerrace (t : Nat)
  /-- GUARD_TICK (R421): Every 1 ms the guard steps the clock down or up or trips. -/
  | guardTick (tj power : Nat)
  /-- COOLANT_FLOW_LOST (R421): Loss of coolant flow removes module power within 10 ms. -/
  | coolantFlowLost
  /-- MEAS_EXTEND (R414): A measurement register is extended by a digest. -/
  | measExtend (i : Nat) (digest : List Byte)
  /-- QUOTE_REQUEST (R418): A nonce and request word request a signed quote. -/
  | quoteRequest (nonce : List Byte)
  /-- QUOTE_SERVE (R418): The quote arbiter serves a request, reading MEAS and signing or reporting EXHAUSTED. -/
  | quoteServe
  /-- HDB (R409): A host write of the host doorbell raises an interrupt on the Lodge. -/
  | hdb (v : Word)
  /-- ROOT_PORT_REQUEST (R409): An agent request is checked by the I/O translation and refused with Completer Abort. -/
  | rootPortRequest (port pa : Nat) (wr : Bool) (data : List Byte)
  /-- PATROL_SCRUB (R423): Patrol scrubbing reads and corrects a memory word. -/
  | patrolScrub (pa : Nat) (uncorrectable : Bool)
  /-- SOFT_ERROR_DETECTED (R424): An uncorrectable error in discard-restored state discards the region with a DISCARD record. -/
  | softErrorDetected (e : SoftError)
  /-- UNCORRECTABLE_POISON (R425): An uncorrectable error in kept state poisons the word. -/
  | uncorrectablePoison (p : Place)
  /-- LODGE_DOORBELL (R409): A Lodge write of the endpoint's LDB register sends MSI-X vector 0 to the external host. -/
  | lodgeDoorbell (v : Word)
  /-- POWER_LOST (R410): The module loses its supply, and every volatile state is lost except blown fuses and flash. -/
  | powerLost
deriving DecidableEq, Repr

end Sys2Proof
end

