-- ==== Sys2Proof/Decode.lean ====
section
/-! DEFINITION. Decoding and encoding of instruction words, from the formats of R117 to R126 and the opcode map of R127.
`decode` is total and rejects by name, with the load check (R131) that the word fails first; `encode` lays the same
fields out again. -/

namespace Sys2Proof

/-! ## Bit fields -/

/-- OP, bits [31:26] (R117). -/
def fOp (w : Word32) : BitVec 6 := w.extractLsb' 26 6
/-- PR, bits [25:24] (R117, R118). -/
def fPr (w : Word32) : BitVec 2 := w.extractLsb' 24 2
/-- XOP of T2, LSID of M: bits [23:18] (R117). -/
def fXop (w : Word32) : BitVec 6 := w.extractLsb' 18 6
/-- TB of T2 and RD, IMM9 of M: bits [17:9] (R117). -/
def fTb (w : Word32) : BitVec 9 := w.extractLsb' 9 9
/-- TA, bits [8:0] (R117). -/
def fTa (w : Word32) : BitVec 9 := w.extractLsb' 0 9
/-- IMM15 of T1I, bits [23:9] (R117). -/
def fImm15 (w : Word32) : BitVec 15 := w.extractLsb' 9 15
/-- offset24 of B, bits [23:0] (R117). -/
def fOff24 (w : Word32) : BitVec 24 := w.extractLsb' 0 24
/-- The register field of RD, bits [24:18] (R123). -/
def fReg (w : Word32) : BitVec 7 := w.extractLsb' 18 7
/-- Bit 25 of an RD word, which must be zero (R117). -/
def fRdZero (w : Word32) : BitVec 1 := w.extractLsb' 25 1

/-- PR as its two bits (R118). -/
def Pred.bits : Pred → BitVec 2
  | .always => 0
  | .onTrue => 1
  | .onFalse => 2

/-- PR read from its two bits; 0b11 is reserved (R118). -/
def Pred.parse (b : BitVec 2) : Option Pred :=
  if b = 0 then some .always else if b = 1 then some .onTrue else if b = 2 then some .onFalse else none

/-- A target as its nine bits (R119). -/
def Target.bits : Target → BitVec 9
  | .none => 0
  | .left s => (2 : BitVec 3) ++ s
  | .right s => (4 : BitVec 3) ++ s
  | .pred s => (6 : BitVec 3) ++ s

/-- A target read from its nine bits (R119): bit 6 is zero, and the slot of a none target is zero (LC8). -/
def Target.parse (b : BitVec 9) : Option Target :=
  let opd := b.extractLsb' 6 3
  let s := b.extractLsb' 0 6
  if opd = 0 then (if s = 0 then some .none else Option.none)
  else if opd = 2 then some (.left s)
  else if opd = 4 then some (.right s)
  else if opd = 6 then some (.pred s)
  else Option.none

/-- Why a word is no instruction: the load checks of R131 that a single word can fail. -/
inductive DecodeError where
  | reservedOp       -- LC3
  | reservedField    -- LC4
  | nonzeroBits      -- LC5
  | reservedPred     -- LC6
  | notPredicable    -- LC7
  | badTarget        -- LC8
  | oddRegister      -- LC16
deriving DecidableEq, Repr

/-! ## The opcode map (R127) -/

/-- The word formats of R117, by OP; none for a reserved OP. -/
inductive Format where
  | t2 | t1i | m | rd | b
deriving DecidableEq, Repr

/-- R127: OP fixes the format. -/
def formatOf (op : Nat) : Option Format :=
  match op with
  | 0x01 => some .rd | 0x02 => some .rd | 0x03 => some .rd
  | 0x04 => some .t2 | 0x05 => some .t1i | 0x06 => some .t1i | 0x07 => some .b
  | 0x08 => some .t2 | 0x09 => some .t2 | 0x0A => some .t2 | 0x0B => some .t2
  | 0x0C => some .t1i | 0x0D => some .t1i | 0x0E => some .t1i | 0x0F => some .t1i
  | 0x10 => some .t1i | 0x11 => some .t1i | 0x12 => some .t1i | 0x13 => some .t1i | 0x14 => some .t1i
  | 0x15 => some .t2 | 0x16 => some .t2 | 0x17 => some .t2 | 0x18 => some .t2 | 0x19 => some .t2
  | 0x1A => some .t1i | 0x1B => some .t2 | 0x1C => some .t1i
  | 0x20 => some .m | 0x21 => some .m | 0x22 => some .m | 0x23 => some .m | 0x24 => some .m | 0x25 => some .m
  | 0x26 => some .m | 0x27 => some .m | 0x28 => some .m | 0x29 => some .m | 0x2A => some .m | 0x2B => some .m
  | 0x2C => some .t2 | 0x2D => some .t2 | 0x2E => some .t2
  | 0x30 => some .t2 | 0x31 => some .t2 | 0x32 => some .t2 | 0x33 => some .t2 | 0x34 => some .t2 | 0x35 => some .t2
  | 0x36 => some .t2 | 0x37 => some .t2 | 0x38 => some .t2 | 0x39 => some .t2 | 0x3A => some .t2
  | _ => none

/-- R127: the XOPs that a T2 group allocates. -/
def xopAllocated (op xop : Nat) : Bool :=
  match op with
  | 0x04 => decide (xop ≤ 4)
  | 0x08 => decide (xop ≤ 3)
  | 0x09 => decide (xop ≤ 8)
  | 0x0A => decide (xop ≤ 10)
  | 0x0B => decide (xop ≤ 7)
  | 0x15 => decide (xop ≤ 6)
  | 0x16 => decide (xop ≤ 47)
  | 0x17 => xop == 0 || (decide (4 ≤ xop) && decide (xop ≤ 11))
  | 0x18 => decide (xop ≤ 6)
  | 0x19 => decide (xop ≤ 2)
  | 0x1B => decide (xop ≤ 4)
  | 0x2C => decide (xop ≤ 10) || (decide (32 ≤ xop) && decide (xop ≤ 42))
  | 0x2D => decide (xop ≤ 6) || (decide (32 ≤ xop) && decide (xop ≤ 38))
  | 0x2E => decide (xop ≤ 4)
  | 0x30 => decide (xop ≤ 5)
  | 0x31 => decide (xop ≤ 1)
  | 0x32 => decide (xop ≤ 18)
  | 0x33 => decide (xop ≤ 6)
  | 0x34 => decide (xop ≤ 2)
  | 0x35 => decide (xop ≤ 3)
  | 0x36 => decide (xop ≤ 1)
  | 0x37 => decide (xop ≤ 1)
  | 0x38 => decide (xop ≤ 9)
  | 0x39 => xop == 0
  | 0x3A => decide (xop ≤ 3)
  | _ => false

/-- R137, R201, R241: the T2 instructions without a result, whose TA and TB must be none (LC5). -/
def noResult (op xop : Nat) : Bool :=
  match op with
  | 0x04 => (decide (2 ≤ xop) && decide (xop ≤ 3))
  | 0x08 => decide (xop ≤ 3)
  | 0x18 => decide (xop ≤ 2) || xop == 4 || xop == 6
  | 0x1B => xop == 1 || xop == 3
  | 0x2D => decide (xop ≤ 6) || (decide (32 ≤ xop) && decide (xop ≤ 38))
  | 0x2E => decide (xop ≤ 3)
  | 0x30 => xop == 0 || (decide (4 ≤ xop) && decide (xop ≤ 5))
  | 0x31 => decide (xop ≤ 1)
  | 0x37 => xop == 0
  | 0x38 => decide (xop ≤ 3) || (decide (6 ≤ xop) && decide (xop ≤ 7)) || xop == 9
  | 0x3A => xop == 0 || (decide (2 ≤ xop) && decide (xop ≤ 3))
  | _ => false

/-- R120, R131 (LC7): the T2 instructions that may not be predicated: the ternary class, and NULL. -/
def notPredicable (op xop : Nat) : Bool :=
  match op with
  | 0x04 => xop == 1
  | 0x17 => xop == 0 || (decide (4 ≤ xop) && decide (xop ≤ 7))
  | 0x2C => xop == 2 || xop == 34
  | 0x32 => xop == 3
  | 0x35 => xop == 1
  | 0x36 => xop == 0
  | 0x38 => (decide (4 ≤ xop) && decide (xop ≤ 5))
  | _ => false

/-- R269: the system register numbers that the manual assigns. -/
def sysRegAssigned (n : Nat) : Bool :=
  n == 0x001 || n == 0x002 || n == 0x003 || n == 0x004 || n == 0x010 || n == 0x011 || n == 0x020 || n == 0x021 ||
    n == 0x022 || n == 0x030

/-! ## The load checks of one word (R131): true when the check fails -/

/-- LC3: a reserved OP. -/
def lc3 (w : Word32) : Bool := (formatOf (fOp w).toNat).isNone

/-- R126: the operand bits [10:0] that a system operation admits. -/
def sysOperandOk (k v : Nat) : Bool :=
  match k with
  | 0 => true
  | 1 => sysRegAssigned v
  | 2 => sysRegAssigned v
  | 3 => v == 0
  | 4 => v == 0
  | 5 => decide (v < 64)
  | 6 => v == 0
  | _ => false

/-- LC4: a reserved XOP, or a reserved value of a subfield: RGN's scope or flags, the operation or operand of the
system group, a shift count (R125, R126, R152). -/
def lc4 (w : Word32) : Bool :=
  let op := (fOp w).toNat
  let i := (fImm15 w).toNat
  match formatOf op with
  | some .t2 => !xopAllocated op (fXop w).toNat
  | some .t1i =>
    match op with
    | 0x10 | 0x11 | 0x12 => decide (64 ≤ i)
    | 0x1A => decide (i < 0x4000) && (decide (4 < i / 0x800 % 8) || decide (i / 4 % 32 ≠ 0))
    | 0x1C => !sysOperandOk (i / 0x800) (i % 0x800)
    | _ => false
  | _ => false

/-- LC5: nonzero bits where the format or the instruction requires zero. -/
def lc5 (w : Word32) : Bool :=
  let op := (fOp w).toNat
  let i := (fImm15 w).toNat
  match formatOf op with
  | some .rd => fRdZero w != 0 || (op == 2 && (fTa w != 0 || fTb w != 0))
  | some .t2 => noResult op (fXop w).toNat && (fTa w != 0 || fTb w != 0)
  | some .m => decide (0x27 ≤ op) && fTa w != 0
  | some .t1i =>
    match op with
    | 0x1A => if i < 0x4000 then fTa w != 0 else decide (i ≠ 0x4000)
    | 0x1C => (i / 0x800 == 0 || i / 0x800 == 2 || i / 0x800 == 4) && fTa w != 0
    | _ => false
  | _ => false

/-- The words that have a PR field: all but RD (R117). -/
def hasPr (w : Word32) : Bool := formatOf (fOp w).toNat != some .rd

/-- LC6: PR is 0b11. -/
def lc6 (w : Word32) : Bool := hasPr w && fPr w == 3

/-- LC7: PR is nonzero on a ternary-class instruction, or on GENC, NULL, RGN or RCNT. -/
def lc7 (w : Word32) : Bool :=
  let op := (fOp w).toNat
  hasPr w && fPr w != 0 && (op == 0x05 || op == 0x1A || notPredicable op (fXop w).toNat)

/-- The targets that a word carries, as their bits: TA and TB of T2 and RD, TA of T1I and of loads, none in B. -/
def targetBits (w : Word32) : List (BitVec 9) :=
  match formatOf (fOp w).toNat with
  | some .t2 => [fTa w, fTb w]
  | some .rd => [fTa w, fTb w]
  | some .t1i => [fTa w]
  | some .m => [fTa w]
  | _ => []

/-- LC8: a target with bit 6 set, or a none target with a nonzero slot. -/
def lc8 (w : Word32) : Bool := (targetBits w).any fun t => (Target.parse t).isNone

/-- LC16: READP or WRITEP names an odd register. -/
def lc16 (w : Word32) : Bool := fOp w == 3 && (fReg w).toNat % 2 == 1

/-! ## From fields to instructions -/

/-- The instructions of OP 0x04 by XOP (R127). -/
def build04 (xop : Nat) (p : Pred) (a b : Target) : Option Instr :=
  match xop with
  | 0 => some (.mov p a b)
  | 1 => some (.nul a b)
  | 2 => some (.stop p)
  | 3 => some (.yield p)
  | 4 => some (.self p a b)
  | _ => none

/-- The instructions of OP 0x08 by XOP (R127). -/
def build08 (xop : Nat) (p : Pred) (_ _ : Target) : Option Instr :=
  match xop with
  | 0 => some (.bri p)
  | 1 => some (.call p)
  | 2 => some (.calli p)
  | 3 => some (.ret p)
  | _ => none

/-- The instructions of OP 0x09 by XOP (R127). -/
def build09 (xop : Nat) (p : Pred) (a b : Target) : Option Instr :=
  match xop with
  | 0 => some (.add p a b)
  | 1 => some (.sub p a b)
  | 2 => some (.mul p a b)
  | 3 => some (.mulh p a b)
  | 4 => some (.mulhu p a b)
  | 5 => some (.div p a b)
  | 6 => some (.divu p a b)
  | 7 => some (.rem p a b)
  | 8 => some (.remu p a b)
  | _ => none

/-- The instructions of OP 0x0A by XOP (R127). -/
def build0A (xop : Nat) (p : Pred) (a b : Target) : Option Instr :=
  match xop with
  | 0 => some (.and p a b)
  | 1 => some (.or p a b)
  | 2 => some (.xor p a b)
  | 3 => some (.andn p a b)
  | 4 => some (.shl p a b)
  | 5 => some (.shr p a b)
  | 6 => some (.sar p a b)
  | 7 => some (.rotl p a b)
  | 8 => some (.clz p a b)
  | 9 => some (.ctz p a b)
  | 10 => some (.popc p a b)
  | _ => none

/-- The instructions of OP 0x0B by XOP (R127). -/
def build0B (xop : Nat) (p : Pred) (a b : Target) : Option Instr :=
  match xop with
  | 0 => some (.min p a b)
  | 1 => some (.max p a b)
  | 2 => some (.minu p a b)
  | 3 => some (.maxu p a b)
  | 4 => some (.sext p a b)
  | 5 => some (.zext p a b)
  | 6 => some (.bfx p a b)
  | 7 => some (.bfi p a b)
  | _ => none

/-- The instructions of OP 0x15 by XOP (R127). -/
def build15 (xop : Nat) (p : Pred) (a b : Target) : Option Instr :=
  match xop with
  | 0 => some (.teq p a b)
  | 1 => some (.tne p a b)
  | 2 => some (.tlt p a b)
  | 3 => some (.tle p a b)
  | 4 => some (.tltu p a b)
  | 5 => some (.tleu p a b)
  | 6 => some (.tbit p a b)
  | _ => none

/-- The instructions of OP 0x16 by XOP (R127). -/
def build16 (xop : Nat) (p : Pred) (a b : Target) : Option Instr :=
  match xop with
  | 0 => some (.fadd p 0 a b)
  | 1 => some (.fadd p 1 a b)
  | 2 => some (.fadd p 2 a b)
  | 3 => some (.fadd p 3 a b)
  | 4 => some (.fsub p 0 a b)
  | 5 => some (.fsub p 1 a b)
  | 6 => some (.fsub p 2 a b)
  | 7 => some (.fsub p 3 a b)
  | 8 => some (.fmul p 0 a b)
  | 9 => some (.fmul p 1 a b)
  | 10 => some (.fmul p 2 a b)
  | 11 => some (.fmul p 3 a b)
  | 12 => some (.fdiv p 0 a b)
  | 13 => some (.fdiv p 1 a b)
  | 14 => some (.fdiv p 2 a b)
  | 15 => some (.fdiv p 3 a b)
  | 16 => some (.fsqrt p 0 a b)
  | 17 => some (.fsqrt p 1 a b)
  | 18 => some (.fsqrt p 2 a b)
  | 19 => some (.fsqrt p 3 a b)
  | 20 => some (.fmin p 0 a b)
  | 21 => some (.fmin p 1 a b)
  | 22 => some (.fmin p 2 a b)
  | 23 => some (.fmin p 3 a b)
  | 24 => some (.fmax p 0 a b)
  | 25 => some (.fmax p 1 a b)
  | 26 => some (.fmax p 2 a b)
  | 27 => some (.fmax p 3 a b)
  | 28 => some (.fceq p 0 a b)
  | 29 => some (.fceq p 1 a b)
  | 30 => some (.fceq p 2 a b)
  | 31 => some (.fceq p 3 a b)
  | 32 => some (.fclt p 0 a b)
  | 33 => some (.fclt p 1 a b)
  | 34 => some (.fclt p 2 a b)
  | 35 => some (.fclt p 3 a b)
  | 36 => some (.fcle p 0 a b)
  | 37 => some (.fcle p 1 a b)
  | 38 => some (.fcle p 2 a b)
  | 39 => some (.fcle p 3 a b)
  | 40 => some (.fcvt p 0 a b)
  | 41 => some (.fcvt p 1 a b)
  | 42 => some (.fcvt p 2 a b)
  | 43 => some (.fcvt p 3 a b)
  | 44 => some (.fclass p 0 a b)
  | 45 => some (.fclass p 1 a b)
  | 46 => some (.fclass p 2 a b)
  | 47 => some (.fclass p 3 a b)
  | _ => none

/-- The instructions of OP 0x17 by XOP (R127). -/
def build17 (xop : Nat) (p : Pred) (a b : Target) : Option Instr :=
  match xop with
  | 0 => some (.sel a b)
  | 4 => some (.ffma 0 a b)
  | 5 => some (.ffma 1 a b)
  | 6 => some (.ffma 2 a b)
  | 7 => some (.ffma 3 a b)
  | 8 => some (.lea p 0 a b)
  | 9 => some (.lea p 1 a b)
  | 10 => some (.lea p 2 a b)
  | 11 => some (.lea p 3 a b)
  | _ => none

/-- The instructions of OP 0x18 by XOP (R127). -/
def build18 (xop : Nat) (p : Pred) (a b : Target) : Option Instr :=
  match xop with
  | 0 => some (.fork p)
  | 1 => some (.forkn p)
  | 2 => some (.send p)
  | 3 => some (.fralloc p a b)
  | 4 => some (.frfree p)
  | 5 => some (.tagget p a b)
  | 6 => some (.tagset p)
  | _ => none

/-- The instructions of OP 0x19 by XOP (R127). -/
def build19 (xop : Nat) (p : Pred) (a b : Target) : Option Instr :=
  match xop with
  | 0 => some (.dqpush p a b)
  | 1 => some (.dqpop p a b)
  | 2 => some (.dqsteal p a b)
  | _ => none

/-- The instructions of OP 0x1B by XOP (R127). -/
def build1B (xop : Nat) (p : Pred) (a b : Target) : Option Instr :=
  match xop with
  | 0 => some (.gbar p a b)
  | 1 => some (.gbarx p)
  | 2 => some (.mring p a b)
  | 3 => some (.msend p)
  | 4 => some (.mwait p a b)
  | _ => none

/-- The instructions of OP 0x2C by XOP (R127). -/
def build2C (xop : Nat) (p : Pred) (a b : Target) : Option Instr :=
  match xop with
  | 0 => some (.aadd p false a b)
  | 1 => some (.aswp p false a b)
  | 2 => some (.acas false a b)
  | 3 => some (.amin p false a b)
  | 4 => some (.amax p false a b)
  | 5 => some (.aminu p false a b)
  | 6 => some (.amaxu p false a b)
  | 7 => some (.aand p false a b)
  | 8 => some (.aor p false a b)
  | 9 => some (.axor p false a b)
  | 10 => some (.amaxrs p false a b)
  | 32 => some (.aadd p true a b)
  | 33 => some (.aswp p true a b)
  | 34 => some (.acas true a b)
  | 35 => some (.amin p true a b)
  | 36 => some (.amax p true a b)
  | 37 => some (.aminu p true a b)
  | 38 => some (.amaxu p true a b)
  | 39 => some (.aand p true a b)
  | 40 => some (.aor p true a b)
  | 41 => some (.axor p true a b)
  | 42 => some (.amaxrs p true a b)
  | _ => none

/-- The instructions of OP 0x2D by XOP (R127). -/
def build2D (xop : Nat) (p : Pred) (_ _ : Target) : Option Instr :=
  match xop with
  | 0 => some (.radd p false)
  | 1 => some (.rmin p false)
  | 2 => some (.rmax p false)
  | 3 => some (.rand p false)
  | 4 => some (.ror p false)
  | 5 => some (.rxor p false)
  | 6 => some (.rfadd p false)
  | 32 => some (.radd p true)
  | 33 => some (.rmin p true)
  | 34 => some (.rmax p true)
  | 35 => some (.rand p true)
  | 36 => some (.ror p true)
  | 37 => some (.rxor p true)
  | 38 => some (.rfadd p true)
  | _ => none

/-- The instructions of OP 0x2E by XOP (R127). -/
def build2E (xop : Nat) (p : Pred) (a b : Target) : Option Instr :=
  match xop with
  | 0 => some (.cpy p)
  | 1 => some (.cpyt p)
  | 2 => some (.coll p)
  | 3 => some (.wsld p)
  | 4 => some (.wsref p a b)
  | _ => none

/-- The instructions of OP 0x30 by XOP (R127). -/
def build30 (xop : Nat) (p : Pred) (a b : Target) : Option Instr :=
  match xop with
  | 0 => some (.bufdef p)
  | 1 => some (.bufinfo p a b)
  | 2 => some (.waitf p a b)
  | 3 => some (.waite p a b)
  | 4 => some (.advp p)
  | 5 => some (.advc p)
  | _ => none

/-- The instructions of OP 0x31 by XOP (R127). -/
def build31 (xop : Nat) (p : Pred) (_ _ : Target) : Option Instr :=
  match xop with
  | 0 => some (.sload p)
  | 1 => some (.sstore p)
  | _ => none

/-- The instructions of OP 0x32 by XOP (R127). -/
def build32 (xop : Nat) (p : Pred) (a b : Target) : Option Instr :=
  match xop with
  | 0 => some (.vadd p a b)
  | 1 => some (.vsub p a b)
  | 2 => some (.vmul p a b)
  | 3 => some (.vfma a b)
  | 4 => some (.vmin p a b)
  | 5 => some (.vmax p a b)
  | 6 => some (.vabs p a b)
  | 7 => some (.vneg p a b)
  | 8 => some (.vexp2 p a b)
  | 9 => some (.vrcp p a b)
  | 10 => some (.vrsq p a b)
  | 11 => some (.vcvt p a b)
  | 12 => some (.vsel p a b)
  | 13 => some (.vcmp p a b)
  | 14 => some (.vand p a b)
  | 15 => some (.vor p a b)
  | 16 => some (.vxor p a b)
  | 17 => some (.vshl p a b)
  | 18 => some (.vshr p a b)
  | _ => none

/-- The instructions of OP 0x33 by XOP (R127). -/
def build33 (xop : Nat) (p : Pred) (a b : Target) : Option Instr :=
  match xop with
  | 0 => some (.vredsum p a b)
  | 1 => some (.vredmax p a b)
  | 2 => some (.vredmin p a b)
  | 3 => some (.vscan p a b)
  | 4 => some (.vperm p a b)
  | 5 => some (.vbcast p a b)
  | 6 => some (.visect p a b)
  | _ => none

/-- The instructions of OP 0x34 by XOP (R127). -/
def build34 (xop : Nat) (p : Pred) (a b : Target) : Option Instr :=
  match xop with
  | 0 => some (.tld p a b)
  | 1 => some (.tldt p a b)
  | 2 => some (.tst p a b)
  | _ => none

/-- The instructions of OP 0x35 by XOP (R127). -/
def build35 (xop : Nat) (p : Pred) (a b : Target) : Option Instr :=
  match xop with
  | 0 => some (.tzero p a b)
  | 1 => some (.tmma a b)
  | 2 => some (.tcvt p a b)
  | 3 => some (.tdrain p a b)
  | _ => none

/-- The instructions of OP 0x36 by XOP (R127). -/
def build36 (xop : Nat) (p : Pred) (a b : Target) : Option Instr :=
  match xop with
  | 0 => some (.steer a b)
  | 1 => some (.merge p a b)
  | _ => none

/-- The instructions of OP 0x37 by XOP (R127). -/
def build37 (xop : Nat) (p : Pred) (a b : Target) : Option Instr :=
  match xop with
  | 0 => some (.gdef p)
  | 1 => some (.gseed p a b)
  | _ => none

/-- The instructions of OP 0x38 by XOP (R127). -/
def build38 (xop : Nat) (p : Pred) (a b : Target) : Option Instr :=
  match xop with
  | 0 => some (.kput p)
  | 1 => some (.kdel p)
  | 2 => some (.kappend p)
  | 3 => some (.kmerge p)
  | 4 => some (.matchQ a b)
  | 5 => some (.matchc a b)
  | 6 => some (.mscan p)
  | 7 => some (.ksum p)
  | 8 => some (.matchb p a b)
  | 9 => some (.mdom p)
  | _ => none

/-- The instructions of OP 0x39 by XOP (R127). -/
def build39 (xop : Nat) (p : Pred) (a b : Target) : Option Instr :=
  match xop with
  | 0 => some (.topk p a b)
  | _ => none

/-- The instructions of OP 0x3A by XOP (R127). -/
def build3A (xop : Nat) (p : Pred) (a b : Target) : Option Instr :=
  match xop with
  | 0 => some (.itbl p)
  | 1 => some (.itperm p a b)
  | 2 => some (.igather p)
  | 3 => some (.walk p)
  | _ => none

/-- A T2 word: its predicate and targets, and the instruction of its group. -/
def withT2 (w : Word32) (g : Nat → Pred → Target → Target → Option Instr) : Option Instr :=
  (Pred.parse (fPr w)).bind fun p => (Target.parse (fTa w)).bind fun a => (Target.parse (fTb w)).bind fun b =>
    g (fXop w).toNat p a b

/-- A T1I word: its predicate, immediate and target. -/
def withT1I (w : Word32) (g : Pred → BitVec 15 → Target → Option Instr) : Option Instr :=
  (Pred.parse (fPr w)).bind fun p => (Target.parse (fTa w)).bind fun a => g p (fImm15 w) a

/-- An M word: its predicate, LSID, offset and target (R122). -/
def withM (w : Word32) (g : Pred → BitVec 6 → BitVec 9 → Target → Instr) : Option Instr :=
  (Pred.parse (fPr w)).bind fun p => (Target.parse (fTa w)).map fun a => g p (fXop w) (fTb w) a

/-- An RD word that delivers: its register and targets (R123). -/
def withRD (w : Word32) (g : BitVec 7 → Target → Target → Instr) : Option Instr :=
  (Target.parse (fTa w)).bind fun a => (Target.parse (fTb w)).map fun b => g (fReg w) a b

/-- R125: RGN and RCNT. -/
def build1A (p : Pred) (i : BitVec 15) (a : Target) : Option Instr :=
  match p with
  | .always =>
    if i.extractLsb' 14 1 = 0 then
      some (.rgn (i.extractLsb' 11 3) (i.extractLsb' 7 4) (i.extractLsb' 1 1 == 1) (i.extractLsb' 0 1 == 1))
    else some (.rcnt a)
  | _ => none

/-- R126: the system group. -/
def build1C (p : Pred) (i : BitVec 15) (a : Target) : Option Instr :=
  match (i.extractLsb' 11 4).toNat with
  | 0 => some (.trap p (i.extractLsb' 0 11))
  | 1 => some (.mfsr p (i.extractLsb' 0 11) a)
  | 2 => some (.mtsr p (i.extractLsb' 0 11))
  | 3 => some (.resume p a)
  | 4 => some (.tlbi p)
  | 5 => some (.perf p (i.extractLsb' 0 6) a)
  | 6 => some (.idle p a)
  | _ => none

/-- The instruction of a word whose load checks LC3 to LC8 pass. -/
def build (w : Word32) : Option Instr :=
  match (fOp w).toNat with
  | 0x01 => withRD w .read
  | 0x02 => some (.write (fReg w))
  | 0x03 => if fTa w = 0 ∧ fTb w = 0 then some (.writep (fReg w)) else withRD w .readp
  | 0x05 => withT1I w fun _ i a => some (.genc i a)
  | 0x06 => withT1I w fun p i a => some (.appc p i a)
  | 0x07 => (Pred.parse (fPr w)).map fun p => .bro p (fOff24 w)
  | 0x0C => withT1I w fun p i a => some (.addi p i a)
  | 0x0D => withT1I w fun p i a => some (.andi p i a)
  | 0x0E => withT1I w fun p i a => some (.ori p i a)
  | 0x0F => withT1I w fun p i a => some (.xori p i a)
  | 0x10 => withT1I w fun p i a => some (.shli p (i.extractLsb' 0 6) a)
  | 0x11 => withT1I w fun p i a => some (.shri p (i.extractLsb' 0 6) a)
  | 0x12 => withT1I w fun p i a => some (.sari p (i.extractLsb' 0 6) a)
  | 0x13 => withT1I w fun p i a => some (.teqi p i a)
  | 0x14 => withT1I w fun p i a => some (.tlti p i a)
  | 0x1A => withT1I w build1A
  | 0x1C => withT1I w build1C
  | 0x20 => withM w .ldb
  | 0x21 => withM w .ldh
  | 0x22 => withM w .ldw
  | 0x23 => withM w .ldd
  | 0x24 => withM w .ldsb
  | 0x25 => withM w .ldsh
  | 0x26 => withM w .ldsw
  | 0x27 => withM w fun p l o _ => .pref p l o
  | 0x28 => withM w fun p l o _ => .stb p l o
  | 0x29 => withM w fun p l o _ => .sth p l o
  | 0x2A => withM w fun p l o _ => .stw p l o
  | 0x2B => withM w fun p l o _ => .std p l o
  | 0x04 => withT2 w build04
  | 0x08 => withT2 w build08
  | 0x09 => withT2 w build09
  | 0x0A => withT2 w build0A
  | 0x0B => withT2 w build0B
  | 0x15 => withT2 w build15
  | 0x16 => withT2 w build16
  | 0x17 => withT2 w build17
  | 0x18 => withT2 w build18
  | 0x19 => withT2 w build19
  | 0x1B => withT2 w build1B
  | 0x2C => withT2 w build2C
  | 0x2D => withT2 w build2D
  | 0x2E => withT2 w build2E
  | 0x30 => withT2 w build30
  | 0x31 => withT2 w build31
  | 0x32 => withT2 w build32
  | 0x33 => withT2 w build33
  | 0x34 => withT2 w build34
  | 0x35 => withT2 w build35
  | 0x36 => withT2 w build36
  | 0x37 => withT2 w build37
  | 0x38 => withT2 w build38
  | 0x39 => withT2 w build39
  | 0x3A => withT2 w build3A
  | _ => none

/-- R117 to R131: the instruction of a word, or the load check that it fails first. -/
def decode (w : Word32) : Except DecodeError Instr :=
  if lc3 w then .error .reservedOp
  else if lc4 w then .error .reservedField
  else if lc5 w then .error .nonzeroBits
  else if lc6 w then .error .reservedPred
  else if lc7 w then .error .notPredicable
  else if lc8 w then .error .badTarget
  else if lc16 w then .error .oddRegister
  else match build w with
    | some i => .ok i
    | none => .error .reservedOp

/-! ## Encoding -/

/-- A T2 word (R117). -/
def encT2 (op : BitVec 6) (p : BitVec 2) (xop : BitVec 6) (b a : BitVec 9) : Word32 := op ++ p ++ xop ++ b ++ a
/-- A T1I word (R117). -/
def encT1I (op : BitVec 6) (p : BitVec 2) (imm : BitVec 15) (a : BitVec 9) : Word32 := op ++ p ++ imm ++ a
/-- An M word (R117, R122). -/
def encM (op : BitVec 6) (p : BitVec 2) (lsid : BitVec 6) (off a : BitVec 9) : Word32 := op ++ p ++ lsid ++ off ++ a
/-- An RD word (R117, R123). -/
def encRD (op : BitVec 6) (r : BitVec 7) (b a : BitVec 9) : Word32 := op ++ (0 : BitVec 1) ++ r ++ b ++ a
/-- A B word (R117, R124). -/
def encB (p : BitVec 2) (off : BitVec 24) : Word32 := (0x07 : BitVec 6) ++ p ++ off

/-- The word of an instruction; an event has none. -/
def encode : Instr → Option Word32
  | .read r a b => some (encRD 0x01 r b.bits a.bits)
  | .write r => some (encRD 0x02 r 0 0)
  | .readp r a b => some (encRD 0x03 r b.bits a.bits)
  | .writep r => some (encRD 0x03 r 0 0)
  | .mov p a b => some (encT2 0x04 p.bits 0 b.bits a.bits)
  | .nul a b => some (encT2 0x04 0 1 b.bits a.bits)
  | .stop p => some (encT2 0x04 p.bits 2 0 0)
  | .yield p => some (encT2 0x04 p.bits 3 0 0)
  | .self p a b => some (encT2 0x04 p.bits 4 b.bits a.bits)
  | .genc imm a => some (encT1I 0x05 0 imm a.bits)
  | .appc p imm a => some (encT1I 0x06 p.bits imm a.bits)
  | .bro p off => some (encB p.bits off)
  | .bri p => some (encT2 0x08 p.bits 0 0 0)
  | .call p => some (encT2 0x08 p.bits 1 0 0)
  | .calli p => some (encT2 0x08 p.bits 2 0 0)
  | .ret p => some (encT2 0x08 p.bits 3 0 0)
  | .add p a b => some (encT2 0x09 p.bits 0 b.bits a.bits)
  | .sub p a b => some (encT2 0x09 p.bits 1 b.bits a.bits)
  | .mul p a b => some (encT2 0x09 p.bits 2 b.bits a.bits)
  | .mulh p a b => some (encT2 0x09 p.bits 3 b.bits a.bits)
  | .mulhu p a b => some (encT2 0x09 p.bits 4 b.bits a.bits)
  | .div p a b => some (encT2 0x09 p.bits 5 b.bits a.bits)
  | .divu p a b => some (encT2 0x09 p.bits 6 b.bits a.bits)
  | .rem p a b => some (encT2 0x09 p.bits 7 b.bits a.bits)
  | .remu p a b => some (encT2 0x09 p.bits 8 b.bits a.bits)
  | .and p a b => some (encT2 0x0A p.bits 0 b.bits a.bits)
  | .or p a b => some (encT2 0x0A p.bits 1 b.bits a.bits)
  | .xor p a b => some (encT2 0x0A p.bits 2 b.bits a.bits)
  | .andn p a b => some (encT2 0x0A p.bits 3 b.bits a.bits)
  | .shl p a b => some (encT2 0x0A p.bits 4 b.bits a.bits)
  | .shr p a b => some (encT2 0x0A p.bits 5 b.bits a.bits)
  | .sar p a b => some (encT2 0x0A p.bits 6 b.bits a.bits)
  | .rotl p a b => some (encT2 0x0A p.bits 7 b.bits a.bits)
  | .clz p a b => some (encT2 0x0A p.bits 8 b.bits a.bits)
  | .ctz p a b => some (encT2 0x0A p.bits 9 b.bits a.bits)
  | .popc p a b => some (encT2 0x0A p.bits 10 b.bits a.bits)
  | .min p a b => some (encT2 0x0B p.bits 0 b.bits a.bits)
  | .max p a b => some (encT2 0x0B p.bits 1 b.bits a.bits)
  | .minu p a b => some (encT2 0x0B p.bits 2 b.bits a.bits)
  | .maxu p a b => some (encT2 0x0B p.bits 3 b.bits a.bits)
  | .sext p a b => some (encT2 0x0B p.bits 4 b.bits a.bits)
  | .zext p a b => some (encT2 0x0B p.bits 5 b.bits a.bits)
  | .bfx p a b => some (encT2 0x0B p.bits 6 b.bits a.bits)
  | .bfi p a b => some (encT2 0x0B p.bits 7 b.bits a.bits)
  | .addi p imm a => some (encT1I 0x0C p.bits imm a.bits)
  | .andi p imm a => some (encT1I 0x0D p.bits imm a.bits)
  | .ori p imm a => some (encT1I 0x0E p.bits imm a.bits)
  | .xori p imm a => some (encT1I 0x0F p.bits imm a.bits)
  | .shli p s a => some (encT1I 0x10 p.bits (s.setWidth 15) a.bits)
  | .shri p s a => some (encT1I 0x11 p.bits (s.setWidth 15) a.bits)
  | .sari p s a => some (encT1I 0x12 p.bits (s.setWidth 15) a.bits)
  | .teqi p imm a => some (encT1I 0x13 p.bits imm a.bits)
  | .tlti p imm a => some (encT1I 0x14 p.bits imm a.bits)
  | .teq p a b => some (encT2 0x15 p.bits 0 b.bits a.bits)
  | .tne p a b => some (encT2 0x15 p.bits 1 b.bits a.bits)
  | .tlt p a b => some (encT2 0x15 p.bits 2 b.bits a.bits)
  | .tle p a b => some (encT2 0x15 p.bits 3 b.bits a.bits)
  | .tltu p a b => some (encT2 0x15 p.bits 4 b.bits a.bits)
  | .tleu p a b => some (encT2 0x15 p.bits 5 b.bits a.bits)
  | .tbit p a b => some (encT2 0x15 p.bits 6 b.bits a.bits)
  | .fadd p f a b => some (encT2 0x16 p.bits ((0 : BitVec 4) ++ f) b.bits a.bits)
  | .fsub p f a b => some (encT2 0x16 p.bits ((1 : BitVec 4) ++ f) b.bits a.bits)
  | .fmul p f a b => some (encT2 0x16 p.bits ((2 : BitVec 4) ++ f) b.bits a.bits)
  | .fdiv p f a b => some (encT2 0x16 p.bits ((3 : BitVec 4) ++ f) b.bits a.bits)
  | .fsqrt p f a b => some (encT2 0x16 p.bits ((4 : BitVec 4) ++ f) b.bits a.bits)
  | .fmin p f a b => some (encT2 0x16 p.bits ((5 : BitVec 4) ++ f) b.bits a.bits)
  | .fmax p f a b => some (encT2 0x16 p.bits ((6 : BitVec 4) ++ f) b.bits a.bits)
  | .fceq p f a b => some (encT2 0x16 p.bits ((7 : BitVec 4) ++ f) b.bits a.bits)
  | .fclt p f a b => some (encT2 0x16 p.bits ((8 : BitVec 4) ++ f) b.bits a.bits)
  | .fcle p f a b => some (encT2 0x16 p.bits ((9 : BitVec 4) ++ f) b.bits a.bits)
  | .fcvt p f a b => some (encT2 0x16 p.bits ((10 : BitVec 4) ++ f) b.bits a.bits)
  | .fclass p f a b => some (encT2 0x16 p.bits ((11 : BitVec 4) ++ f) b.bits a.bits)
  | .sel a b => some (encT2 0x17 0 0 b.bits a.bits)
  | .ffma f a b => some (encT2 0x17 0 ((1 : BitVec 4) ++ f) b.bits a.bits)
  | .lea p s a b => some (encT2 0x17 p.bits ((2 : BitVec 4) ++ s) b.bits a.bits)
  | .fork p => some (encT2 0x18 p.bits 0 0 0)
  | .forkn p => some (encT2 0x18 p.bits 1 0 0)
  | .send p => some (encT2 0x18 p.bits 2 0 0)
  | .fralloc p a b => some (encT2 0x18 p.bits 3 b.bits a.bits)
  | .frfree p => some (encT2 0x18 p.bits 4 0 0)
  | .tagget p a b => some (encT2 0x18 p.bits 5 b.bits a.bits)
  | .tagset p => some (encT2 0x18 p.bits 6 0 0)
  | .dqpush p a b => some (encT2 0x19 p.bits 0 b.bits a.bits)
  | .dqpop p a b => some (encT2 0x19 p.bits 1 b.bits a.bits)
  | .dqsteal p a b => some (encT2 0x19 p.bits 2 b.bits a.bits)
  | .rgn scope cls drainpref efence => some (encT1I 0x1A 0 ((0 : BitVec 1) ++ scope ++ cls ++ (0 : BitVec 5) ++ BitVec.ofBool drainpref ++ BitVec.ofBool efence) 0)
  | .rcnt a => some (encT1I 0x1A 0 0x4000 a.bits)
  | .gbar p a b => some (encT2 0x1B p.bits 0 b.bits a.bits)
  | .gbarx p => some (encT2 0x1B p.bits 1 0 0)
  | .mring p a b => some (encT2 0x1B p.bits 2 b.bits a.bits)
  | .msend p => some (encT2 0x1B p.bits 3 0 0)
  | .mwait p a b => some (encT2 0x1B p.bits 4 b.bits a.bits)
  | .trap p code => some (encT1I 0x1C p.bits ((0 : BitVec 4) ++ (code : BitVec 11)) 0)
  | .mfsr p n a => some (encT1I 0x1C p.bits ((1 : BitVec 4) ++ (n : BitVec 11)) a.bits)
  | .mtsr p n => some (encT1I 0x1C p.bits ((2 : BitVec 4) ++ (n : BitVec 11)) 0)
  | .resume p a => some (encT1I 0x1C p.bits ((3 : BitVec 4) ++ (0 : BitVec 11)) a.bits)
  | .tlbi p => some (encT1I 0x1C p.bits ((4 : BitVec 4) ++ (0 : BitVec 11)) 0)
  | .perf p c a => some (encT1I 0x1C p.bits ((5 : BitVec 4) ++ (c.setWidth 11 : BitVec 11)) a.bits)
  | .idle p a => some (encT1I 0x1C p.bits ((6 : BitVec 4) ++ (0 : BitVec 11)) a.bits)
  | .ldb p lsid off a => some (encM 0x20 p.bits lsid off a.bits)
  | .ldh p lsid off a => some (encM 0x21 p.bits lsid off a.bits)
  | .ldw p lsid off a => some (encM 0x22 p.bits lsid off a.bits)
  | .ldd p lsid off a => some (encM 0x23 p.bits lsid off a.bits)
  | .ldsb p lsid off a => some (encM 0x24 p.bits lsid off a.bits)
  | .ldsh p lsid off a => some (encM 0x25 p.bits lsid off a.bits)
  | .ldsw p lsid off a => some (encM 0x26 p.bits lsid off a.bits)
  | .pref p lsid off => some (encM 0x27 p.bits lsid off 0)
  | .stb p lsid off => some (encM 0x28 p.bits lsid off 0)
  | .sth p lsid off => some (encM 0x29 p.bits lsid off 0)
  | .stw p lsid off => some (encM 0x2A p.bits lsid off 0)
  | .std p lsid off => some (encM 0x2B p.bits lsid off 0)
  | .aadd p w a b => some (encT2 0x2C p.bits (BitVec.ofBool w ++ (0 : BitVec 5)) b.bits a.bits)
  | .aswp p w a b => some (encT2 0x2C p.bits (BitVec.ofBool w ++ (1 : BitVec 5)) b.bits a.bits)
  | .acas w a b => some (encT2 0x2C 0 (BitVec.ofBool w ++ (2 : BitVec 5)) b.bits a.bits)
  | .amin p w a b => some (encT2 0x2C p.bits (BitVec.ofBool w ++ (3 : BitVec 5)) b.bits a.bits)
  | .amax p w a b => some (encT2 0x2C p.bits (BitVec.ofBool w ++ (4 : BitVec 5)) b.bits a.bits)
  | .aminu p w a b => some (encT2 0x2C p.bits (BitVec.ofBool w ++ (5 : BitVec 5)) b.bits a.bits)
  | .amaxu p w a b => some (encT2 0x2C p.bits (BitVec.ofBool w ++ (6 : BitVec 5)) b.bits a.bits)
  | .aand p w a b => some (encT2 0x2C p.bits (BitVec.ofBool w ++ (7 : BitVec 5)) b.bits a.bits)
  | .aor p w a b => some (encT2 0x2C p.bits (BitVec.ofBool w ++ (8 : BitVec 5)) b.bits a.bits)
  | .axor p w a b => some (encT2 0x2C p.bits (BitVec.ofBool w ++ (9 : BitVec 5)) b.bits a.bits)
  | .amaxrs p w a b => some (encT2 0x2C p.bits (BitVec.ofBool w ++ (10 : BitVec 5)) b.bits a.bits)
  | .radd p w => some (encT2 0x2D p.bits (BitVec.ofBool w ++ (0 : BitVec 5)) 0 0)
  | .rmin p w => some (encT2 0x2D p.bits (BitVec.ofBool w ++ (1 : BitVec 5)) 0 0)
  | .rmax p w => some (encT2 0x2D p.bits (BitVec.ofBool w ++ (2 : BitVec 5)) 0 0)
  | .rand p w => some (encT2 0x2D p.bits (BitVec.ofBool w ++ (3 : BitVec 5)) 0 0)
  | .ror p w => some (encT2 0x2D p.bits (BitVec.ofBool w ++ (4 : BitVec 5)) 0 0)
  | .rxor p w => some (encT2 0x2D p.bits (BitVec.ofBool w ++ (5 : BitVec 5)) 0 0)
  | .rfadd p w => some (encT2 0x2D p.bits (BitVec.ofBool w ++ (6 : BitVec 5)) 0 0)
  | .cpy p => some (encT2 0x2E p.bits 0 0 0)
  | .cpyt p => some (encT2 0x2E p.bits 1 0 0)
  | .coll p => some (encT2 0x2E p.bits 2 0 0)
  | .wsld p => some (encT2 0x2E p.bits 3 0 0)
  | .wsref p a b => some (encT2 0x2E p.bits 4 b.bits a.bits)
  | .bufdef p => some (encT2 0x30 p.bits 0 0 0)
  | .bufinfo p a b => some (encT2 0x30 p.bits 1 b.bits a.bits)
  | .waitf p a b => some (encT2 0x30 p.bits 2 b.bits a.bits)
  | .waite p a b => some (encT2 0x30 p.bits 3 b.bits a.bits)
  | .advp p => some (encT2 0x30 p.bits 4 0 0)
  | .advc p => some (encT2 0x30 p.bits 5 0 0)
  | .sload p => some (encT2 0x31 p.bits 0 0 0)
  | .sstore p => some (encT2 0x31 p.bits 1 0 0)
  | .vadd p a b => some (encT2 0x32 p.bits 0 b.bits a.bits)
  | .vsub p a b => some (encT2 0x32 p.bits 1 b.bits a.bits)
  | .vmul p a b => some (encT2 0x32 p.bits 2 b.bits a.bits)
  | .vfma a b => some (encT2 0x32 0 3 b.bits a.bits)
  | .vmin p a b => some (encT2 0x32 p.bits 4 b.bits a.bits)
  | .vmax p a b => some (encT2 0x32 p.bits 5 b.bits a.bits)
  | .vabs p a b => some (encT2 0x32 p.bits 6 b.bits a.bits)
  | .vneg p a b => some (encT2 0x32 p.bits 7 b.bits a.bits)
  | .vexp2 p a b => some (encT2 0x32 p.bits 8 b.bits a.bits)
  | .vrcp p a b => some (encT2 0x32 p.bits 9 b.bits a.bits)
  | .vrsq p a b => some (encT2 0x32 p.bits 10 b.bits a.bits)
  | .vcvt p a b => some (encT2 0x32 p.bits 11 b.bits a.bits)
  | .vsel p a b => some (encT2 0x32 p.bits 12 b.bits a.bits)
  | .vcmp p a b => some (encT2 0x32 p.bits 13 b.bits a.bits)
  | .vand p a b => some (encT2 0x32 p.bits 14 b.bits a.bits)
  | .vor p a b => some (encT2 0x32 p.bits 15 b.bits a.bits)
  | .vxor p a b => some (encT2 0x32 p.bits 16 b.bits a.bits)
  | .vshl p a b => some (encT2 0x32 p.bits 17 b.bits a.bits)
  | .vshr p a b => some (encT2 0x32 p.bits 18 b.bits a.bits)
  | .vredsum p a b => some (encT2 0x33 p.bits 0 b.bits a.bits)
  | .vredmax p a b => some (encT2 0x33 p.bits 1 b.bits a.bits)
  | .vredmin p a b => some (encT2 0x33 p.bits 2 b.bits a.bits)
  | .vscan p a b => some (encT2 0x33 p.bits 3 b.bits a.bits)
  | .vperm p a b => some (encT2 0x33 p.bits 4 b.bits a.bits)
  | .vbcast p a b => some (encT2 0x33 p.bits 5 b.bits a.bits)
  | .visect p a b => some (encT2 0x33 p.bits 6 b.bits a.bits)
  | .tld p a b => some (encT2 0x34 p.bits 0 b.bits a.bits)
  | .tldt p a b => some (encT2 0x34 p.bits 1 b.bits a.bits)
  | .tst p a b => some (encT2 0x34 p.bits 2 b.bits a.bits)
  | .tzero p a b => some (encT2 0x35 p.bits 0 b.bits a.bits)
  | .tmma a b => some (encT2 0x35 0 1 b.bits a.bits)
  | .tcvt p a b => some (encT2 0x35 p.bits 2 b.bits a.bits)
  | .tdrain p a b => some (encT2 0x35 p.bits 3 b.bits a.bits)
  | .steer a b => some (encT2 0x36 0 0 b.bits a.bits)
  | .merge p a b => some (encT2 0x36 p.bits 1 b.bits a.bits)
  | .gdef p => some (encT2 0x37 p.bits 0 0 0)
  | .gseed p a b => some (encT2 0x37 p.bits 1 b.bits a.bits)
  | .kput p => some (encT2 0x38 p.bits 0 0 0)
  | .kdel p => some (encT2 0x38 p.bits 1 0 0)
  | .kappend p => some (encT2 0x38 p.bits 2 0 0)
  | .kmerge p => some (encT2 0x38 p.bits 3 0 0)
  | .matchQ a b => some (encT2 0x38 0 4 b.bits a.bits)
  | .matchc a b => some (encT2 0x38 0 5 b.bits a.bits)
  | .mscan p => some (encT2 0x38 p.bits 6 0 0)
  | .ksum p => some (encT2 0x38 p.bits 7 0 0)
  | .matchb p a b => some (encT2 0x38 p.bits 8 b.bits a.bits)
  | .mdom p => some (encT2 0x38 p.bits 9 0 0)
  | .topk p a b => some (encT2 0x39 p.bits 0 b.bits a.bits)
  | .itbl p => some (encT2 0x3A p.bits 0 0 0)
  | .itperm p a b => some (encT2 0x3A p.bits 1 b.bits a.bits)
  | .igather p => some (encT2 0x3A p.bits 2 0 0)
  | .walk p => some (encT2 0x3A p.bits 3 0 0)
  | .strandPlace _ _ => none
  | .blockFetch _ => none
  | .blockCommit _ => none
  | .loadReturn _ _ => none
  | .regionEnd _ => none
  | .publishStep2 _ => none
  | .queuedPublishResume _ => none
  | .linePerformedAtHome _ => none
  | .heldStrandRecord _ => none
  | .sendArriveHome _ => none
  | .heldSendDeliver _ => none
  | .forkChildCreate _ => none
  | .tagsetRelease _ => none
  | .homeAtomicPerform _ _ => none
  | .homeReductionPerform _ => none
  | .barrierArrival _ => none
  | .groveReturn _ _ => none
  | .ringRecordArrive _ => none
  | .ringHoldExpire _ _ _ => none
  | .msendReturnArrive _ _ _ _ _ _ _ _ => none
  | .engineStart _ => none
  | .engineSlotResume _ => none
  | .engineComplete _ => none
  | .drainPlace _ => none
  | .collContributionArrive _ => none
  | .collResultArrive _ _ _ => none
  | .domainGrant _ => none
  | .storeQueryGrant _ _ => none
  | .matchMerge _ => none
  | .storeDecisions _ _ => none
  | .storeKputInsert _ => none
  | .storeKdel _ => none
  | .mdomAttach _ => none
  | .mdomDetach _ => none
  | .mdomServe _ => none
  | .mdomRebuild _ => none
  | .mdomClear _ => none
  | .collectionKappend _ => none
  | .collectionKmerge _ => none
  | .collectionScanGrant _ => none
  | .itpermPerform _ _ => none
  | .tlbiComplete _ => none
  | .xreplyMapped _ _ => none
  | .xreplyInvalid _ _ => none
  | .refreshWindowStart _ _ => none
  | .refreshWindowEnd _ _ => none
  | .weightStoreWrite _ _ _ => none
  | .idleTimeout _ _ => none
  | .residentIterationStart _ _ _ _ => none
  | .residentIterationEnd _ => none
  | .reconfigTokenPass _ => none
  | .fabricPageMove _ _ _ => none
  | .lqDoorbell _ _ => none
  | .taskLaunch _ => none
  | .taskEnd _ _ => none
  | .preemptChoice _ => none
  | .preemptSave _ => none
  | .taskResume _ => none
  | .mtsrFring _ _ => none
  | .mtsrMdt _ _ => none
  | .mtsrRoute _ _ => none
  | .mtsrFstat _ _ => none
  | .registerWrite _ _ => none
  | .heatSnapshot => none
  | .ownerCacheDrop _ => none
  | .migGo _ _ _ => none
  | .migSlotWake _ _ => none
  | .moveOpen _ _ _ _ => none
  | .tile _ _ _ _ => none
  | .precopyPassEnd _ => none
  | .finalDrained _ => none
  | .commit _ _ _ _ => none
  | .commitAck _ => none
  | .relay _ => none
  | .redirCompletion _ _ => none
  | .retire _ _ _ => none
  | .retireAck _ _ => none
  | .hold _ _ => none
  | .stubGone _ => none
  | .escapeDivert _ => none
  | .escapeHandoff _ => none
  | .flitCrcReplay _ => none
  | .corruptHeaderFence _ => none
  | .payloadUncorrectable _ => none
  | .portFail _ => none
  | .retrain _ => none
  | .portTrained _ _ => none
  | .powerGood => none
  | .safeImageArrive _ => none
  | .memoryTrainingDone _ _ => none
  | .terraceTestDone _ _ _ => none
  | .admitTerrace _ => none
  | .guardTick _ _ => none
  | .coolantFlowLost => none
  | .measExtend _ _ => none
  | .quoteRequest _ => none
  | .quoteServe => none
  | .hdb _ => none
  | .rootPortRequest _ _ _ _ => none
  | .patrolScrub _ _ => none
  | .softErrorDetected .. => none
  | .uncorrectablePoison _ => none
  | .lodgeDoorbell _ => none
  | .powerLost => none

/-- The instruction that `decode` reads from the table's word of `nbits` bits; an event's row has none (R117: every
instruction is one 32-bit word, bit 0 its least significant bit). -/
def decodeTableWord (nbits w : Nat) : Option Instr :=
  if nbits = 0 then none
  else match decode (BitVec.ofNat 32 w) with
    | .ok i => some i
    | .error _ => none

end Sys2Proof
end

