-- ==== Sys2Proof/Machine/Formats.lean ====
section
/-! DEFINITION. Number formats and exact arithmetic (spec/03_number_formats.md). A number is held exactly, as a sign and
a magnitude m * 2^e; every operation is exact and is then rounded once. -/

namespace Sys2Proof.Machine

/-- The eight format tags (R83). -/
inductive Fmt where
  | int32 | fp32 | fp64 | bf16 | fp16 | int8 | int4 | ps8
deriving DecidableEq, Repr

/-- The format of a 3-bit tag (R83). -/
def Fmt.ofTag (n : Nat) : Fmt :=
  match n % 8 with
  | 0 => .int32 | 1 => .fp32 | 2 => .fp64 | 3 => .bf16 | 4 => .fp16 | 5 => .int8 | 6 => .int4 | _ => .ps8

/-- The tag of a format (R83). -/
def Fmt.tag : Fmt → Nat
  | .int32 => 0 | .fp32 => 1 | .fp64 => 2 | .bf16 => 3 | .fp16 => 4 | .int8 => 5 | .int4 => 6 | .ps8 => 7

/-- Element width w in bits (R83). -/
def Fmt.width : Fmt → Nat
  | .int32 => 32 | .fp32 => 32 | .fp64 => 64 | .bf16 => 16 | .fp16 => 16 | .int8 => 8 | .int4 => 4 | .ps8 => 8

/-- Significand width m (R83). -/
def Fmt.sig : Fmt → Nat
  | .int32 => 32 | .fp32 => 24 | .fp64 => 53 | .bf16 => 8 | .fp16 => 11 | .int8 => 8 | .int4 => 4 | .ps8 => 2

/-- Bytes of a 32 x 32 tile (R83). -/
def Fmt.tileBytes (f : Fmt) : Nat := 128 * f.width

def Fmt.isFloat : Fmt → Bool
  | .fp32 | .fp64 | .bf16 | .fp16 => true
  | _ => false

/-- The narrow formats, whose tiles carry row scales (R89). -/
def Fmt.isNarrow : Fmt → Bool
  | .int8 | .int4 | .ps8 => true
  | _ => false

def Fmt.isInt : Fmt → Bool
  | .int32 | .int8 | .int4 => true
  | _ => false

/-- Bits of the exponent field of a floating format (R85). -/
def Fmt.expBits : Fmt → Nat
  | .fp64 => 11 | .fp32 => 8 | .bf16 => 8 | .fp16 => 5 | _ => 0

/-- Bits of the fraction field (R85). -/
def Fmt.fracBits : Fmt → Nat
  | .fp64 => 52 | .fp32 => 23 | .bf16 => 7 | .fp16 => 10 | _ => 0

/-- The exponent bias (R85). -/
def Fmt.bias : Fmt → Nat
  | .fp64 => 1023 | .fp32 => 127 | .bf16 => 127 | .fp16 => 15 | _ => 0

/-- +Inf of a floating format (R85). -/
def Fmt.inf (f : Fmt) : Nat := (2 ^ f.expBits - 1) * 2 ^ f.fracBits

/-- The canonical NaN (R85). -/
def Fmt.nan (f : Fmt) : Nat := f.inf + 2 ^ (f.fracBits - 1)

/-- The sign bit. -/
def Fmt.signBit (f : Fmt) (neg : Bool) : Nat := if neg then 2 ^ (f.width - 1) else 0

/-- An exact value: a NaN, an infinity, or (-1)^neg * m * 2^e. -/
inductive Num where
  | nan
  | inf (neg : Bool)
  | fin (neg : Bool) (m : Nat) (e : Int)
deriving DecidableEq, Repr

/-- A rounding mode (R88). -/
inductive RM where
  | rne | rtz
deriving DecidableEq, Repr

def RM.ofBit (b : Bool) : RM := if b then .rtz else .rne

def Num.ofInt (i : Int) : Num := .fin (i < 0) i.natAbs 0

def Num.isNan : Num → Bool
  | .nan => true
  | _ => false

def Num.isZero : Num → Bool
  | .fin _ m _ => m == 0
  | _ => false

def Num.neg : Num → Num
  | .nan => .nan
  | .inf s => .inf (!s)
  | .fin s m e => .fin (!s) m e

def Num.abs : Num → Num
  | .nan => .nan
  | .inf _ => .inf false
  | .fin _ m e => .fin false m e

def Num.isNeg : Num → Bool
  | .nan => false
  | .inf s => s
  | .fin s _ _ => s

/-- x * 2^k, exactly. -/
def Num.scale (x : Num) (k : Int) : Num :=
  match x with
  | .fin s m e => .fin s m (e + k)
  | y => y

/-- m * 2^k rounded to an integer under rm, ties to even under RNE (R88). -/
def roundNat (m : Nat) (k : Int) (rm : RM) : Nat :=
  if 0 ≤ k then m <<< k.toNat
  else
    let s := (-k).toNat
    let q := m >>> s
    let r := m - (q <<< s)
    match rm with
    | .rtz => q
    | .rne =>
      let h := 2 ^ (s - 1)
      if r > h then q + 1 else if r = h then q + q % 2 else q

/-- A finite magnitude in a floating format, its exponent range unbounded above: the rounded significand placed at the
format's field boundaries, so that a value at or above the format's `inf` stands for overflow (R88, R93). -/
def roundFinRaw (f : Fmt) (rm : RM) (m : Nat) (e : Int) : Nat :=
  if m = 0 then 0
  else
    let emin : Int := 1 - (f.bias : Int)
    let q : Int := Max.max ((Nat.log2 m : Int) + e - (f.fracBits : Int)) (emin - (f.fracBits : Int))
    let sg := roundNat m (e - q) rm
    (q - (emin - (f.fracBits : Int))).toNat * 2 ^ f.fracBits + sg

/-- round(v, fmt, rm) for a floating format (R86, R88); the bits of the result. -/
def roundF (f : Fmt) (rm : RM) (x : Num) : Nat :=
  match x with
  | .nan => f.nan
  | .inf s => f.signBit s + f.inf
  | .fin s m e =>
    let b := roundFinRaw f rm m e
    if b < f.inf then f.signBit s + b
    else match rm with
      | .rne => f.signBit s + f.inf
      | .rtz => f.signBit s + f.inf - 1

/-- The exact value of a floating element (R85, R87). -/
def decodeF (f : Fmt) (bits : Nat) : Num :=
  let b := bits % 2 ^ f.width
  let s := b / 2 ^ (f.width - 1) = 1
  let ex := b / 2 ^ f.fracBits % 2 ^ f.expBits
  let fr := b % 2 ^ f.fracBits
  if ex = 2 ^ f.expBits - 1 then
    if fr = 0 then .inf s else .nan
  else if ex = 0 then .fin s fr (1 - (f.bias : Int) - (f.fracBits : Int))
  else .fin s (2 ^ f.fracBits + fr) ((ex : Int) - (f.bias : Int) - (f.fracBits : Int))

/-- A two's complement field of w bits. -/
def signedOf (w bits : Nat) : Int :=
  let b := bits % 2 ^ w
  if b < 2 ^ (w - 1) then (b : Int) else (b : Int) - (2 ^ w : Nat)

/-- The low w bits of an integer. -/
def bitsOf (w : Nat) (i : Int) : Nat := (i % (2 ^ w : Nat)).toNat

/-- Smallest and largest value of an integer format (R84). -/
def Fmt.minInt (f : Fmt) : Int := -((2 ^ (f.width - 1) : Nat) : Int)
def Fmt.maxInt (f : Fmt) : Int := ((2 ^ (f.width - 1) : Nat) : Int) - 1

/-- An exact finite value rounded to an integer (R88). -/
def roundInt (neg : Bool) (m : Nat) (e : Int) (rm : RM) : Int :=
  if neg then -((roundNat m e rm : Nat) : Int) else ((roundNat m e rm : Nat) : Int)

/-! ### PS8 (R90, R91): values in units of 2^-6 -/

/-- term(s, c) in units of 2^-6 (R90). -/
def ps8Term (s c : Nat) : Int :=
  if c = 7 then 0 else if s = 1 then -((2 ^ (6 - c) : Nat) : Int) else ((2 ^ (6 - c) : Nat) : Int)

/-- ps8_value with E = 0, in units of 2^-6 (R90). -/
def ps8Units (code : Nat) : Int :=
  ps8Term (code / 128 % 2) (code / 16 % 8) + ps8Term (code / 8 % 2) (code % 8)

/-- Codes in the order of preference of R91: one term, two terms of one sign, two of opposite signs; A at most B. -/
def ps8Order : List (Nat × Nat) :=
  (List.range 2).flatMap (fun s => (List.range 7).map fun c => (1, s * 128 + c * 16 + 7))
  ++ (List.range 2).flatMap (fun s => (List.range 7).flatMap fun a =>
      (List.range (7 - a)).map fun d => (2, s * 128 + a * 16 + s * 8 + (a + d)))
  ++ (List.range 2).flatMap (fun s => (List.range 7).flatMap fun a =>
      (List.range (7 - a)).map fun d => (2, s * 128 + a * 16 + (1 - s) * 8 + (a + d)))

/-- The canonical code of a value in units of 2^-6 and its number of terms (R91). -/
def ps8Canon (v : Int) : Option (Nat × Nat) :=
  if v = 0 then some (0, 0x77) else ps8Order.find? fun c => ps8Units c.2 == v

/-- The magnitudes that PS8 represents, rising, with their number of terms (R91). -/
def ps8Mags : List (Nat × Nat) :=
  (List.range 129).filterMap fun (n : Nat) => (ps8Canon (n : Int)).map fun c => (n, c.1)

/-- The code of a signed value in units of 2^-6. -/
def ps8Code (neg : Bool) (n : Nat) : Nat :=
  match ps8Canon (if neg then -(n : Int) else (n : Int)) with
  | some c => c.2
  | none => 0x77

/-- to_ps8 of a finite magnitude m * 2^e: the nearest PS8 magnitude in units of 2^-6; ties go to fewer terms, then to
the smaller (R91). -/
def ps8Nearest (m : Nat) (e : Int) (rm : RM) : Nat :=
  let k := e + 6
  let num := if 0 ≤ k then m <<< k.toNat else m
  let den := if 0 ≤ k then 1 else 2 ^ (-k).toNat
  match rm with
  | .rtz => ps8Mags.foldl (fun best c => if c.1 * den ≤ num then c.1 else best) 0
  | .rne =>
    (ps8Mags.foldl (fun (best : Nat × Nat) c =>
      let d (n : Nat) := ((num : Int) - ((n * den : Nat) : Int)).natAbs
      if d c.1 < d best.1 then c else if d c.1 = d best.1 ∧ c.2 < best.2 then c else best) (0, 0)).1

/-- to_ps8 (R91), with FCVT's NaN and infinities (R155). -/
def toPs8 (x : Num) (rm : RM) : Nat :=
  match x with
  | .nan => 0x77
  | .inf s => if s then 0x88 else 0x00
  | .fin s m e => ps8Code s (ps8Nearest m e rm)

/-- cvt(x, fmt, rm) (R88, R91, R155); the bits of an element. -/
def cvt (f : Fmt) (rm : RM) (x : Num) : Nat :=
  if f.isFloat then roundF f rm x
  else match f with
    | .ps8 => toPs8 x rm
    | _ => match x with
      | .nan => 0
      | .inf s => bitsOf f.width (if s then f.minInt else f.maxInt)
      | .fin s m e => bitsOf f.width (Max.max f.minInt (Min.min f.maxInt (roundInt s m e rm)))

/-- The exact value of an element of any format, with row scale 0 (R84, R85, R90). -/
def decodeElem (f : Fmt) (bits : Nat) : Num :=
  if f.isFloat then decodeF f bits
  else match f with
    | .ps8 => (Num.ofInt (ps8Units (bits % 256))).scale (-6)
    | _ => Num.ofInt (signedOf f.width bits)

/-! ### Arithmetic -/

/-- The signed integer of a finite value in units of 2^u, for u at most its exponent. -/
def inUnits (s : Bool) (m : Nat) (e u : Int) : Int :=
  let n : Int := ((m <<< (e - u).toNat : Nat) : Int)
  if s then -n else n

/-- x + y, exactly; an exact zero is -0 only when both are negative zeros (IEEE 754-2019 under RNE). -/
def Num.add (x y : Num) : Num :=
  match x, y with
  | .nan, _ => .nan
  | _, .nan => .nan
  | .inf a, .inf b => if a = b then .inf a else .nan
  | .inf a, _ => .inf a
  | _, .inf b => .inf b
  | .fin s m e, .fin t n k =>
    let u := Min.min e k
    let v := inUnits s m e u + inUnits t n k u
    if v = 0 then .fin (s && t && m == 0 && n == 0) 0 0 else .fin (v < 0) v.natAbs u

def Num.sub (x y : Num) : Num := x.add y.neg

/-- x * y, exactly. -/
def Num.mul (x y : Num) : Num :=
  match x, y with
  | .nan, _ => .nan
  | _, .nan => .nan
  | .inf a, .inf b => .inf (a != b)
  | .inf a, .fin t n _ => if n = 0 then .nan else .inf (a != t)
  | .fin s m _, .inf b => if m = 0 then .nan else .inf (s != b)
  | .fin s m e, .fin t n k => .fin (s != t) (m * n) (e + k)

/-- x / y to 2^-140 of its leading bit, with a last bit that is 1 when the quotient is not exact: it rounds to any
format as the exact quotient does. -/
def Num.div (x y : Num) : Num :=
  match x, y with
  | .nan, _ => .nan
  | _, .nan => .nan
  | .inf _, .inf _ => .nan
  | .inf a, .fin t _ _ => .inf (a != t)
  | .fin s _ _, .inf b => .fin (s != b) 0 0
  | .fin s m e, .fin t n k =>
    if n = 0 then (if m = 0 then .nan else .inf (s != t))
    else
      let a := m <<< 140
      let q := a / n
      .fin (s != t) (2 * q + (if a % n = 0 then 0 else 1)) (e - k - 141)

/-- floor(sqrt n), one bit of the root for each unit of fuel. -/
def isqrtGo : Nat → Nat → Nat → Nat
  | 0, _, r => r
  | k + 1, n, r =>
    let c := r + 2 ^ k
    isqrtGo k n (if c * c ≤ n then c else r)

def isqrt (n : Nat) : Nat := isqrtGo (Nat.log2 n / 2 + 1) n 0

/-- The square root, with a last bit that is 1 when it is not exact (R154). -/
def Num.sqrt (x : Num) : Num :=
  match x with
  | .nan => .nan
  | .inf s => if s then .nan else .inf false
  | .fin s m e =>
    if m = 0 then .fin s 0 0
    else if s then .nan
    else
      let odd := e % 2 ≠ 0
      let m' := (if odd then 2 * m else m) <<< 160
      let e' := (if odd then e - 1 else e) - 160
      let r := isqrt m'
      .fin false (2 * r + (if r * r = m' then 0 else 1)) (e' / 2 - 1)

/-- IEEE 754-2019 fusedMultiplyAdd with R86's and R153's NaNs. -/
def Num.fma (x y c : Num) : Num := (x.mul y).add c

/-- x < y among numbers; false when either is a NaN; -0 = +0. -/
def Num.lt (x y : Num) : Bool :=
  match x, y with
  | .nan, _ => false
  | _, .nan => false
  | .inf a, .inf b => a && !b
  | .inf a, _ => a
  | _, .inf b => !b
  | .fin s m e, .fin t n k =>
    let u := Min.min e k
    inUnits s m e u < inUnits t n k u

/-- x = y among numbers. -/
def Num.eq (x y : Num) : Bool :=
  match x, y with
  | .nan, _ => false
  | _, .nan => false
  | x, y => !x.lt y && !y.lt x

/-- x <= y among numbers. -/
def Num.le (x y : Num) : Bool := x.lt y || x.eq y

/-- The smaller; -0 counts below +0 (R154). -/
def Num.min (x y : Num) : Num :=
  if x.isNan || y.isNan then .nan
  else if x.lt y then x else if y.lt x then y else if x.isNeg then x else y

/-- The larger; +0 counts above -0 (R154). -/
def Num.max (x y : Num) : Num :=
  if x.isNan || y.isNan then .nan
  else if x.lt y then y else if y.lt x then x else if x.isNeg then y else x

/-- FCLASS (R154): one bit of ten. -/
def fclass (f : Fmt) (bits : Nat) : Nat :=
  let fr := bits % 2 ^ f.fracBits
  match decodeF f bits with
  | .nan => if fr / 2 ^ (f.fracBits - 1) = 1 then 2 ^ 9 else 2 ^ 8
  | .inf s => if s then 2 ^ 0 else 2 ^ 7
  | .fin s m _ =>
    if m = 0 then (if s then 2 ^ 3 else 2 ^ 4)
    else if m < 2 ^ f.fracBits then (if s then 2 ^ 2 else 2 ^ 5)
    else (if s then 2 ^ 1 else 2 ^ 6)

/-! ### Ordered sums, exp2 and ranks -/

/-- One level of the tree: adjacent pairs, left before right; an unpaired last element passes up unchanged (R102). -/
def treeLevel (f : Fmt) : List Nat → List Nat
  | a :: b :: t => roundF f .rne ((decodeF f a).add (decodeF f b)) :: treeLevel f t
  | l => l

/-- Levels of the tree until one value is left; +0 for none. -/
def treeGo (f : Fmt) : Nat → List Nat → Nat
  | _, [] => 0
  | _, [a] => a
  | 0, a :: _ => a
  | k + 1, l => treeGo f k (treeLevel f l)

/-- tree_sum (R102), on the bits of a floating format. -/
def treeSum (f : Fmt) (l : List Nat) : Nat := treeGo f l.length l

/-- One FP32 rounding (R88). -/
def r32 (x : Num) : Num := decodeF .fp32 (roundF .fp32 .rne x)

/-- floor of m * 2^e with sign. -/
def floorInt (s : Bool) (m : Nat) (e : Int) : Int :=
  if 0 ≤ e then (if s then -((m <<< e.toNat : Nat) : Int) else ((m <<< e.toNat : Nat) : Int))
  else
    let d := 2 ^ (-e).toNat
    if s then -((ceilDiv m d : Nat) : Int) else ((m / d : Nat) : Int)

/-- exp2 (R104), from FP32 to FP32. -/
def exp2 (x : Num) : Nat :=
  match x with
  | .nan => Fmt.fp32.nan
  | .inf s => if s then 0 else Fmt.fp32.inf
  | .fin s m e =>
    if (Num.fin s m e).lt (Num.ofInt 128) = false then Fmt.fp32.inf
    else if (Num.fin s m e).lt (Num.ofInt (-160)) then 0
    else
      let n := floorInt s m e
      let f := (Num.fin s m e).sub (Num.ofInt n)
      let c0 := decodeF .fp32 0x3F800000
      let c1 := decodeF .fp32 0x3F320000
      let c2 := decodeF .fp32 0x3E670000
      let c3 := decodeF .fp32 0x3DA20000
      let t := r32 ((r32 (c3.mul f)).add c2)
      let t := r32 ((r32 (t.mul f)).add c1)
      let t := r32 ((r32 (t.mul f)).add c0)
      roundF .fp32 .rne (t.scale n)

/-- rank_before (R108): value a at index i ranks before value b at index j. -/
def rankBefore (a : Num) (i : Nat) (b : Num) (j : Nat) : Bool :=
  match a.isNan, b.isNan with
  | true, true => i < j
  | true, false => false
  | false, true => true
  | false, false => b.lt a || (a.eq b && i < j)

/-! ### Row scales, saturating conversion, declared precision -/

/-- The largest |x| among the finite elements of a row, as m * 2^e. -/
def maxMag (l : List Num) : Num :=
  l.foldl (fun b x => match x with
    | .fin _ m e => if b.lt (.fin false m e) then .fin false m e else b
    | _ => b) (.fin false 0 0)

/-- The row scale that a conversion to a narrow format chooses (R92). -/
def chooseScale (f : Fmt) (rm : RM) (row : List Num) : Int :=
  match maxMag row with
  | .fin _ m e =>
    if m = 0 then 0
    else
      let lg : Int := (Nat.log2 m : Int) + e
      let ex : Int := match f with
        | .int8 => let s := lg - 6; if roundNat m (e - s) rm ≤ 127 then s else s + 1
        | .int4 => let s := lg - 2; if roundNat m (e - s) rm ≤ 7 then s else s + 1
        | _ => lg
      Max.max (-128) (Min.min 127 ex)
  | _ => 0

/-- cvt_sat (R93): the element's bits, and whether it is saturated. -/
def cvtSat (f : Fmt) (rm : RM) (sc : Int) (x : Num) : Nat × Bool :=
  if f.isFloat then
    match x with
    | .nan => (f.nan, false)
    | .inf s => (f.signBit s + f.inf, false)
    | .fin s m e =>
      let b := roundFinRaw f rm m e
      if b < f.inf then (f.signBit s + b, false) else (f.signBit s + f.inf - 1, true)
  else match f with
    | .ps8 => match x.scale (-sc) with
      | .nan => (0x77, true)
      | .inf s => (if s then 0x88 else 0x00, true)
      | .fin s m e => (toPs8 (.fin s m e) rm, (Num.fin false 2 0).lt (.fin false m e))
    | _ => match x.scale (-sc) with
      | .nan => (0, true)
      | .inf s => (bitsOf f.width (if s then f.minInt else f.maxInt), true)
      | .fin s m e =>
        let i := roundInt s m e rm
        if i < f.minInt then (bitsOf f.width f.minInt, true)
        else if f.maxInt < i then (bitsOf f.width f.maxInt, true)
        else (bitsOf f.width i, false)

/-- trunc_planes(x, p) (R97), on the bits of an element with row scale 0. -/
def truncPlanes (f : Fmt) (p bits : Nat) : Num :=
  if p = f.sig then decodeElem f bits
  else
    let k := f.sig - p
    match f with
    | .ps8 => (Num.ofInt (ps8Term (bits / 128 % 2) (bits / 16 % 8))).scale (-6)
    | _ => match decodeElem f bits with
      | .fin s m e => .fin s (m / 2 ^ k * 2 ^ k) e
      | y => y

/-! ### The matrix sum (R99 to R101) -/

/-- One output element of a float-accumulating TMMA: base plus the exact products, rounded once (R99, R100). -/
def mmaFloat (acc : Fmt) (base : Num) (prods : List Num) : Nat :=
  let terms := base :: prods
  if terms.any Num.isNan then acc.nan
  else
    let pos := terms.any fun t => t == .inf false
    let neg := terms.any fun t => t == .inf true
    if pos && neg then acc.nan
    else if pos then acc.inf
    else if neg then acc.signBit true + acc.inf
    else
      let s := prods.foldl Num.add base
      if s.isZero then
        acc.signBit (base.isZero && base.isNeg && prods.all fun t => t.isZero && t.isNeg)
      else roundF acc .rne s

/-- One output element of an INT32 TMMA: S modulo 2^32, and whether S lies outside the INT32 range (R101). -/
def mmaInt (base : Int) (prods : List Int) : Nat × Bool :=
  let s := prods.foldl (· + ·) base
  (bitsOf 32 s, s < Fmt.int32.minInt || Fmt.int32.maxInt < s)

/-! ### Generators (R109 to R115) -/

/-- fold(seed, row, col) (R109). -/
def fold (seed row col : Nat) : Nat :=
  let w (n : Nat) := n % 2 ^ 32
  let x := w (seed + 0x6A3D5C21 * row + 0x2F9B147D * col)
  let x := w ((x ^^^ (x >>> 15)) * 0x8C6D3E49)
  let x := w ((x ^^^ (x >>> 13)) * 0xB1E29A57)
  x ^^^ (x >>> 16)

/-- Field F(i) of a tag, i from 1 to 5 (R11). -/
def tagField (t : Word) (i : Nat) : Nat := t.toNat / 2 ^ (60 - 12 * i) % 4096

/-- Depth D of a tag (R11). -/
def tagDepth (t : Word) : Nat := t.toNat / 2 ^ 60

/-- A tag is well formed (R12): D at most 5 and every field beyond D zero. -/
def tagOk (t : Word) : Bool := tagDepth t ≤ 5 && t.toNat % 2 ^ (60 - 12 * tagDepth t) == 0

/-- Tag A precedes tag B at level i (R13). -/
def tagPrecedes (i : Nat) (a b : Word) : Bool :=
  (List.range (i - 1)).all (fun j => tagField a (j + 1) == tagField b (j + 1))
  && (let d := (tagField b i + 4096 - tagField a i) % 4096; 1 ≤ d && d ≤ 2047)

/-- The tag T with D := d + 1 and F(d+1) := i mod 4,096 (R156). -/
def tagPush (t : Word) (i : Nat) : Word :=
  let d := tagDepth t
  BitVec.ofNat 64 ((d + 1) * 2 ^ 60 + t.toNat % 2 ^ 60 + i % 4096 * 2 ^ (60 - 12 * (d + 1)))

/-- seed_scope() (R110). -/
def seedScope (seed salt level : Nat) (tag : Word) : Nat :=
  (List.range level).foldl (fun s i => fold s (tagField tag (i + 1)) (i + 1)) (fold seed salt level)

/-- The angle table T (R114). -/
def cordicT : List Nat :=
  [0x20000000, 0x12E4051E, 0x09FB385B, 0x051111D4, 0x028B0D43, 0x0145D7E1, 0x00A2F61E, 0x00517C55,
   0x0028BE53, 0x00145F2F, 0x000A2F98, 0x000517CC, 0x00028BE6, 0x000145F3, 0x0000A2FA, 0x0000517D]

/-- One CORDIC step (R114); `>>` is an arithmetic shift, the old x and y stand on both right-hand sides. -/
def cordicStep (st : Int × Int × Int) (it : Nat × Nat) : Int × Int × Int :=
  let (x, y, z) := st
  let (i, t) := it
  let d := (2 ^ i : Nat)
  if 0 ≤ z then (x - y.fdiv d, y + x.fdiv d, z - t) else (x + y.fdiv d, y - x.fdiv d, z + t)

/-- cos and sin of a phase in units of 2^-32 turn, in units of 2^-30 (R114). -/
def cordic (phase : Nat) : Int × Int :=
  let q := phase / 2 ^ 30 % 4
  let z : Nat := phase % 2 ^ 30
  let (x, y, _) := ((List.range 16).zip cordicT).foldl cordicStep ((0x26DD3B6A : Int), (0 : Int), (z : Int))
  match q with
  | 0 => (x, y)
  | 1 => (-y, x)
  | 2 => (-x, -y)
  | _ => (y, -x)

/-- The kinds of generator (R30). -/
inductive GenKind where
  | sign | gauss | rotary | mask
deriving DecidableEq, Repr

/-- R116: the kinds and the formats that pair. -/
def genPairs (k : GenKind) (f : Fmt) : Bool :=
  match k with
  | .sign => true
  | .mask => true
  | .gauss => f.isFloat || f == .int8
  | .rotary => f.isFloat

/-- A generator, its parameters, and the scoped seed it draws from (R110 to R115). -/
structure Gen where
  kind : GenKind
  fmt  : Fmt
  seed : Nat            -- seed_scope()
  s0   : Nat := 0       -- ROTARY step
  r0   : Nat := 0       -- ROTARY decay
  mode : Nat := 0       -- MASK: 0 CAUSAL, 1 BAND, 2 BLOCK
  pa   : Int := 0
  pb   : Int := 0
  ps   : Nat := 0

/-- g(row, col) (R111 to R115); the bits of an element of the output format. -/
def Gen.at (g : Gen) (row col : Nat) : Nat :=
  let row := row % 2 ^ 32
  let col := col % 2 ^ 32
  match g.kind with
  | .sign => cvt g.fmt .rne (Num.ofInt (if fold g.seed row col / 2 ^ 31 = 1 then -1 else 1))
  | .gauss =>
    let bytes (u : Nat) := u % 256 + u / 256 % 256 + u / 65536 % 256 + u / 16777216 % 256
    let k : Int := ((bytes (fold g.seed row col) + bytes (fold g.seed row (col + 0x80000000)) : Nat) : Int) - 1020
    cvt g.fmt .rne ((Num.ofInt k).scale (-6))
  | .rotary =>
    let j := col / 2
    let ef := decodeF .fp32 (exp2 ((r32 (Num.ofInt (-((j * g.r0 : Nat) : Int)))).scale (-12)))
    let step := match (Num.ofInt g.s0).mul ef with
      | .fin s m e => (floorInt s m e).toNat
      | _ => 0
    let cs := cordic (row * step % 2 ^ 32)
    cvt g.fmt .rne ((Num.ofInt (if col % 2 = 0 then cs.1 else cs.2)).scale (-30))
  | .mask =>
    let dv : Int := (col : Int) - (row : Int)
    let holds := match g.mode with
      | 0 => decide (dv ≤ g.pa)
      | 1 => decide (g.pa ≤ dv) && decide (dv ≤ g.pb)
      | _ => row >>> g.ps == col >>> g.ps
    cvt g.fmt .rne (Num.ofInt (if holds then 1 else 0))

end Sys2Proof.Machine
end

