-- ==== Sys2Proof/Machine/State.lean ====
section
/-! DEFINITION. The state of one N9, as plain data: everything the spec gives the machine (INVENTORY.md, State),
and the state right after reset. Tables that are mostly at their reset value are lists of (key, value) in rising
order of the key; a key that is absent holds the table's reset value. -/

namespace Sys2Proof.Machine

/-- A table with rising keys; what an absent key holds is said where the table is read. -/
abbrev Tab (α : Type) := List (Nat × α)

/-- Why a step stops with a fault. -/
inductive Fault where
  /-- Raised by `step` alone, when the module has no supply (R410, state OFF) and nothing is in flight: the spec gives
  an unpowered module no effect. Safe: nothing is computed. -/
  | noPower
deriving DecidableEq, Repr

/-- Why a step has no meaning. -/
inductive Refusal where
  /-- Raised by an arm of `exec` whose instruction has no meaning yet. Safe: nothing is computed. -/
  | notModelled (mnemonic : String)
deriving DecidableEq, Repr

/-- The faults of the 6-bit table (R321). -/
inductive FaultCode where
  | illegal | blockFormat | resource | align | xlateLoad | protect | scope | regionOverflow | regionLivein
  | format | overlap | ring | engine | uncorr | trap | reentry | matchF
deriving DecidableEq, Repr

/-- A fault as it is raised: its code, subcause (R320), ADDR and DETAIL (R319). `cites` is the mark of a STORE_DEFERRED record that is
still held: its number becomes DETAIL when it is written (R429). -/
structure FaultInfo where
  code   : FaultCode
  sub    : Nat  := 0
  addr   : Word := 0
  detail : Word := 0
  cites  : Option Nat := none
deriving DecidableEq, Repr

/-- A fault with the block and slot that its record names. -/
structure RaisedFault where
  info  : FaultInfo
  block : Word
  slot  : Nat
deriving DecidableEq, Repr

/-- A record of a Terrace's fault ring (R319), field by field; SEQ is given when it is written, and so is DETAIL where `cites` marks a
record that is still held (R429). -/
structure Record where
  kind     : Nat
  cause    : Nat  := 0
  subcause : Nat  := 0
  slot     : Nat  := 0
  status   : Nat  := 0
  rcnt     : Nat  := 0
  strand   : Word := 0
  block    : Word := 0
  tag      : Word := 0
  addr     : Word := 0
  detail   : Word := 0
  task     : Nat  := 0
  cites    : Option Nat := none
  tile     : Bool := false       -- its ADDR names a tensor and a tile (R316)
deriving DecidableEq, Repr

/-- The states of a strand (R10). `held` is the strand of R322 that waits at its pavilion for ring room. -/
inductive StrandState where
  | waiting | ready | running | blocked | parked | faulted | held | ended
deriving DecidableEq, Repr

/-- Status of a slot of the block in the window: not fired; fired but its effect waits; performed elsewhere, its answer
awaited; fired, suppressed or dropped. -/
inductive SlotStatus where
  | idle | waiting | sent | done
deriving DecidableEq, Repr

/-- A slot of the running block: its operand tokens (R15, R16). -/
structure Slot where
  status : SlotStatus   := .idle
  l      : Option Token := none
  r      : Option Token := none
  p      : Option Token := none
  diverted : Bool := false       -- a tile token of it went to the conversion slot (R237)
  fired  : Bool         := false -- it has fired and its answer is awaited: PERF has counted it (R272)
  bad    : Bool         := false -- an uncorrectable error in one of its tokens: its firing raises F_UNCORR (R40)
deriving DecidableEq, Repr

/-- A resolved store of the block (R134): its bytes, or none when it resolved without writing. -/
structure StoreRes where
  slot : Nat
  lsid : Nat
  addr : Word
  data : Option (List Byte)
deriving DecidableEq, Repr

/-- A fired reduction of the block (R176). -/
structure RedRes where
  slot : Nat
  op   : ROp
  w    : Bool
  addr : Word
  val  : Word
deriving DecidableEq, Repr

/-- What the branch that fired does at commit (R144, R145, R146): where the strand goes, its FP, and the link. -/
inductive Branch where
  | stop
  | goto (next : Word)
  | call (next fp : Word)
  | ret  (next fp : Word)
deriving DecidableEq, Repr

/-- A block in a window, firing (R15 to R18). -/
structure BlockRun where
  addr      : Word
  hdr       : Word32
  ext       : Word32 := 0
  words     : List Word32
  slots     : List Slot
  writes    : List (Nat × Nat × Option Word) := []   -- (slot, register, value or null)
  stores    : List StoreRes := []
  reds      : List RedRes := []
  branch    : Option (Nat × Branch) := none
  yields    : Bool := false
  performed : Bool := false                          -- its boundary instruction has been performed (R40)
  bfault    : Option RaisedFault := none             -- the fault recorded against it (R40)
deriving DecidableEq, Repr

/-- The instructions that take an entry of the deferred list (R134). -/
inductive DefKind where
  | fork | forkn | send | fralloc | frfree | tagset | dqpush | failedPush | gbarx | mring | msend | mwait
  | cpy | cpyt | coll | wsld | bufdef | advp | advc | sload | sstore | tdrain | gdef
  | kput | kdel | kappend | kmerge | mscan | ksum | mdom | itbl | igather | walk | mtsr | resume | tlbi
deriving DecidableEq, Repr

/-- A circular buffer in a bank (R26, R208). -/
structure BufRec where
  pav    : Nat
  fe     : Nat
  base   : Nat
  size   : Nat
  count  : Nat
  p      : Nat := 0
  c      : Nat := 0
  att    : Nat := 1          -- descriptors attached
  tags   : List Word := []   -- the tags that its occupied slots carry, oldest first (R14, log 25)
deriving DecidableEq, Repr

/-- An entry of the deferred list: the instruction, its operands, what it fixed at fire (`x`, `y`, and the buffer whose slots a
KPUT names), and its block and slot. -/
structure Deferred where
  kind  : DefKind
  l     : Word := 0
  r     : Word := 0
  x     : Nat  := 0
  y     : Nat  := 0
  buf   : Option BufRec := none
  block : Word := 0
  slot  : Nat  := 0
deriving DecidableEq, Repr

/-- A line of a region store buffer (R32, R33): bytes by offset in their 64-byte line, or one reduction (R176). -/
inductive SbKind where
  | bytes (cells : Tab Byte)
  | red   (op : ROp) (w : Bool) (off : Nat) (v : Word)
deriving DecidableEq, Repr

/-- A line of a region store buffer with its flat or bank window line address. -/
structure SbLine where
  va   : Word
  kind : SbKind
deriving DecidableEq, Repr

/-- A region that has ended and is publishing or queued (R34, R324). -/
structure Pub where
  scope    : Nat
  started  : Bool := false      -- step 1 has begun
  lines    : List SbLine        -- what step 1 has still to perform, in creation order
  deferred : List Deferred
  claims   : List (Nat × Nat × Nat) := []   -- deque entries that its step 2 removes (R38)
  block    : Word := 0          -- first block of the region, its tag, and FP at its end
  tag      : Word := 0
  fp       : Word := 0
  regs     : Vector Word 128 := Vector.replicate 128 0   -- the registers at its end, and those poisoned (R156)
  poison   : BitVec 128 := 0
deriving DecidableEq, Repr

/-- The task registers that a region uses: those at its start (R269). -/
structure SysRegs where
  rclim  : Nat := 16
  seed   : Nat := 0
  mdt    : Word := 0
  itb    : Word := 0
  routes : List Word := []
deriving DecidableEq, Repr

/-- A pinned line (R302): its named and its virtual address, its bytes as they were first read, and its 8-byte words that were poisoned
then (R425). -/
structure Pin where
  key   : Nat
  va    : Word
  bytes : List Byte
  bad   : List Nat := []
deriving DecidableEq, Repr

/-- The region a strand runs (01, Regions). -/
structure Region where
  ip       : Word := 0          -- its first block
  fp       : Word := 0          -- FP, tag and pool pointer at its start (R37, R140)
  tag      : Word := 0
  poolPtr  : Word := 0
  first    : Bool := true       -- no block of it has committed yet
  cls      : Nat  := 15
  efence   : Bool := false
  drainPref : Bool := false
  young    : Bool := false      -- YIELD: counts as younger than every other (R147)
  age      : Nat  := 0          -- order of the fetch of its first block (R354); a re-entry keeps it (log 60)
  entered  : Bool := false      -- it has been opened; a discard re-enters it
  sys      : SysRegs := {}      -- the task registers it uses (R269)
  bnd      : Bool := false      -- a boundary block's region (R39)
  kept     : Bool := false      -- its boundary instruction has been performed: it cannot be discarded (R40)
  store    : List SbLine := []
  pins     : List Pin := []                        -- pinned lines (R302)
  deferred : List Deferred := []
  claims   : List (Nat × Nat × Nat) := []          -- (pavilion, deque, entry id) claimed (R38)
  accs     : List Nat := []                        -- accumulators written (R29)
  rivals   : List Nat := []                        -- those that overlapping regions of others wrote and published (R29)
  waits    : Tab Nat := []                         -- records taken by MWAIT per ring (R188)
deriving DecidableEq, Repr

/-- What the strand does next. -/
inductive Phase where
  | fetch                   -- fetch the block at IP
  | run                     -- the block in the window fires
  | close (scope : Nat)     -- the region has ended; scope check and step 1 come next
  | step1                   -- reductions and lines of step 1 are being performed
  | step2                   -- step 1 has completed
deriving DecidableEq, Repr

/-- What a parked strand waits for. -/
inductive Park where
  | page (va : Word) (block : Word) (slot : Nat)   -- the page of an address that its own access missed, at block and slot
  | engine (e : Nat)               -- a held engine operation (R192)
deriving DecidableEq, Repr

/-- A frame of a strand's pool (R158, R159): address of its first byte, its length, allocated. -/
structure FrameRec where
  base : Word
  len  : Nat
  live : Bool
  tag  : Word := 0
deriving DecidableEq, Repr

/-- An ordinary strand, or an iteration of a resident block (R20). -/
inductive StrandKind where
  | ordinary
  | iteration (blk : Nat)
deriving DecidableEq, Repr

/-- Where a waiting strand may be placed: in its pavilion, or anywhere in its grove (R277, R279, R281). -/
inductive Reach where
  | pavilion | grove
deriving DecidableEq, Repr

/-- A barrier at which a strand has arrived and waits (R180, R181); `done`: its generation has completed meanwhile. -/
structure Await where
  scope : Nat
  home  : Nat
  bar   : Nat
  nm1   : Nat
  gen   : BitVec 16
  slot  : Nat
  done  : Bool := false
deriving DecidableEq, Repr

/-- A strand: its token, its registers and descriptors, its region and block. -/
structure Strand where
  task     : Nat
  pav      : Nat                        -- physical pavilion
  place    : Nat := 0                   -- resident place, 0 to 15
  gen      : Nat := 0                   -- the place's generation count (R319)
  kind     : StrandKind := .ordinary
  seeds    : List TokIn := []           -- the tokens with which an iteration starts (R20, log 9)
  state    : StrandState := .ready
  phase    : Phase := .fetch
  fp       : Word := 0
  ip       : Word := 0
  tag      : Word := 0
  regs     : Vector Word 128 := Vector.replicate 128 0
  pending  : BitVec 128 := 0            -- pending bits (R22)
  trapErr  : BitVec 128 := 0            -- completions whose READ raises F_ENGINE (R189)
  poison   : BitVec 128 := 0            -- poisoned registers (R425)
  liveIn   : BitVec 128 := 0            -- live-in mask (R35)
  written  : BitVec 128 := 0            -- registers the region has written (R35)
  bufs     : Tab Nat := []              -- descriptor to buffer (R26)
  gens     : Tab (Word × Word) := []    -- generator descriptors (R30)
  rcnt     : BitVec 8 := 0              -- RCNT (R42)
  yieldMark : Bool := false             -- YIELD (R147)
  reach    : Reach := .grove            -- where it may be placed while it waits
  poolBase : Word := 0                  -- frame pool (R158)
  poolPtr  : Word := 0
  poolEnd  : Word := 0
  frames   : List FrameRec := []
  region   : Region := {}
  block    : Option BlockRun := none
  bndBegun : Bool := false              -- the block that opens the next region has been fetched (R172)
  nextAge  : Option Nat := none         -- the age that this fetch gives the next region (R354)
  owed     : Option Bool := none        -- a discard requested after step 1 began, for the next region (R46); whether it leaves a
                                        -- DISCARD record: a soft error's and an uncorrectable transfer's do (R319)
  pub      : Option Pub := none         -- the publish in step 1 or 2 (R34)
  queue    : List Pub := []             -- queued publishes, older first (R324)
  pendFault : Option RaisedFault := none  -- raised at the start of its region (R40, R429)
  pendHere : Bool := false              -- its record names the region at which the strand stands (R429)
  park     : Option Park := none
  barrier  : Option Await := none       -- the barrier it awaits (R181)
  tagWait  : Option Word := none        -- TAGSET waiting on TAGWIN (R160)
  noNext   : Bool := false              -- a boundary block left it without a next region (R40, R270)
  saved    : Bool := false              -- it was resident when its task was saved (R363)
  record   : Nat := 0                   -- its place in the strand section while it waits there (R363)
  exiting  : Bool := false              -- its last block has committed; it ends after this publish (R8)
deriving DecidableEq, Repr

/-- State of a deque entry (R162). -/
inductive DqState where
  | visible
  | claimed (strand : Nat)
  | reserved (strand : Nat)
deriving DecidableEq, Repr

/-- A deque (R161): entries from the top to the bottom. -/
structure Deque where
  entries : List (Nat × Word × DqState) := []   -- (entry id, value, state)
  nextId  : Nat  := 0
  thief   : Bool := false                       -- a thief wins the next tie with the owner (R163)
  last    : Option Nat := none                  -- the thief pavilion that won last (R355)
deriving DecidableEq, Repr

/-- A message ring (R183 to R186). -/
structure Ring where
  pav     : Nat
  ring    : Nat
  fe      : Nat
  base    : Nat
  log2    : Nat
  tail    : Nat := 0
  recs    : List (Nat × Nat × Bool) := []       -- (offset, bytes, PAD), oldest first, not released
  held    : List RingMsg := []
  owner   : Nat := 0                            -- the task and strand that defined it
deriving DecidableEq, Repr

/-- A published line on its way from a narrow publish point to its home (R275). -/
structure FlightLine where
  scope  : Nat                                  -- the point where it is performed: 0 to 3
  point  : Nat                                  -- the pavilion (0, 1), the grove (2), or the peer whose egress queue holds it (3)
  strand : Nat
  va     : Word                                 -- the line's address, as the strand named it
  cells  : List (Nat × Byte × Bool)             -- (key, byte, still the value seen at the point)
  task   : Nat
  block  : Word := 0                            -- the first block of its region (R319, R429)
  named  : List Nat := []                       -- frames that its cells named before their page moved on (R332, R336)
deriving DecidableEq, Repr

/-- An entry of a side log (R323). -/
structure LogEntry where
  pav    : Nat
  task   : Nat
  strand : Nat
  scope  : Nat
  line   : SbLine
  block  : Word := 0
deriving DecidableEq, Repr

/-- An answer of the Lodge whose side-log entries `todo` still wait for ring room (R314, R322). -/
structure Answer where
  mapped : Bool
  tile   : Bool
  addr   : Word
  task   : Nat
  todo   : List LogEntry
deriving DecidableEq, Repr

/-- A cached translation of a pavilion (R313): the page's number and its leaf. -/
structure TlbEntry where
  pav   : Nat
  task  : Nat
  vpage : Nat          -- VA >> shift
  shift : Nat          -- 12, 16 or 21
  leaf  : Word
deriving DecidableEq, Repr

/-- A cached tile table entry (R316). -/
structure TileEntry where
  task   : Nat
  tensor : Nat
  tile   : Nat
  entry  : Word
deriving DecidableEq, Repr

/-- The engine operations (06, 07, 08). -/
inductive EngKind where
  | cpy | cpyt | coll | wsld | sload | sstore | kappend | kmerge | mscan | ksum | igather | walk | tlbi | table
deriving DecidableEq, Repr

/-- Where an engine operation stands. -/
inductive EngState where
  | queued                         -- not yet started (R189)
  | running                        -- started; it goes on with its next unit
  | held (addr : Word) (badpte : Bool := false)   -- a translation miss, and whether a malformed entry caused it (R192, R312)
  | slots                          -- it waits for free buffer slots (R195, R214)
  | refresh (seg : Nat)            -- it waits for a refresh window (R198)
  | coll                           -- its contribution is at CHIP0 (R408)
  | grant                          -- it waits for the header home's grant (R378)
  | finished (status : Nat) (detail : Word)   -- its destination writes are performed; completion not yet written
deriving DecidableEq, Repr

/-- A descriptor of the launching strand as it stood at launch: the buffer and its counts (R195, R214). -/
structure BufSnap where
  desc   : Nat
  buf    : Nat
  p      : Nat
  c      : Nat
  filled : Nat
deriving DecidableEq, Repr

/-- An engine operation in flight (R189). -/
structure Engine where
  kind    : EngKind
  task    : Nat
  strand  : Nat
  pav     : Nat
  queue   : Nat               -- copy queue, or the unit of the other engines
  l       : Word
  r       : Word
  cv      : Bool
  creg    : Nat
  trapErr : Bool
  block   : Word := 0
  slot    : Nat  := 0
  tag     : Word := 0
  cmd     : List Word := []   -- the command as it was read, in 8-byte words
  done    : Nat  := 0         -- units done
  aux     : Nat  := 0         -- N at a scan's grant, a table access's domain
  aux2    : Nat  := 0         -- SIDELEN at a scan's grant
  snap    : List BufSnap := []
  dst     : List (Nat × Nat) := []   -- destination ranges that DETERM compares (R193)
  untold  : Bool := false     -- DETERM has still to compare them: they could not be told yet (R193, log 45)
  asked   : Option Nat := none   -- the place of its request at its collection's header home, in order of arrival (R255, R378)
  state   : EngState := .queued
  graph   : Bool := false     -- launched by a resident block (R286)
deriving DecidableEq, Repr

/-- A tile that TDRAIN staged, on its way to the buffer of a route table entry (R233). -/
structure Drain where
  task    : Nat
  srcPav  : Nat
  srcFe   : Nat
  idx     : Nat               -- the route table entry, its number and its word as they stood at fire
  entry   : Word := 0
  kept     : Bool := false    -- its region has ended: no discard drops it
  launched : Bool := false    -- its region's publish step 2 has sent it
  sticky  : Bool := false
  data    : List Byte
  strand  : Nat
  block   : Word
  slot    : Nat
  tag     : Word
deriving DecidableEq, Repr

/-- Geometry that the stores of a domain share (R244). -/
structure Geom where
  kfmt   : Nat          -- 0 INT8, 1 UINT8, 2 BF16
  metric : Nat          -- 0 DOT, 1 NL2
  dim    : Nat
  vkind  : Nat
  vlen   : Nat
deriving DecidableEq, Repr

/-- The query that holds a reservation: one of this chip, or a peer's by its chip and number (R253, R369). -/
inductive ResvKey where
  | own  (q : Nat)
  | peer (chip number : Nat)
deriving DecidableEq, Repr

/-- Store registers of an attached store (R369); its entries stand in the bank (R367). -/
structure Store where
  task    : Nat
  dom     : Nat
  store   : Nat
  chip    : Nat
  pav     : Nat               -- physical pavilion
  fe      : Nat
  base    : Nat
  cap     : Nat
  geom    : Geom
  counter : Nat := 0          -- insertion counter, 0 to 2^24
  resv    : List (ResvKey × Nat) := []   -- reservation table: (query, CTR of the entry)
  blocked : Option ResvKey := none       -- a MATCHC that waits for reservation entries; what is behind it waits (R372)
  owner   : Option Nat := none       -- the peer whose task attached it; none for a task of this chip (R369)
  host    : Option Nat := none       -- for a peer's store: the task here that held its pavilion (R362, R376)
deriving DecidableEq, Repr

/-- A domain that is not EMPTY (R370, R371). -/
structure Domain where
  task   : Nat
  dom    : Nat
  serve  : Bool := true       -- SERVE; otherwise REBUILD
  geom   : Geom
deriving DecidableEq, Repr

/-- A candidate of a query, with what its store's answer holds (R373). -/
structure Cand where
  score : Nat                 -- the 32 bits of the score
  store : Nat
  ctr   : Nat
  val   : Word := 0
  attr  : Nat := 0
  life  : Bool := false       -- LIFE is not 0: one delivery is reserved for a MATCHC
  vec   : List Byte := []
deriving DecidableEq, Repr

/-- A MATCH or MATCHC in flight (R250, R251, R372). -/
structure Query where
  task    : Nat
  strand  : Nat
  slot    : Nat
  block   : Word
  tag     : Word
  consume : Bool
  r       : Word              -- match descriptor
  third   : Word
  fmt     : Nat               -- format tag and LEN of the query VREF
  len     : Nat
  bytes   : List Byte         -- the query, read at fire
  granted : Bool := false
  geom    : Option Geom := none
  stores  : List Nat := []            -- the granted membership, in store-index order
  answers : List (Nat × List Cand) := []
  winners : List Cand := []
  decide  : List Nat := []            -- stores whose decisions are outstanding
  performed : Bool := false
  merged  : Bool := false
deriving DecidableEq, Repr

/-- A collective at the unit of CHIP0 (R408). -/
structure CollRec where
  key   : CollKey
  parts : List CollMsg := []      -- in arrival order
  failed : Bool := false          -- it has ended with BADCMD; so do its launches that are still to come (R196)
deriving DecidableEq, Repr

/-- A barrier (R180). -/
structure BarRec where
  task  : Nat                      -- for a domain barrier, 0
  scope : Nat
  home  : Nat
  bar   : Nat
  gen   : BitVec 16 := 0
  nm1   : Nat := 0
  arrived : List Arrival := []
deriving DecidableEq, Repr

/-- A resident block on a fabric page (R352). -/
structure ResBlock where
  addr  : Word
  hdr   : Word32
  ext   : Word32
  words : List Word32
  lpav  : Nat                      -- logical pavilion on which its page was placed first, and as which it runs (log 93)
  regs  : Vector Word 128
  bad   : Option (Nat × Nat) := none   -- what its check found when its page was loaded (R131)
deriving DecidableEq, Repr

/-- A task descriptor (R344). -/
structure Desc where
  entry : Word := 0
  root  : Nat := 0
  tdir  : Nat := 0
  frbase : Word := 0
  save  : Nat := 0
  param : Nat := 0
  snap  : Word := 0
  initRegs : Nat := 0
  mdt   : Word := 0
  route : Word := 0
  itb   : Word := 0
  frame : Nat := 0
  pools : Nat := 0
  paramLen : Nat := 0
  seed  : Nat := 0
  estimate : Nat := 0
  regs  : Nat := 0
  buffers : Nat := 0
  rclim : Nat := 16
  tagwin : Nat := 2048
  groves : Nat := 0
  barriers : Nat := 0
  scratch : Nat := 0
  policy : Nat := 0
  flags : Nat := 0
  gset  : Nat := 0
  depth : Nat := 0
  stageMax : Nat := 0
  gimage : Word := 0
  glen  : Nat := 0
  saveMb : Nat := 0
  ports : Nat := 0
deriving DecidableEq, Repr

/-- What pre-emption does to a task (R358). -/
inductive PreChoice where
  | drain | discard | checkpoint
deriving DecidableEq, Repr

/-- Whether a task runs, is being brought to region boundaries (`rewind`: its graph's iterations were discarded), is saved, or has
ended. -/
inductive TaskStatus where
  | running
  | stopping (c : PreChoice) (rewind : Bool)
  | saved (c : PreChoice)
  | ending (aborted : Bool)     -- its work has ended; records and write-backs that its end caused are still to be performed (R342, R370)
  | ended
deriving DecidableEq, Repr

/-- An edge port of a graph and the stream that it is bound to (R82, R352). -/
structure PortStream where
  out    : Bool            -- direction
  tensor : Nat
  stream : Word            -- the stream descriptor, as SLOAD and SSTORE take it (R212)
  pos    : Word := 0       -- the next box's position (R212, R363)
deriving DecidableEq, Repr

/-- Nothing of the task runs any more. -/
def TaskStatus.gone : TaskStatus → Bool
  | .ending _ => true
  | .ended => true
  | _ => false

/-- A source of tags that waits until the oldest of its tags retires (R14): its level, a tag with its prefix, and the oldest's value. -/
structure TagHold where
  level  : Nat
  tag    : Word
  oldest : Nat
deriving DecidableEq, Repr

/-- A task (15). -/
structure Task where
  number : Nat
  queue  : Nat
  prio   : Nat
  privileged : Bool := false
  faulth : Bool := false
  desc   : Desc := {}
  status : TaskStatus := .running
  groves : List Nat := []              -- physical grove of each logical grove
  homes  : List Nat := []              -- groves it held when it was saved, none when running
  tagwin : Nat := 2048                 -- TAGWIN (R14)
  tagHolds : List TagHold := []        -- sources that wait for the oldest of their tags (R14)
  rclim  : Nat := 16                   -- RCLIM (R43)
  seed   : Nat := 0                    -- SEED (R269)
  mdt    : Word := 0                   -- MDT
  route  : Word := 0                   -- ROUTE
  itb    : Word := 0                   -- ITB
  routes : List Word := []             -- the route table as read (R232)
  itgen  : Tab (BitVec 32) := []       -- indirection generations (R264)
  finished : List (Nat × Word) := []   -- iterations of its graph that have ended, by block and tag, as far as an older tag is in flight (R236)
  stayed : List Nat := []              -- groves that stay held at its end, their records granted (R182)
  remap  : Tab Nat := []               -- the place in its groves of each logical pavilion that has another's (R350, R353)
  pages  : List Nat := []              -- logical pavilion of each fabric page (R352)
  blocks : List ResBlock := []
  gated  : Bool := false               -- graph sources gated (R359)
  token  : Bool := false               -- reconfiguration token pending (R286)
  ports  : Tab PortStream := []        -- the graph's edge ports by number, each bound to a stream (R82, R352)
  launched : Nat := 0                  -- order of launch (R356)
  compact : Bool := false              -- another graph's pages were released: its own may move toward the lowest pavilions (R353)
  tallied : Option (List (Nat × Nat × Nat)) := none   -- its stores' counters as written back for the save in progress (R360, R369)
deriving DecidableEq, Repr

/-- Service of a launch queue's head entry (R342). -/
structure Service where
  entry  : Nat := 0                -- the entry in service
  left   : Nat := 0                -- launches still to be made
  snaps  : Nat := 0
  task   : Option Nat := none      -- the task of the launch in progress
  last   : Nat := 0
deriving DecidableEq, Repr

/-- A launch queue (R341). -/
structure LaunchQueue where
  cfg  : Word := 0
  head : BitVec 32 := 0
  tail : BitVec 32 := 0
  serv : Option Service := none
deriving DecidableEq, Repr

/-- A record held for want of ring room (R322), the strand it holds with the state it then enters, and the mark by which a fault cites
it (R429). -/
structure HeldRec where
  entry  : Record
  strand : Option (Nat × StrandState) := none
  mark   : Option Nat := none
deriving DecidableEq, Repr

/-- A Terrace (08, 13, 20). -/
structure Terrace where
  state   : BitVec 3 := 0             -- TERSTAT.STATE (R412)
  groveOk : BitVec 32 := 0            -- TERSTAT.GROVEOK
  corr    : BitVec 32 := 0            -- ECCSTAT (R426)
  uncorr  : BitVec 32 := 0
  fring   : Word := 0                 -- FRING (R269)
  ovf     : Bool := false             -- FSTAT.OVF
  held    : List HeldRec := []        -- FSTAT.HELD counts its strands
  head    : BitVec 32 := 0            -- the ring arbiter's record number (R318)
  xreply  : Word := 0                 -- XREPLY (R314)
  seg     : Nat := 0                  -- segment in its refresh window (R303)
  answered : Tab (Bool × Word × Nat) := []  -- translation records written: number to (ADDR names a tile, ADDR, task) (R314, R316)
deriving DecidableEq, Repr

/-- A Colonnade port, CPORT(p) (R404). -/
structure Port where
  up      : Bool := false
  fenced  : Bool := false
  peer    : BitVec 13 := 0
  replays : BitVec 32 := 0
  training : Bool := false            -- RETRAIN was written and training has not ended
deriving DecidableEq, Repr

/-- A mesh flow of class 1 to 3 with a diversion (R395): whether the source has been told, the pavilions whose routers hold its mark,
its packets in flight in the order of their numbers (`normal` that the normal network still holds, `escaped` diverted ones with an escape
place of the flow's, `queued` diverted ones without, log 55), and the sequence number that the destination hands on next (0 at first, log 2). -/
structure Flow where
  diverted : Bool     := false
  routers  : List Nat := []
  normal   : Nat      := 0
  queued   : Nat      := 0
  escaped  : Nat      := 0
  next     : BitVec 9 := 0
deriving DecidableEq, Repr

/-- States of a migration slot (R329, R330). -/
inductive MigState where
  | idle | waitChain | waitStub | precopy | final | commit | done | refused
deriving DecidableEq, Repr

/-- A migration slot, MIGSRC and MIGDST (R329). -/
structure MigSlot where
  src    : Word := 0
  dst    : Word := 0
  state  : MigState := .idle
  reason : Nat := 0
  pass   : Nat := 0                   -- passes that have run
  last   : Nat := 512                 -- tiles that the pass before copied
  dirty  : List Nat := []             -- dirty 4 KiB tiles
  heldAcc : List Access := []         -- accesses held for FINAL, in arrival order
deriving DecidableEq, Repr

/-- A stub (R335). -/
structure Stub where
  old    : Nat
  fwd    : Nat
  live   : Bool := false
  holders : BitVec 72 := 0
  acks   : List Nat := []
deriving DecidableEq, Repr

/-- An owned page with HOLDERS and BEHIND (R334, R336). -/
structure Owned where
  frame   : Nat
  holders : BitVec 72 := 0
  behind  : Nat := 0
  oldest  : Nat := 0      -- the chip of the oldest live stub behind it, and that of the newest
  newest  : Nat := 0
deriving DecidableEq, Repr

/-- A move that this chip receives (R333). -/
structure Incoming where
  dst    : Nat
  src    : Nat
  chip   : Nat
  slot   : Nat
  tiles  : List Nat := []
  relays : List Access := []   -- relays that came before COMMIT, in order (R331)
deriving DecidableEq, Repr

/-- An entry of the heat table (R327). -/
structure Heat where
  frame : Nat
  elems : Nat := 0
  stall : Nat := 0
deriving DecidableEq, Repr

/-- A message to a peer (R333, R402). -/
inductive OutMsg where
  | moveOpen (chip dst src slot : Nat)
  | tile (chip dst idx : Nat) (data : List Byte) (poison : BitVec 64)
  | commit (chip dst : Nat) (holders : BitVec 72) (behind oldest : Nat)
  | retire (chip old fwd : Nat)
  | retireAck (chip old who : Nat)
  | stubGone (chip frame : Nat)
  | relay (chip : Nat) (m : Access)
  | holdAt (chip frame who : Nat)
  | redir (chip req named owner : Nat)
  | answer (chip req : Nat) (data : List Byte) (ok : Bool)
  | opened (chip slot : Nat) (ok : Bool)
  | commitAck (chip dst : Nat)
  | ring (chip : Nat) (m : RingMsg)
  | ringReturn (chip : Nat) (creg status bytes : Nat)
  | coll (chip : Nat) (m : CollMsg)
  | collResult (chip rank status : Nat) (vals : List Word)
  | arrival (chip : Nat) (m : Arrival)
  | generation (chip bar gen : Nat)
  | arrivalAnswer (chip bar who slot : Nat) (a : BarAnswer)
  | send (chip : Nat) (m : SendMsg)
  | mdom (chip : Nat) (m : MdomMsg)
  | mdomAnswer (chip task dom store : Nat) (ok : Bool) (counter : Nat)
  | kput (chip : Nat) (m : KputMsg)
  | kdel (chip : Nat) (m : KdelMsg)
  | storeReply (chip strand : Nat) (cv : Bool) (creg status id : Nat)
  | query (chip store : Nat) (m : PeerQuery)
  | answerQuery (chip number store : Nat) (c : List Cand)
  | decisions (chip store : Nat) (m : PeerQuery)
  | decided (chip number store : Nat)
  | queryLost (chip number store : Nat)      -- a poisoned entry met a query of the peer's (R425, log 84)
  | entryLost (chip strand : Nat)            -- a poisoned entry met a KPUT or KDEL of the peer's (R425, log 84)
deriving DecidableEq, Repr

/-- Boot stages (R410). -/
inductive Stage where
  | off | stage0 | safe | stage1 | stage2 | run
deriving DecidableEq, Repr

/-- Start-up, guard, attestation and host interface (20). -/
structure Boot where
  stage  : Stage := .stage0
  served : Bool := false                     -- a Terrace has been admitted since this start: launch queues are served (R411)
  flash  : List Byte := []                   -- the stage-1 image in flash (R410)
  fuses  : Nat := 0                          -- blown fuses, at most 4,096 (R416)
  block  : Option Nat := none                -- the block of one-time indices of this start (R416, R417)
  quoteUsed : Nat := 0                       -- indices of the block that are used
  meas   : List (BitVec 256) := [0, 0, 0, 0] -- MEAS0 to MEAS3 (R414)
  quotes : List (List Byte) := []            -- nonces waiting, oldest first (R418)
  quote  : List Byte := []                   -- the last quote
  gddr   : Nat := 64                         -- usable GDDR-7 channels and LPDDR-6 packages (R307)
  lpddr  : Nat := 16
  guardState : BitVec 3 := 0                 -- GUARD (R420)
  tjMax  : BitVec 8 := 0
  power  : BitVec 16 := 0
  pwrlim : Word := 3600                      -- PWRLIM (R420)
  hdb    : Word := 0                         -- HDB and LDB (R409)
  ldb    : Word := 0
  lodgeIrq : Nat := 0                        -- interrupts raised on the Lodge by HDB, and MSI-X messages sent by LDB
  msix   : Nat := 0
  aer    : List (Nat × Nat) := []            -- requests refused by the I/O translation: port and address (R409)
  mbox   : List Host.Cell := []              -- MBOX, by byte of the BAR (R409)
  rootData : List (Nat × Option (List Byte)) := []  -- root-port reads completed: port, and data unless the read failed (R409)
deriving DecidableEq, Repr

/-- The strand and the slot that issue (R354). -/
structure Cur where
  strand : Nat := 0
  slot   : Nat := 0
deriving DecidableEq, Repr

/-- A pavilion's checked block (R133). -/
structure Window where
  pav   : Nat
  task  : Nat
  addr  : Word
  hdr   : Word32
  words : List Word32
deriving DecidableEq, Repr

/-- One N9 module. -/
structure State where
  /-- Events in flight, oldest first (R288: the order of grants). -/
  agenda   : List Instr := []
  /-- Events that wait for a condition, oldest first; tried again in turn. -/
  waiting  : List Instr := []
  cur      : Cur := {}
  /-- Free values drawn (the model's own counter, log 6). -/
  ticks    : Nat := 0
  /-- Rotation of the retry of waiting instructions (the model's own, log 15). -/
  rot      : Nat := 0
  due      : List Instr := []                  -- the events that may occur, those that occurred longest ago first (R50, log 15)
  boot     : Boot := {}
  terraces : List Terrace := List.replicate 8 {}
  harv     : Tab (BitVec 16) := []
  colid    : BitVec 13 := 0
  croute   : Tab Word := []
  cports   : Tab Port := []
  escTime  : Nat := 4096
  heatctl  : Word := 0
  migs     : Tab MigSlot := []
  ringHold : Nat := 16384
  queues   : Tab LaunchQueue := []
  lastServed : Tab Nat := []
  meshReplays : Nat := 0              -- flit replays on the mesh (R398); 0 at reset is log 2's
  /-- Memory: a key below 2^55 is a physical address (R306); from `bankKey` and `weightKey` on stand the FE banks and
  the weight stores (Ops.lean). An unlisted key reads 0 (log 1). -/
  mem      : List Host.Cell := []
  /-- Poisoned 8-byte words, by key / 8 (R425). -/
  poison   : List Nat := []
  /-- Working and committed accumulators (R29), 4,096 bytes each. -/
  accW     : List Host.Cell := []
  accC     : List Host.Cell := []
  stickyW  : List Nat := []
  stickyC  : List Nat := []
  accPoison : List Nat := []
  lines    : List FlightLine := []
  tlb      : List TlbEntry := []
  tiles    : List TileEntry := []
  windows  : List Window := []
  buffers  : Tab BufRec := []
  deques   : Tab Deque := []          -- by pavilion * 16 + DQ
  rings    : List Ring := []
  stagings : List Drain := []
  sideLog  : List LogEntry := []
  answers  : List Answer := []        -- answers of the Lodge that are still carried out, oldest first (R322)
  perf     : Tab Word := []           -- by pavilion * 64 + counter
  passed   : List (Nat × Nat) := []   -- (task, pavilion) passed (R182)
  heldSends : List SendMsg := []
  waitKids : List (Bool × Strand) := []  -- strands not created yet, oldest first: TAGWIN bounds a FORK's child (R14), a pool every one (R351)
  placeGen : Tab Nat := []            -- generation counts of places, by pavilion * 16 + place; 0 at reset is log 2's
  strands  : List Strand := []
  tasks    : List Task := []
  engines  : Tab Engine := []
  requests : Nat := 0                 -- requests that have arrived at collections' header homes so far (R378)
  domains  : List Domain := []
  stores   : List Store := []
  queries  : Tab Query := []
  colls    : List CollRec := []
  barriers : List BarRec := []
  flows    : Tab Flow := []           -- by (source * 4,096 + destination) * 4 + class
  ownerCache : Tab Nat := []
  /-- Where pages of peers have gone, as completions with REDIR told (the model's own: what the peers' stubs hold, log 10). -/
  moved    : Tab Nat := []
  /-- Frames whose stub at a peer has been retired while a live stub of this chip still leads to them (the model's own, log 10). -/
  retired  : List Nat := []
  /-- Frames of peers to which a completion with REDIR has sent a page whose earlier accesses are still on their way (R332). -/
  redirs   : List Nat := []
  stubs    : List Stub := []
  owned    : List Owned := []
  incoming : List Incoming := []
  heat     : List Heat := []          -- by index, at most 1,024 (R327)
  outbox   : List OutMsg := []
  ages     : Nat := 0                 -- fetches that opened a region so far (R354: age)
  nextBuf  : Nat := 0                 -- buffers created so far: no two have one number (R208)
  nextTask : Nat := 0
  marks    : Nat := 0                 -- marks given to held records so far (the model's own, R429)
deriving DecidableEq, Repr

/-- The module right after power good (R410: the next state is STAGE0): every field at the reset value of the
spec's field maps; where the spec gives none, the value of logs 1 and 2. -/
def State.reset : State := {}

end Sys2Proof.Machine
end

