-- ==== Sys2Proof/Machine/Ops.lean ====
section
/-! DEFINITION. The named operations over memory, strands and tables; the fault ring; and taking a fault, which is ONE
operation for the whole machine (`State.takeFault`: R10, R37, R44, R322), with the return from it beside it
(`State.resumeAt`: R270). -/

namespace Sys2Proof.Machine

/-! ### Tables with rising keys -/

/-- The value at a key. -/
def Tab.find {α : Type} : Tab α → Nat → Option α
  | [], _ => none
  | (k, v) :: t, i => if k = i then some v else Tab.find t i

/-- The table with a value at a key, keys rising. -/
def Tab.put {α : Type} : Tab α → Nat → α → Tab α
  | [], i, x => [(i, x)]
  | (k, v) :: t, i, x =>
    if i < k then (i, x) :: (k, v) :: t
    else if i = k then (i, x) :: t
    else (k, v) :: Tab.put t i x

/-- The table without a key. -/
def Tab.drop {α : Type} : Tab α → Nat → Tab α
  | [], _ => []
  | (k, v) :: t, i => if k = i then t else (k, v) :: Tab.drop t i

/-- A key above every key of the table. -/
def Tab.fresh {α : Type} : Tab α → Nat
  | [] => 0
  | [(k, _)] => k + 1
  | _ :: b :: t => Tab.fresh (b :: t)

/-! ### Memory -/

/-- The canonical form: addresses strictly rising and no entry that reads as an unlisted address does (0, log 1). -/
def Memory.wf : List Host.Cell → Bool
  | [] => true
  | [(_, b)] => b != 0
  | (a, b) :: (c, d) :: t => b != 0 && decide (a < c) && Memory.wf ((c, d) :: t)

/-- The byte at a key. An unlisted key reads 0 (log 1). -/
def Memory.read : List Host.Cell → Nat → Byte
  | [], _ => 0
  | (k, v) :: t, i => if k = i then v else Memory.read t i

/-- Memory without an entry for a key. -/
def Memory.erase : List Host.Cell → Nat → List Host.Cell
  | [], _ => []
  | (k, v) :: t, i => if k = i then t else if i < k then (k, v) :: t else (k, v) :: Memory.erase t i

/-- Memory with a nonzero byte at a key. -/
def Memory.insert : List Host.Cell → Nat → Byte → List Host.Cell
  | [], i, x => [(i, x)]
  | (k, v) :: t, i, x =>
    if i < k then (i, x) :: (k, v) :: t
    else if i = k then (i, x) :: t
    else (k, v) :: Memory.insert t i x

/-- One byte written; the canonical form is kept. -/
def Memory.write (m : List Host.Cell) (i : Nat) (x : Byte) : List Host.Cell :=
  if x = 0 then Memory.erase m i else Memory.insert m i x

/-- n bytes from a key on. -/
def Memory.readN (m : List Host.Cell) (a n : Nat) : List Byte := (List.range n).map fun i => Memory.read m (a + i)

/-- A list of bytes written from a key on. -/
def Memory.writeN (m : List Host.Cell) (a : Nat) : List Byte → List Host.Cell
  | [] => m
  | b :: t => Memory.writeN (Memory.write m a b) (a + 1) t

/-- Cells written one after the other. -/
def Memory.writeCells (m : List Host.Cell) (cs : List Host.Cell) : List Host.Cell :=
  cs.foldl (fun m c => Memory.write m c.1 c.2) m

/-- The cells of a range. -/
def Memory.range (m : List Host.Cell) (a n : Nat) : List Host.Cell := m.filter fun c => a ≤ c.1 && c.1 < a + n

/-- A range set to zero. -/
def Memory.clear (m : List Host.Cell) (a n : Nat) : List Host.Cell :=
  (Memory.range m a n).foldl (fun m c => Memory.erase m c.1) m

/-- n bytes copied from one memory's range to another's. -/
def Memory.copy (src : List Host.Cell) (a : Nat) (dst : List Host.Cell) (b n : Nat) : List Host.Cell :=
  Memory.writeCells (Memory.clear dst b n) ((Memory.range src a n).map fun c => (b + (c.1 - a), c.2))

/-- Little-endian bytes as a number (R84). -/
def leNat : List Byte → Nat
  | [] => 0
  | b :: t => b.toNat + 256 * leNat t

/-- A number as n little-endian bytes. -/
def toLe : Nat → Nat → List Byte
  | 0, _ => []
  | n + 1, v => BitVec.ofNat 8 v :: toLe n (v / 256)

/-! ### Keys -/

/-- Key of a bank's first byte: FE `fe` of physical pavilion `pav` (R299). -/
def bankKey (pav fe : Nat) : Nat := 2 ^ 56 + (pav * 16 + fe) * 65536

/-- Key of a Terrace's weight store (R303). -/
def weightKey (t : Nat) : Nat := 2 ^ 57 + t * 2 ^ 31

/-- Number of accumulator a of FE fe of a pavilion, and the key of its first byte in accW and accC (R29). -/
def accId (pav fe a : Nat) : Nat := (pav * 16 + fe) * 4 + a
def accKey (id : Nat) : Nat := id * 4096

/-- Grove and Terrace of a physical pavilion (R1, R350). -/
def groveOf (pav : Nat) : Nat := pav / 16
def terraceOf (pav : Nat) : Nat := pav / 512

/-- Bits [hi:lo] of a word as a number. -/
def bits (w : Word) (hi lo : Nat) : Nat := w.toNat / 2 ^ lo % 2 ^ (hi + 1 - lo)

/-- Bit i of a word. -/
def bit (w : Word) (i : Nat) : Bool := w.getLsbD i

/-- Sign extension of a field to 64 bits. -/
def sext {w : Nat} (x : BitVec w) : Word := x.signExtend 64

/-- KB, the bytes of a key, and E, the bytes of an entry (R244). -/
def Geom.kb (g : Geom) : Nat := if g.kfmt = 2 then 2 * g.dim else g.dim
def Geom.keyBytes (g : Geom) : Nat := roundUp g.kb 16
def Geom.e (g : Geom) : Nat := g.keyBytes + 32 + 4 * g.vlen * g.vkind

/-- The streams: a miss of theirs names a tensor and a tile (R316). -/
def EngKind.streams (k : EngKind) : Bool := k == .sload || k == .sstore

/-! ### State: strands, tasks, counters -/

/-- The strand of an index. -/
def State.strand (s : State) (k : Nat) : Option Strand := s.strands[k]?

/-- The state with a strand replaced. -/
def State.setStrand (s : State) (k : Nat) (t : Strand) : State := { s with strands := s.strands.set k t }

/-- The state with a strand changed. -/
def State.modStrand (s : State) (k : Nat) (f : Strand → Strand) : State :=
  match s.strand k with
  | some t => s.setStrand k (f t)
  | none => s

/-- The task of an index; a task that does not exist reads as one that declares nothing. -/
def State.task (s : State) (i : Nat) : Task := (s.tasks[i]?).getD { number := 0, queue := 0, prio := 0 }

def State.setTask (s : State) (i : Nat) (t : Task) : State := { s with tasks := s.tasks.set i t }

def State.modTask (s : State) (i : Nat) (f : Task → Task) : State := s.setTask i (f (s.task i))

def State.terrace (s : State) (t : Nat) : Terrace := (s.terraces[t]?).getD {}

def State.modTerrace (s : State) (t : Nat) (f : Terrace → Terrace) : State :=
  { s with terraces := s.terraces.set t (f (s.terrace t)) }

/-- Without supply nothing operates, and in SAFE only the guard and the management link do (R410). -/
def State.dark (s : State) : Bool := s.boot.stage == .off || s.boot.stage == .safe

/-- An event put behind those in flight. -/
def State.push (s : State) (e : Instr) : State := { s with agenda := s.agenda ++ [e] }

/-- An event that waits for a condition, put behind those that wait. -/
def State.hold (s : State) (e : Instr) : State := { s with waiting := s.waiting ++ [e] }

/-- A message sent to a peer. -/
def State.send (s : State) (m : OutMsg) : State := { s with outbox := s.outbox ++ [m] }

/-- PERF counter c of a pavilion (R272). -/
def State.perfAt (s : State) (pav c : Nat) : Word := (s.perf.find (pav * 64 + c)).getD 0

def State.addPerf (s : State) (pav c n : Nat) : State :=
  { s with perf := s.perf.put (pav * 64 + c) (s.perfAt pav c + BitVec.ofNat 64 n) }

/-- The counter of free values advances (log 6). -/
def State.tick (s : State) : State := { s with ticks := s.ticks + 1 }

/-- The task registers as they stand (R269). -/
def State.sysNow (s : State) (i : Nat) : SysRegs :=
  let t := s.task i
  ⟨t.rclim, t.seed, t.mdt, t.itb, t.routes⟩

/-- The task registers that a strand uses: those at the start of its region (R269). -/
def State.sysFor (s : State) (t : Strand) : SysRegs := if t.region.entered then t.region.sys else s.sysNow t.task

def Task.determ (t : Task) : Bool := t.desc.flags % 2 == 1
def Task.graph (t : Task) : Bool := t.desc.flags / 2 % 2 == 1

/-- A pavilion that no test has harvested, of a grove with GROVEOK (R349, R412). -/
def State.usable (s : State) (pav : Nat) : Bool := !((s.harv.find (groveOf pav)).getD 0).getLsbD (pav % 16)

/-- The place of a logical pavilion among its task's pavilions, 16 to a grove, and the logical pavilion of a place: the same number but
where a resumption or a page's move has put it elsewhere in its grove (R350, R353). -/
def Task.slot (t : Task) (n : Nat) : Nat := (t.remap.find n).getD n
def Task.atSlot (t : Task) (i : Nat) : Nat := ((List.find? (fun x => x.2 == i) t.remap).map (·.1)).getD i

/-- The physical pavilion that holds logical pavilion n of a task, usable or not; none when the task has no such pavilion. -/
def Task.place (t : Task) (n : Nat) : Option Nat :=
  match t.groves[n / 16]? with
  | some g => if g < 256 then some (16 * g + t.slot n % 16) else none
  | none => none

/-- Physical pavilion of logical pavilion n of a task (R350); none when the task has no such pavilion or it is harvested. -/
def State.physPav (s : State) (t : Task) (n : Nat) : Option Nat :=
  match t.place n with
  | some p => if s.usable p then some p else none
  | none => none

/-- Logical pavilion of a physical pavilion of a task (R350). -/
def Task.logPav (t : Task) (pav : Nat) : Nat := t.atSlot (t.groves.idxOf (groveOf pav) * 16 + pav % 16)

/-- The physical pavilion that a program on a pavilion names as number i of its grove (R148, R161, R164, R350). -/
def Task.mate (t : Task) (pav i : Nat) : Nat := groveOf pav * 16 + t.slot (t.groves.idxOf (groveOf pav) * 16 + i) % 16

/-- This chip's identifier (R403). -/
def State.chip (s : State) : Nat := s.colid.toNat

/-- A peer of the load-store domain (R403, R404): a chip whose own identifier lies outside any domain has none, and the entry for its own
number is ignored. -/
def State.isPeer (s : State) (c : Nat) : Bool :=
  s.chip < 4608 && c < 4608 && c != s.chip && bit ((s.croute.find c).getD 0) 63

/-- A peer that is reached (R401, R404). -/
def State.reached (s : State) (c : Nat) : Bool :=
  s.isPeer c && (List.range 24).any fun p => bit ((s.croute.find c).getD 0) p && ((s.cports.find p).getD {}).up

/-- The local address lies in a range that the map of an N9 gives memory (R306). -/
def mapsMemory (a : Nat) : Bool := a < 2 ^ 38 || (2 ^ 40 ≤ a && a < 3 * 2 ^ 40)

/-- The local address lies in usable memory (R306, R307). -/
def State.localOk (s : State) (a : Nat) : Bool :=
  a < 2 ^ 32 * s.boot.gddr || (2 ^ 40 ≤ a && a < 2 ^ 40 + 2 ^ 37 * s.boot.lpddr)

/-- A key whose home can perform an access: a bank, or a physical address that is not reserved (R306, R428). -/
def State.homeOk (s : State) (key : Nat) : Bool :=
  if 2 ^ 55 ≤ key then true
  else
    let c := key / 2 ^ 42
    if c = s.chip then s.localOk (key % 2 ^ 42) else s.reached c && mapsMemory (key % 2 ^ 42)

/-- The 2 MiB frame of a physical address. -/
def frameOf (pa : Nat) : Nat := pa / 2 ^ 21

/-- Where an access to a frame goes on from there: a live stub here, or what is known of the stubs of peers (R331, log 10). -/
def State.hop (s : State) (g : Nat) : Nat :=
  match s.stubs.find? fun st => st.old == g && st.live with
  | some st => st.fwd
  | none => (s.moved.find g).getD g

/-- The frame that now owns a page that an address names: the owner cache, then the stubs of the chain (R326, R331, R335). -/
def State.ownerFrame (s : State) (f : Nat) : Nat := s.hop (s.hop (s.hop ((s.ownerCache.find f).getD f)))

/-- The key at which an access to a key is performed (R287, R331). -/
def State.ownerKey (s : State) (key : Nat) : Nat :=
  if 2 ^ 55 ≤ key then key else s.ownerFrame (frameOf key) * 2 ^ 21 + key % 2 ^ 21

/-- An access to a key can be performed (R306, R326, R401): the frame to which it is sent is reached, where that is a stub of this chip
its forward frame too, and so is the owner. -/
def State.keyOk (s : State) (key : Nat) : Bool :=
  let reach (f : Nat) : Bool := s.homeOk (f * 2 ^ 21)
  let first := (s.ownerCache.find (frameOf key)).getD (frameOf key)
  2 ^ 55 ≤ key || (reach first && (first / 2 ^ 21 != s.chip || reach (s.hop first)) && s.homeOk (s.ownerKey key))

/-- A frame whose accesses are held for FINAL (R330). -/
def State.frameHeld (s : State) (f : Nat) : Bool :=
  s.migs.any fun m => (m.2.state == .final || m.2.state == .commit) && frameOf (bits m.2.src 54 0) == f

/-- A frame whose accesses the new owner performs, once COMMIT is on its way (R330). -/
def State.frameGone (s : State) (f : Nat) : Bool := s.migs.any fun m => m.2.state == .commit && frameOf (bits m.2.src 54 0) == f

/-- Bytes of a frame stand in a line at this chip's Colonnade egress (R274). -/
def State.inEgress (s : State) (f : Nat) : Bool := s.lines.any fun l => l.scope == 3 && l.cells.any fun c => frameOf c.1 == f

/-- A page whose completion with REDIR has come: new accesses wait for those that this chip issued before (R332). -/
def State.redirHeld (s : State) (f : Nat) : Bool := s.redirs.contains f && s.inEgress f

/-- A poisoned 8-byte word among n bytes from a key (R425). -/
def State.poisoned (s : State) (key n : Nat) : Bool :=
  n != 0 && s.poison.any fun w => key / 8 ≤ w && w ≤ (key + n - 1) / 8

/-- n bytes of physical memory can be read (R306, R425). -/
def State.readable (s : State) (a n : Nat) : Bool := s.keyOk a && s.keyOk (a + n - 1) && !s.poisoned (s.ownerKey a) n

/-- What an access to a key meets: where its bytes stand, or a page held for a move, or no home that can perform it. -/
inductive Served where
  | key (k : Nat)
  | wait
  | lost
deriving DecidableEq, Repr

/-- An access to a key goes to the page's owner, unless the page is held (R287, R330 to R332); n is the number of bytes read, which
must not be poisoned (R306, R330,
R425). -/
def State.serve (s : State) (key n : Nat) : Served :=
  let k := s.ownerKey key
  if s.frameHeld (frameOf k) || s.redirHeld (frameOf k) then .wait
  else if !s.keyOk key || s.poisoned k n then .lost
  else .key k

/-! ### Reading and writing at homes -/

/-- A word of whole bytes at home, little-endian. -/
def State.home (s : State) (key n : Nat) : Nat := leNat (Memory.readN s.mem key n)

/-- Poison cleared of the 8-byte words that the cells cover whole (R425). -/
def clearPoison (poison : List Nat) (keys : List Nat) : List Nat :=
  poison.filter fun w => !(List.range 8).all fun i => keys.contains (8 * w + i)

/-- A write to a page that is being copied marks its tiles dirty; in FINAL too, where accesses that were granted before complete
(R330). -/
def MigSlot.markDirty (m : MigSlot) (keys : List Nat) : MigSlot :=
  if m.state = .precopy ∨ m.state = .final then
    { m with dirty := keys.foldl (fun d a =>
        if frameOf a = frameOf (bits m.src 54 0) ∧ !d.contains (a / 4096 % 512) then d ++ [a / 4096 % 512] else d) m.dirty }
  else m

/-- A write of a whole range to a page that is being copied marks its tiles dirty too (R330). -/
def MigSlot.markRange (m : MigSlot) (a n : Nat) : MigSlot :=
  if m.state = .precopy ∨ m.state = .final then
    { m with dirty := (List.range 512).foldl (fun d i =>
        let lo := bits m.src 54 21 * 2 ^ 21 + 4096 * i
        if lo < a + n ∧ a < lo + 4096 ∧ !d.contains i then d ++ [i] else d) m.dirty }
  else m

def State.dirtyRange (s : State) (a n : Nat) : State := { s with migs := s.migs.map fun m => (m.1, m.2.markRange a n) }

/-- Lines in flight with their numbers, in the order in which they were performed. -/
def State.numbered (s : State) : List (Nat × FlightLine) := (List.range s.lines.length).zip s.lines

/-- Cells performed at their home (R275, R277): lines in flight that were performed earlier (`older` tells line and byte) no longer supply
these bytes. -/
def State.performHome (s : State) (cells : List Host.Cell) (older : Nat → Nat → Bool := fun _ _ => true) : State :=
  let keys := cells.map (·.1)
  { s with
    mem := Memory.writeCells s.mem cells
    poison := if s.poison.isEmpty then [] else clearPoison s.poison keys
    migs := s.migs.map fun m => (m.1, m.2.markDirty keys)
    lines := s.numbered.map fun x => { x.2 with
      cells := x.2.cells.map fun c => if keys.contains c.1 && older x.1 c.1 then (c.1, c.2.1, false) else c } }

/-- Bytes written at home from a key on. -/
def State.writeHome (s : State) (key : Nat) (data : List Byte) : State :=
  s.performHome ((List.range data.length).zip data |>.map fun c => (key + c.1, c.2))

/-- An access held at the slot that moves its frame. -/
def State.holdAccess (s : State) (f : Nat) (l : List Access) : State :=
  { s with migs := s.migs.map fun (m : Nat × MigSlot) =>
      (if (m.2.state == .final || m.2.state == .commit) && frameOf (bits m.2.src 54 0) == f then
        (m.1, { m.2 with heldAcc := m.2.heldAcc ++ l }) else m) }

/-- A range of physical memory frame by frame, at its pages' owners: key, offset in the range, and length. -/
def State.ownerParts (s : State) (a n : Nat) : List (Nat × Nat × Nat) :=
  if n = 0 then []
  else (List.range (frameOf (a + n - 1) - frameOf a + 1)).map fun i =>
    let lo := Nat.max a ((frameOf a + i) * 2 ^ 21)
    (s.ownerKey lo, lo - a, Nat.min (a + n) ((frameOf a + i + 1) * 2 ^ 21) - lo)

/-- A page of a range of physical memory is held for FINAL: what would read it waits (R330). -/
def State.areaHeld (s : State) (a n : Nat) : Bool := (s.ownerParts a n).any fun p => s.frameHeld (frameOf p.1)

/-- Bytes of physical memory that a unit of the device reads, at their pages' owners (R326, R331). -/
def State.physN (s : State) (a n : Nat) : List Byte := (s.ownerParts a n).flatMap fun p => Memory.readN s.mem p.1 p.2.2

def State.phys (s : State) (a n : Nat) : Nat := leNat (s.physN a n)

/-- A line in flight covers a party (R274): at the device's publish point it covers every party of this N9. -/
def FlightLine.covers (l : FlightLine) (k pav : Nat) : Bool :=
  match l.scope with
  | 0 => l.strand == k
  | 1 => l.point == pav
  | 2 => l.point == groveOf pav
  | _ => true

/-- The byte that strand k in pavilion pav reads (R277). -/
def State.view (s : State) (k pav key : Nat) : Byte :=
  s.lines.foldl (fun b l =>
    if l.covers k pav then
      match l.cells.find? fun c => c.1 == key && c.2.2 with
      | some c => c.2.1
      | none => b
    else b) (Memory.read s.mem key)

/-- n bytes as a strand reads them. -/
def State.viewN (s : State) (k pav key n : Nat) : List Byte := (List.range n).map fun i => s.view k pav (key + i)

/-- The chip that homes a key: this one for a bank (R306). -/
def State.homeChip (s : State) (key : Nat) : Nat := if 2 ^ 55 ≤ key then s.chip else key / 2 ^ 42

/-- A scope's publish point for a key is the key's home (R274). -/
def State.atHome (s : State) (scope key : Nat) : Bool := 4 ≤ scope || (scope == 3 && s.homeChip key == s.chip)

/-- The value of a byte as it stands at a narrow point: the last that was performed there (R276). -/
def State.atPoint (s : State) (scope point key : Nat) : Byte :=
  s.lines.foldl (fun b l =>
    if l.scope = scope ∧ l.point = point then
      match l.cells.find? fun d => d.1 == key with
      | some d => d.2.1
      | none => b
    else b) 0

/-- The point of a wider scope through which a byte goes from a point on. -/
def State.pointFrom (s : State) (scope point wider key : Nat) : Nat :=
  match wider with
  | 3 => s.homeChip key
  | 2 => if scope < 2 then groveOf point else point
  | _ => point

/-- The number of the last line of a point that holds a byte. -/
def State.lastAt (s : State) (scope point key : Nat) : Nat :=
  s.numbered.foldl (fun n x => if x.2.scope == scope && x.2.point == point && x.2.cells.any (fun c => c.1 == key) then x.1 else n) 0

/-- Bytes carried from a narrow point to that of a wider scope, or to their home, as they stand (R275, R276). Lines keep the order in
which they were performed: short of its home a line stands in its place at the wider point, and the home is reached with what was
performed earlier at the points on the way, so that no earlier value is carried over a later one (log 71). -/
def State.carry (s : State) (scope point : Nat) (keys : List Nat) (outer : Nat) : State :=
  let home := keys.filter fun a => s.atHome outer a
  let goes (l : FlightLine) (a : Nat) : Bool := l.scope == scope && l.point == point && keys.contains a && !home.contains a
  let done (i : Nat) (l : FlightLine) (a : Nat) : Bool :=
    home.contains a && scope ≤ l.scope && l.scope < outer && l.point == s.pointFrom scope point l.scope a && i ≤ s.lastAt scope point a
  let split (x : Nat × FlightLine) : List FlightLine :=
    let go := x.2.cells.filter fun c => goes x.2 c.1
    let stay := x.2.cells.filter fun c => !goes x.2 c.1 && !done x.1 x.2 c.1
    let gone : List FlightLine := match go with
      | [] => []
      | c :: _ => [{ x.2 with scope := outer, point := s.pointFrom scope point outer c.1, cells := go.map fun c => (c.1, c.2.1, true) }]
    (if stay.isEmpty then [] else [{ x.2 with cells := stay }]) ++ gone
  let s' := s.performHome (home.map fun a => (s.ownerKey a, s.atPoint scope point a)) fun i a => decide (i ≤ s.lastAt scope point a)
  let s' := { s' with lines := s'.numbered.flatMap split }
  { s' with redirs := s'.redirs.filter s'.inEgress }

/-- The bytes among some that stand in this chip's egress queue to a peer. -/
def State.egressKeys (s : State) (point : Nat) (p : Nat → Bool) : List Nat :=
  ((s.lines.filter fun l => l.scope == 3 && l.point == point).flatMap fun l => (l.cells.map (·.1)).filter p).eraseDups

/-- What stands for some bytes in this chip's egress queue goes to their home ahead of an access of this chip that is performed there:
an agent's accesses to an address keep their order (R274, R287). -/
def State.drainEgress (s : State) (p : Nat → Bool) : State :=
  match s.lines.find? fun l => l.scope == 3 && l.cells.any fun c => p c.1 with
  | none => s
  | some l => s.carry 3 l.point (s.egressKeys l.point p) 4

/-- The n bytes from a key on, once this chip's earlier stores to them are at their home. -/
def State.reachHome (s : State) (key n : Nat) : State := s.drainEgress fun a => decide (key ≤ a) && decide (a < key + n)

/-- A range of physical memory, once this chip's earlier stores to it are at their homes. -/
def State.reachArea (s : State) (a n : Nat) : State := (s.ownerParts a n).foldl (fun s p => s.reachHome p.1 p.2.2) s

/-- n bytes as every party of this chip reads them (R274). -/
def State.deviceN (s : State) (key n : Nat) : List Byte := s.viewN s.strands.length 65536 key n

/-- Bytes of physical memory that a unit of the device writes: at their pages' owners, behind this chip's earlier stores to them, or held
with a page in FINAL (R287, R330, R331). -/
def State.unitWrite (s : State) (a : Nat) (d : List Byte) : State :=
  (s.ownerParts a d.length).foldl (fun s p =>
    let part := (d.drop p.2.1).take p.2.2
    if s.frameHeld (frameOf p.1) then
      s.holdAccess (frameOf p.1) [{ pa := p.1, op := .write part, chip := s.chip, req := 0 }]
    else (s.reachHome p.1 p.2.2).writeHome p.1 part) s

/-- Cells of a line performed at the publish point of a scope (R274), for the region that began at `block`. -/
def State.performAt (s : State) (k : Nat) (t : Strand) (scope : Nat) (va : Word) (block : Word) (cells : List Host.Cell) : State :=
  if cells.all fun c => s.atHome scope c.1 then (s.drainEgress fun a => cells.any fun c => c.1 == a).performHome cells
  else
    { s with lines := s.lines ++
        [{ scope := scope, strand := k, task := t.task, va := va, block := block, cells := cells.map fun c => (c.1, c.2, true),
           point := match scope with
             | 3 => s.homeChip ((cells.head?.map (·.1)).getD 0)
             | 2 => groveOf t.pav
             | _ => t.pav }] }

/-! ### The fault ring (R318 to R322) -/

/-- Codes of R321. -/
def FaultCode.code : FaultCode → Nat
  | .illegal => 0x01 | .blockFormat => 0x02 | .resource => 0x03 | .align => 0x04 | .xlateLoad => 0x05
  | .protect => 0x06 | .scope => 0x07 | .regionOverflow => 0x08 | .regionLivein => 0x09 | .format => 0x0A
  | .overlap => 0x0B | .ring => 0x0C | .engine => 0x0D | .uncorr => 0x0E | .trap => 0x0F | .reentry => 0x10
  | .matchF => 0x11

/-- The 64 bytes of record number n (R319). -/
def Record.bytes (r : Record) (n : Nat) : List Byte :=
  toLe 8 (r.kind % 256 * 2 ^ 56 + r.cause % 64 * 2 ^ 48 + r.subcause % 256 * 2 ^ 40 + r.slot % 64 * 2 ^ 34
      + r.status % 16 * 2 ^ 30 + r.rcnt % 256 * 2 ^ 22)
  ++ toLe 8 r.strand.toNat ++ toLe 8 r.block.toNat ++ toLe 8 r.tag.toNat ++ toLe 8 r.addr.toNat
  ++ toLe 8 r.detail.toNat ++ toLe 8 r.task ++ toLe 8 (n % 2 ^ 32)

/-- Base and number of records of a fault ring (R269, R318). -/
def ringBase (fring : Word) : Nat := bits fring 56 12 * 4096
def ringSize (fring : Word) : Nat := 2 ^ (bits fring 3 0 + 6)

/-- The key at which the arbiter reads or writes a byte of its ring, whose address is a physical one (log 26). -/
def State.ringKey (s : State) (a : Nat) : Nat := s.ownerKey (a % 2 ^ 55)

/-- The ring lies where its homes can perform accesses, and no page of it is held for FINAL (R306, R330). -/
def State.ringServed (s : State) (fring : Word) : Bool :=
  let b := ringBase fring
  let last := b + 63 + 64 * ringSize fring
  let served (a : Nat) : Bool := s.homeOk (s.ringKey a) && !s.frameHeld (frameOf (s.ringKey a))
  last < 2 ^ 55 && served last && (List.range (frameOf last - frameOf b + 1)).all fun i => served (Nat.max b ((frameOf b + i) * 2 ^ 21))

/-- TAIL of a ring, as it is visible at device scope (R318). -/
def State.ringTail (s : State) (fring : Word) : Nat := leNat (s.deviceN (s.ringKey (ringBase fring + 8)) 4)

/-- Room for one more record (R322): the last 16 places are the fault handler's. TAIL is read from memory; a ring whose TAIL is poisoned
has no room (R425, log 84). -/
def State.ringRoom (s : State) (t : Nat) (handler : Bool) : Bool :=
  let fr := (s.terrace t).fring
  let used := (BitVec.ofNat 32 ((s.terrace t).head.toNat + 2 ^ 32 - s.ringTail fr)).toNat
  s.ringServed fr && !s.poisoned (s.ringKey (ringBase fr + 8)) 4 && (if handler then used < ringSize fr else used + 16 < ringSize fr)

/-- The translation records of R314: KIND 2, 4, and 3 with STATUS LOGGED. -/
def Record.isXlate (r : Record) : Bool := r.kind == 2 || r.kind == 4 || (r.kind == 3 && r.status == 0)

/-- IDLE strands of the Terrace are answered 0 (R273): the answer stands in the slot's left operand until it is sent. -/
def wakeIdle (t : Nat) (k : Strand) : Strand :=
  match k.block with
  | none => k
  | some b =>
    if terraceOf k.pav ≠ t then k
    else
      { k with block := some { b with slots := (b.slots.zip b.words).map fun c =>
          if c.1.status == .sent && c.2.toNat / 2 ^ 26 == 0x1C && c.2.toNat / 2 ^ 20 % 16 == 6 then
            { c.1 with status := .waiting, l := some (.value 0) }
          else c.1 } }

/-- DETAIL filled in where a fault cites the record that has now been written as number n (R429). -/
def State.cited (s : State) (mark n : Nat) : State :=
  let fill (f : FaultInfo) : FaultInfo := if f.cites = some mark then { f with detail := BitVec.ofNat 64 n, cites := none } else f
  let fillRec (r : Record) : Record := if r.cites = some mark then { r with detail := BitVec.ofNat 64 n, cites := none } else r
  { s with
    strands := s.strands.map fun (t : Strand) => { t with pendFault := t.pendFault.map fun f => { f with info := fill f.info } }
    terraces := s.terraces.map fun (te : Terrace) => { te with held := te.held.map fun h => { h with entry := fillRec h.entry } } }

/-- The arbiter writes a record, then HEAD (R318). -/
def State.ringWrite (s : State) (t : Nat) (r : Record) : State :=
  let te := s.terrace t
  let n := te.head.toNat
  let base := ringBase te.fring
  let s := s.writeHome (s.ringKey (base + 64 + 64 * (n % ringSize te.fring))) (r.bytes n)
  let s := s.writeHome (s.ringKey base) (toLe 4 ((n + 1) % 2 ^ 32))
  let s := { s with strands := s.strands.map (wakeIdle t) }
  s.modTerrace t fun te =>
    { te with head := te.head + 1,
              answered := if r.isXlate then te.answered.put n (r.tile, r.addr, r.task) else te.answered.drop n }

/-- A record is written at once: the ring has room, nothing is held before it, and it cites no record that is held (R322, R429). -/
def State.recordsNow (s : State) (t : Nat) (handler : Bool) (r : Record) : Bool :=
  s.ringRoom t handler && (handler || (s.terrace t).held.isEmpty) && r.cites.isNone

/-- A record goes to a Terrace's ring, or is held for want of room (R322). -/
def State.record (s : State) (t : Nat) (r : Record) (handler : Bool := false)
    (strand : Option (Nat × StrandState) := none) (mark : Option Nat := none) : State :=
  if s.recordsNow t handler r then
    let s := s.ringWrite t r
    match strand with
    | some (k, st) => s.modStrand k fun x => { x with state := st }
    | none => s
  else
    let s := s.modTerrace t fun te =>
      { te with held := te.held ++ [{ entry := r, strand := strand, mark := mark }], ovf := te.ovf || strand.isSome }
    match strand with
    | some (k, _) => s.modStrand k fun x => { x with state := .held }
    | none => s

/-- A unit of a pavilion keeps a record of a strandless kind: it accepts no further operation of that kind (R322). A fault-handling
task's operations pass: the ring keeps places for it. -/
def State.recordKept (s : State) (task pav kind : Nat) : Bool :=
  !(s.task task).faulth && (s.terrace (terraceOf pav)).held.any fun h =>
    h.strand.isNone && h.entry.kind == kind && bits h.entry.strand 47 36 == pav % 4096

/-- FSTAT.HELD: the strands held (R269). -/
def Terrace.heldCount (te : Terrace) : Nat := (te.held.filter fun h => h.strand.isSome).length

/-- The strand handle of a fault record (R319). -/
def State.handle (s : State) (t : Strand) : Word :=
  BitVec.ofNat 64 (s.chip * 2 ^ 48 + t.pav % 4096 * 2 ^ 36 + t.place % 16 * 2 ^ 32 + t.gen % 2 ^ 32)

/-- The strand-related fields of a record. -/
def State.strandRec (s : State) (t : Strand) (kind : Nat) : Record :=
  { kind := kind, rcnt := t.rcnt.toNat, strand := s.handle t, tag := t.tag, task := (s.task t.task).number }

/-! ### Discard, taking a fault, and the return from it -/

/-- Deque entries that a strand claimed are back in their places, and those it reserved are free again (R37, R140). -/
def Deque.release (d : Deque) (k : Nat) (kept : List Nat) : Deque :=
  { d with entries := d.entries.filterMap fun e => match e.2.2 with
      | .visible => some e
      | .claimed j => if j = k && !kept.contains e.1 then some (e.1, e.2.1, .visible) else some e
      | .reserved j => if j = k && !kept.contains e.1 then none else some e }

/-- Entries of deque dq that the strand's queued publishes have claimed or reserved: no discard touches those (R34). -/
def Strand.queuedEntries (t : Strand) (dq : Nat) : List Nat :=
  t.queue.flatMap fun p =>
    (p.claims.filter fun c => c.1 * 16 + c.2.1 == dq).map (·.2.2)
      ++ (p.deferred.filter fun d => d.kind == .dqpush && d.x == dq).map (·.y)

/-- Working accumulators take the committed values (R37). -/
def State.restoreAcc (s : State) (id : Nat) : State :=
  { s with
    accW := Memory.copy s.accC (accKey id) s.accW (accKey id) 4096
    stickyW := (s.stickyW.filter (· ≠ id)) ++ (if s.stickyC.contains id then [id] else []) }

/-- Committed accumulators take the working values (R34 step 3). -/
def State.commitAcc (s : State) (id : Nat) : State :=
  { s with
    accC := Memory.copy s.accW (accKey id) s.accC (accKey id) 4096
    stickyC := (s.stickyC.filter (· ≠ id)) ++ (if s.stickyW.contains id then [id] else [])
    accPoison := s.accPoison.filter (· ≠ id) }

/-- The strand's own state after a discard (R37, R140, R42). -/
def Strand.discarded (t : Strand) : Strand :=
  { t with
    rcnt := if t.rcnt = 255 then 255 else t.rcnt + 1
    ip := t.region.ip, fp := t.region.fp, poolPtr := t.region.poolPtr
    frames := t.frames.filter fun f => f.base < t.region.poolPtr
    region := { t.region with first := true, young := false, store := [], pins := [], deferred := [],
                              claims := [], accs := [], rivals := [], waits := [] }
    liveIn := 0, written := 0, block := none, bndBegun := false, nextAge := none, yieldMark := false, phase := .fetch
    exiting := false }

/-- Key of entry x of a store (R367). -/
def Store.key (st : Store) (x : Nat) : Nat := bankKey st.pav st.fe + st.base + x * st.geom.e

/-- An entry that its store's arbiter cannot read: its STATE is poisoned, or it is present and another word of it is (R367, R425). -/
def State.entryLost (s : State) (st : Store) (x : Nat) : Bool :=
  s.poisoned (st.key x + 8) 8 || ((Memory.read s.mem (st.key x + 15)).toNat % 2 == 1 && s.poisoned (st.key x) st.geom.e)

/-- Some entry of a store cannot be read. -/
def State.entriesLost (s : State) (st : Store) : Bool := (List.range st.cap).any (s.entryLost st)

/-- Bytes of RESV written (R367). -/
def State.setResv (s : State) (st : Store) (x v : Nat) : State := s.writeHome (st.key x + 24) (toLe 2 v)

/-- RESV of the present entry with a CTR, lowered by 1 (R253, R367). -/
def State.lowerResv (s : State) (st : Store) (ctr : Nat) : State :=
  match (List.range st.cap).find? fun x =>
      !s.entryLost st x && s.home (st.key x + 15) 1 % 2 == 1 && s.home (st.key x + 18) 3 == ctr with
  | some x => s.setResv st x (s.home (st.key x + 24) 2 - 1)
  | none => s

/-- A query of strand k that a discard withdraws or forgets (R243, R254). -/
def State.withdrawn (s : State) (k : Nat) (q : ResvKey) : Bool := match q with
  | .own q => match s.queries.find q with
    | some x => x.strand == k && !x.performed
    | none => false
  | .peer .. => false

/-- What the query carries to a store on a peer (R372). -/
def Query.message (x : Query) (chip q : Nat) (winners : List Nat) : PeerQuery :=
  { chip := chip, number := q, task := x.task, dom := bits x.r 63 56, tag := x.tag, consume := x.consume, r := x.r, third := x.third,
    bytes := x.bytes, winners := winners }

/-- Strand k's withdrawn MATCHCs release what stores of peers have reserved for them (R254): decisions without a winner go there. -/
def State.releasePeers (s : State) (k : Nat) : State :=
  s.queries.foldl (fun (s' : State) (x : Nat × Query) =>
    if !s.withdrawn k (.own x.1) || !x.2.consume then s'
    else x.2.answers.foldl (fun s' a =>
      match s.stores.find? fun st => st.owner.isNone && st.task == x.2.task && st.dom == bits x.2.r 63 56 && st.store == a.1 with
      | some st => if st.chip = s.chip then s' else s'.send (.decisions st.chip a.1 (x.2.message s.chip x.1 []))
      | none => s') s') s

/-- The reservations of strand k's withdrawn queries released at every store that has granted them (R254). -/
def State.releaseResv (s : State) (k : Nat) : State :=
  let gone (r : ResvKey × Nat) : Bool := s.withdrawn k r.1
  let s' := s.stores.foldl (fun s' st => (st.resv.filter gone).foldl (fun s' r => s'.lowerResv st r.2) s') (s.releasePeers k)
  { s' with stores := s'.stores.map fun (st : Store) =>
      { st with resv := st.resv.filter fun r => !gone r
                blocked := if (st.blocked.map (s.withdrawn k)).getD false then none else st.blocked } }

/-- The region of strand k dropped, state by state (R37). A poisoned committed accumulator that it would restore from
raises F_UNCORR (R425). -/
def State.dropRegion (s : State) (k : Nat) : State :=
  match s.strand k with
  | none => s
  | some t =>
    let s := t.region.accs.foldl State.restoreAcc s
    let s := s.releaseResv k
    let s := { s with
      deques := s.deques.map fun (d : Nat × Deque) => (d.1, d.2.release k (t.queuedEntries d.1))
      stagings := s.stagings.filter fun d => !(d.strand == k && !d.kept)
      queries := s.queries.filter fun (q : Nat × Query) => q.2.strand != k || q.2.performed }
    let bad := t.region.accs.any s.accPoison.contains
    let d := t.discarded
    let d := if bad then { d with pendFault := some ⟨{ code := .uncorr }, t.region.ip, 0⟩ } else d
    s.setStrand k d

/-- The region of strand k discarded (R37), and counted (R272). -/
def State.discard (s : State) (k : Nat) : State :=
  match s.strand k with
  | none => s
  | some t => (s.dropRegion k).addPerf t.pav 3 1

/-- The record of a raised fault (R319, R321): FAULT, and XLATE for the F_XLATE_LOAD that a boundary block keeps (log 61); RCNT is the
count after the discard. -/
def State.faultRecord (s : State) (t : Strand) (f : RaisedFault) : Record :=
  let kind := if f.info.code = .xlateLoad then 2 else 1
  { s.strandRec t kind with cause := f.info.code.code, subcause := f.info.sub, slot := f.slot, block := f.block,
                            addr := f.info.addr, detail := f.info.detail, cites := f.info.cites }

/-- TAKING A FAULT (R10, R44): the region is discarded, the record goes to the Terrace's ring, and the strand enters
FAULTED, or is held while the ring is full (R322). -/
def State.takeFault (s : State) (k : Nat) (f : RaisedFault) : State :=
  let s := s.discard k
  match s.strand k with
  | none => s
  | some t => s.record (terraceOf t.pav) (s.faultRecord t f) (s.task t.task).faulth (some (k, .faulted))

/-! ### Records of units, and faults of an earlier region (R319, R429) -/

/-- The fields of a record of a strandless kind about a strand's operation (R319). -/
def State.unitRec (s : State) (t : Strand) (kind : Nat) (block : Word) (slot : Nat) (tag : Word) (status : Nat) (addr detail : Word)
    (badpte : Bool := false) : Record :=
  { s.strandRec t kind with rcnt := 0, block := block, slot := slot, tag := tag, status := status, addr := addr, detail := detail,
                            subcause := if badpte then 10 else 0 }

/-- A record of a strandless kind about a strand's operation (R319). -/
def State.unitRecord (s : State) (k kind : Nat) (block : Word) (slot : Nat) (tag : Word) (status : Nat := 0) (addr : Word := 0)
    (detail : Word := 0) (badpte : Bool := false) : State :=
  match s.strand k with
  | none => s
  | some t => s.record (terraceOf t.pav) (s.unitRec t kind block slot tag status addr detail badpte) (s.task t.task).faulth

/-- The region can still be discarded: its publish has not begun, and its boundary instruction has not been performed (R34, R40,
R46). -/
def Strand.canDiscard (t : Strand) : Bool :=
  t.pub.isNone && !t.region.kept && !(t.block.any fun b => b.performed)
    && (t.state == .ready || t.state == .running || t.state == .blocked)

/-- A fault that an event of an earlier region or of a publish raises at the start of the strand's current region (R168, R429):
at once when the region can be discarded, otherwise when the next one starts. -/
def State.regionFault (s : State) (k : Nat) (f : FaultInfo) : State :=
  match s.strand k with
  | none => s
  | some t =>
    if t.state = .ended then s
    else if t.canDiscard then s.takeFault k ⟨f, t.region.ip, 0⟩
    else if t.pendFault.isSome then s
    else s.setStrand k { t with pendFault := some ⟨f, 0, 0⟩, pendHere := true }

/-- A STORE_DEFERRED record of a write that is lost, and the fault that its strand raises, whose DETAIL is the record's number (R168,
R323, R428, R429). -/
def State.storeLost (s : State) (k status : Nat) (block addr detail : Word) (c : FaultCode) : State :=
  match s.strand k with
  | none => s
  | some t =>
    let tr := terraceOf t.pav
    let handler := (s.task t.task).faulth
    let r := s.unitRec t 3 block 0 t.tag status addr detail
    if s.recordsNow tr handler r then
      (s.record tr r handler).regionFault k { code := c, addr := addr, detail := BitVec.ofNat 64 (s.terrace tr).head.toNat }
    else
      ({ s with marks := s.marks + 1 }.record tr r handler none (some s.marks)).regionFault k { code := c, addr := addr, cites := some s.marks }

/-! ### Lines on their way (R275, R276, R428) -/

/-- The byte mask of a line in flight. -/
def FlightLine.mask (l : FlightLine) : Word := BitVec.ofNat 64 (l.cells.foldl (fun m c => m ||| 2 ^ (c.1 % 64)) 0)

/-- A key at which the line's bytes stand. -/
def FlightLine.key (l : FlightLine) : Nat := (l.cells.head?.map (·.1)).getD 0

/-- Going on to a scope's point a line is lost: its home cannot perform it (R428). -/
def State.lineLost (s : State) (l : FlightLine) (outer : Nat) : Bool := s.atHome outer l.key && !s.keyOk l.key

/-- A line can go on: its new owner is not awaited (R330), and where it is lost no record of its kind is kept back (R322). -/
def State.canCarry (s : State) (l : FlightLine) (outer : Nat) : Bool :=
  !s.frameGone (frameOf l.key)
    && !(s.lineLost l outer && (s.strand l.strand).any fun t => s.recordKept t.task t.pav 3)

/-- A line goes on to the point of a wider scope, or to its home; one whose home cannot perform it is lost (R428). -/
def State.carryLine (s : State) (l : FlightLine) (outer : Nat) : State :=
  if s.lineLost l outer then
    { s with lines := s.lines.filter fun x => x != l }.storeLost l.strand 3 l.block l.va l.mask .uncorr
  else s.carry l.scope l.point (l.cells.map (·.1)) outer

/-- The strand's lines that a publish at a scope covers and that stand at a narrower one (R276). -/
def State.narrower (s : State) (k scope : Nat) : List FlightLine :=
  s.lines.filter fun l => l.strand == k && l.scope < scope

/-- The strand's earlier lines of a narrower scope carried to the point of `scope`, one after the other, until one must wait (R276). -/
def widenGo (k scope : Nat) : Nat → State → State
  | 0, s => s
  | n + 1, s => match s.narrower k scope with
    | [] => s
    | l :: _ => if s.canCarry l scope then widenGo k scope n (s.carryLine l scope) else s

def State.widen (s : State) (k scope : Nat) : State := widenGo k scope s.lines.length s

/-! ### Returns and re-entries -/

/-- RESUME, the return (R270): with next block 0 the strand re-enters its region with RCNT kept; otherwise it begins a new
region at the next block with RCNT 0, and the discarded region is abandoned. -/
def State.resumeAt (s : State) (k : Nat) (next : Word) : State :=
  s.modStrand k fun t =>
    if next = 0 then { t with state := .ready, phase := .fetch, ip := t.region.ip }
    else
      { t with state := .ready, phase := .fetch, ip := next, rcnt := 0, exiting := false, noNext := false,
               region := { ip := next, fp := t.fp, tag := t.tag, poolPtr := t.poolPtr } }

/-- A discard that would re-enter (R42): with RCNT at or above RCLIM the strand raises F_REENTRY, and otherwise it is left
as `after` says. -/
def State.reenter (s : State) (k : Nat) (after : Strand → Strand) : State :=
  match s.strand k with
  | none => s
  | some t =>
    if (s.sysFor t).rclim ≤ t.rcnt.toNat then
      s.record (terraceOf t.pav)
        { s.strandRec t 1 with cause := FaultCode.reentry.code, block := t.region.ip } (s.task t.task).faulth
        (some (k, .faulted))
    else s.setStrand k (after t)

/-- The region is discarded and re-entered (soft errors, pool rules, transfers from an intact source). -/
def State.discardReenter (s : State) (k : Nat) : State :=
  (s.discard k).reenter k fun t => { t with state := .ready }

/-- The discard of a detected soft error or of an uncorrectable transfer, with its DISCARD record (R319 kind 13, R424): with the ring
full the strand re-enters once the record is written (R322). -/
def State.softDiscard (s : State) (k : Nat) : State :=
  let s := s.discard k
  match s.strand k with
  | none => s
  | some t =>
    let limit := (s.sysFor t).rclim ≤ t.rcnt.toNat
    let s := s.record (terraceOf t.pav) { s.strandRec t 13 with block := t.region.ip } (s.task t.task).faulth
      (if limit then none else some (k, .ready))
    if limit then s.reenter k fun t => t else s

/-- A discard that is asked for (R46): one that finds the region's publish begun, or the region past its boundary instruction, is owed
by the strand's next region. -/
def State.askDiscard (s : State) (k : Nat) : State :=
  match s.strand k with
  | none => s
  | some t => if t.canDiscard then s.softDiscard k else if t.pub.isSome || t.region.kept then s.setStrand k { t with owed := some true } else s

/-- F_XLATE_LOAD (R10, R42, R44): the region is discarded, an XLATE record is written, and the strand is PARKED on the
page of `va`. -/
def State.parkPage (s : State) (k : Nat) (va : Word) (badpte : Bool) (block : Word) (slot : Nat) : State :=
  let s := s.discard k
  s.reenter k (fun t => t) |> fun s' =>
  match s'.strand k with
  | none => s'
  | some t =>
    if (s.sysFor t).rclim ≤ t.rcnt.toNat then s'
    else
      let s' := s'.setStrand k { t with park := some (.page va block slot) }
      s'.record (terraceOf t.pav)
        { s'.strandRec t 2 with cause := FaultCode.xlateLoad.code, subcause := if badpte then 10 else 0,
                                slot := slot, block := block, addr := va } (s.task t.task).faulth (some (k, .parked))

/-- A READ that waits for a held engine operation (R192): the record names the engine's address. -/
def State.parkEngine (s : State) (k e : Nat) (addr : Word) (badpte : Bool) (block : Word) (slot : Nat) : State :=
  let s := s.discard k
  s.reenter k (fun t => t) |> fun s' =>
  match s'.strand k with
  | none => s'
  | some t =>
    if (s.sysFor t).rclim ≤ t.rcnt.toNat then s'
    else
      let s' := s'.setStrand k { t with park := some (.engine e) }
      s'.record (terraceOf t.pav)
        { s'.strandRec t 2 with cause := FaultCode.xlateLoad.code, subcause := if badpte then 10 else 0, slot := slot, block := block,
                                addr := addr, tile := (s'.engines.find e).any fun x => x.kind.streams } (s.task t.task).faulth (some (k, .parked))

/-! ### Tags in flight (R13, R14) -/

/-- Tags agree in fields F1 to F(i − 1). -/
def samePrefix (i : Nat) (a b : Word) : Bool := (List.range (i - 1)).all fun j => tagField a (j + 1) == tagField b (j + 1)

/-- The tags that occupied slots of the task's buffers carry (R14). -/
def State.slotTags (s : State) (task : Nat) : List Word :=
  let ids := (s.strands.filter fun t => t.task == task && t.state != .ended).flatMap fun t => t.bufs.map (·.2)
  s.buffers.flatMap fun (b : Nat × BufRec) => if ids.contains b.1 then b.2.tags else []

/-- The tags in flight in a task's graph: those of its iterations that have not ended, and those that occupied slots carry. -/
def State.graphTags (s : State) (task : Nat) : List Word :=
  ((s.strands.filter fun t => t.task == task && t.kind != .ordinary && t.state != .ended).map (·.tag)) ++ s.slotTags task

/-- The tag whose field at t's own level lies n before t's. -/
def tagBack (t : Word) (n : Nat) : Word :=
  let i := tagDepth t
  BitVec.ofNat 64 (t.toNat - tagField t i * 2 ^ (60 - 12 * i) + (tagField t i + 4096 - n) % 4096 * 2 ^ (60 - 12 * i))

/-- The tags that precede t at its own level, from the oldest of those in flight in the task's graph on (R13, R236). -/
def State.tagsBefore (s : State) (task : Nat) (t : Word) : List Word :=
  let i := tagDepth t
  let older := (s.graphTags task).filter fun u => i ≤ tagDepth u && tagPrecedes i u t
  if i = 0 then []
  else (List.range ((older.map fun u => (tagField t i + 4096 - tagField u i) % 4096).foldl max 0)).map fun n => tagBack t (n + 1)

/-- An iteration ends: it is remembered as long as a tag that does not follow its own is in flight. -/
def State.iterationEnds (s : State) (t : Strand) : State :=
  match t.kind with
  | .ordinary => s
  | .iteration blk =>
    let keep (e : Nat × Word) : Bool := (s.graphTags t.task).any fun u => u == e.2 || tagPrecedes (tagDepth e.2) u e.2
    s.modTask t.task fun x => { x with finished := ((x.finished.filter (· != (blk, t.tag))) ++ [(blk, t.tag)]).filter keep }

end Sys2Proof.Machine
end

