-- ==== Sys2Proof/Machine/Translate.lean ====
section
/-! DEFINITION. Addresses: flat and bank window (R164, R309), the radix table (R310 to R313), the translation caches, and
SCRATCH64 (R366). -/

namespace Sys2Proof.Machine

/-- What an access needs of a leaf (R311). -/
inductive Need where
  | load | store | atomic | fetch
deriving DecidableEq, Repr

/-- What a walk finds. -/
inductive Walk where
  | ok (leaf : Word) (shift : Nat)
  | miss (badpte : Bool)
  | uncorr
deriving DecidableEq, Repr

/-- What an access meets at an address. -/
inductive Xl where
  | ok (key : Nat)
  | miss (badpte : Bool)
  | fault (c : FaultCode)
deriving DecidableEq, Repr

def pteV (e : Word) : Bool := bit e 63
def pteKind (e : Word) : Nat := bits e 62 61
def ptePa (e : Word) : Nat := bits e 54 12 * 4096

/-- A leaf permits an access (R311). -/
def leafAllows (e : Word) : Need → Bool
  | .load => bit e 60
  | .store => bit e 59
  | .atomic => bit e 60 && bit e 59
  | .fetch => bit e 58

/-- An entry of a level is malformed, apart from the group rule of 64 KiB leaves (R312). -/
def malformed (chip level : Nat) (e : Word) : Bool :=
  bits e 56 55 != 0 || (bit e 57 && bit e 59) ||
  match pteKind e with
  | 0 => level == 4 || bits e 60 57 != 0 || ptePa e / 2 ^ 42 != chip
  | 1 => level != 4
  | 2 => level != 4 || ptePa e % 2 ^ 16 != 0
  | _ => level != 3 || ptePa e % 2 ^ 21 != 0

/-- The 16 entries of a 64 KiB leaf's group all carry V = 1, KIND 2 and equal bits [54:16] (R312). -/
def groupOk (s : State) (table idx : Nat) (e : Word) : Bool :=
  (List.range 16).all fun i =>
    let f := BitVec.ofNat 64 (s.home (s.ownerKey (table + 8 * (idx / 16 * 16 + i))) 8)
    pteV f && pteKind f == 2 && bits f 54 16 == bits e 54 16

/-- The walk from a level's table on (R310), which is read at its pages' owners (R331); levels left are counted down. -/
def walkGo (s : State) (va : Nat) : Nat → Nat → Nat → Walk
  | 0, _, _ => .miss false
  | n + 1, level, table =>
    let idx := match level with
      | 1 => va / 2 ^ 39 % 2 ^ 18
      | 2 => va / 2 ^ 30 % 512
      | 3 => va / 2 ^ 21 % 512
      | _ => va / 2 ^ 12 % 512
    let a := table + 8 * idx
    if !s.keyOk a || s.poisoned (s.ownerKey a) 8 then .uncorr
    else
      let e := BitVec.ofNat 64 (s.home (s.ownerKey a) 8)
      if !pteV e then .miss false
      else if malformed s.chip level e then .miss true
      else match pteKind e with
        | 0 => walkGo s va n (level + 1) (ptePa e)
        | 1 => .ok e 12
        | 2 => if groupOk s table idx e then .ok e 16 else .miss true
        | _ => .ok e 21

/-- The translation that a pavilion's cache holds (R313). -/
def State.cached (s : State) (pav task va : Nat) : Option (Word × Nat) :=
  (s.tlb.find? fun e => e.pav == pav && e.task == task && va / 2 ^ e.shift == e.vpage).map fun e => (e.leaf, e.shift)

/-- A page of a task whose side-log entries stand to be replayed: no party reads it before they are (R323). -/
def State.pageLogged (s : State) (task va : Nat) : Bool := s.sideLog.any fun e => e.task == task && e.line.va.toNat / 4096 == va / 4096

/-- The translation of a flat address for a party of a pavilion: the cached entry, or a walk (R313), which finds nothing while the
page's side-log entries wait; their replay alone walks past that (R314, R323). -/
def State.walk (s : State) (pav task va : Nat) (replay : Bool := false) : Walk :=
  match s.cached pav task va with
  | some (e, sh) => .ok e sh
  | none => match walkGo s va 4 1 (s.task task).desc.root with
    | .ok e sh => if !replay && s.pageLogged task va then .miss false else .ok e sh
    | w => w

/-- A valid entry is cached; a miss is not (R313). -/
def State.cache (s : State) (pav task va : Nat) : State :=
  match s.cached pav task va with
  | some _ => s
  | none => match s.walk pav task va with
    | .ok e sh => { s with tlb := s.tlb ++ [⟨pav, task, va / 2 ^ sh, sh, e⟩] }
    | _ => s

/-- A flat address through the task's table: the physical address, a miss, or the fault (R167, R306, R311). -/
def State.flat (s : State) (pav task va : Nat) (need : Need) (replay : Bool := false) : Xl :=
  match s.walk pav task va replay with
  | .ok e sh =>
    if leafAllows e need then .ok (ptePa e + va % 2 ^ sh) else .fault .protect
  | .miss b => .miss b
  | .uncorr => .fault .uncorr

/-! ### Bank windows (R164) -/

/-- A bank window address, decoded: physical pavilion, FE and offset; none when it is refused with F_PROTECT. -/
def State.bankWindow (s : State) (task pav : Nat) (a : Word) : Option (Nat × Nat × Nat) :=
  if bits a 63 56 = 0xFF ∧ bits a 51 24 = 0 then
    match bits a 55 52 with
    | 0 => if bits a 23 20 = 0 then some (pav, bits a 19 16, bits a 15 0) else none
    | 1 => some ((s.task task).mate pav (bits a 23 20), bits a 19 16, bits a 15 0)
    | _ => none
  else none

def isWindow (a : Word) : Bool := bits a 63 56 == 0xFF
def isFlat (a : Word) : Bool := bits a 63 57 == 0

/-- A KIND 1 address that names the strand's own pavilion acts as the KIND 0 address of the same byte (R164). -/
def State.asOwn (s : State) (task pav : Nat) (a : Word) : Word :=
  match s.bankWindow task pav a with
  | some (p, fe, off) => if p = pav then 0xFF00000000000000#64 + BitVec.ofNat 64 (fe * 65536 + off) else a
  | none => a

/-- Bytes of a bank that the task has given a purpose (R366): the scratch bytes, a buffer that a descriptor of one of its
strands is attached to, a ring that one of its strands defined, or the segment of a store of one of its domains. -/
def State.purposed (s : State) (task pav fe off n : Nat) : Bool :=
  off + n ≤ 64 * (s.task task).desc.scratch
  || (s.strands.any fun t => t.task == task && t.bufs.any fun b =>
        match s.buffers.find b.2 with
        | some r => r.pav == pav && r.fe == fe && r.base ≤ off && off + n ≤ r.base + r.size * r.count
        | none => false)
  || (s.rings.any fun r => r.owner == task && r.pav == pav && r.fe == fe && r.base ≤ off && off + n ≤ r.base + 2 ^ r.log2)
  || (s.stores.any fun r => r.owner.isNone && r.task == task && r.chip == s.chip && r.pav == pav && r.fe == fe && r.base ≤ off && off + n ≤ r.base + r.cap * r.geom.e)

/-- An address of a strand's load, store, atomic or reduction: its key, a miss, or the fault (R164, R309, R366). -/
def State.access (s : State) (t : Strand) (a : Word) (n : Nat) (need : Need) : Xl :=
  if isWindow a then
    match s.bankWindow t.task t.pav a with
    | none => .fault .protect
    | some (p, fe, off) => if s.purposed t.task p fe off n then .ok (bankKey p fe + off) else .fault .resource
  else if isFlat a then s.flat t.pav t.task a.toNat need
  else .fault .protect

/-- The check of an address at fire, before translation (R164, R366). -/
def State.fireCheck (s : State) (t : Strand) (a : Word) (n : Nat) : Option FaultCode :=
  if isWindow a then
    match s.bankWindow t.task t.pav a with
    | none => some .protect
    | some (p, fe, off) => if s.purposed t.task p fe off n then none else some .resource
  else if isFlat a then none
  else some .protect

/-- A store's translation at fire: only an entry that the cache then holds is consulted (R168). -/
def State.storeCheck (s : State) (t : Strand) (a : Word) (n : Nat) : Option FaultCode :=
  match s.fireCheck t a n with
  | some c => some c
  | none =>
    if isWindow a then none
    else match s.cached t.pav t.task a.toNat with
      | some (e, _) => if bit e 59 then none else some .protect
      | none => none

end Sys2Proof.Machine
end

