-- ==== Sys2Proof/Machine/Operands.lean ====
section
/-! DEFINITION. Operand forms: which operands an instruction takes, when its slot may fire, what nulls, cancelling tokens
and predicates do (R15, R16, R134, R235), how results reach their targets (R119), and what an instruction of a block
does when it raises a fault, before and after the block's boundary instruction (R40, R139). -/

namespace Sys2Proof.Machine

/-- The operands an instruction takes: none, left, left and right, left right and third, or MERGE's two inputs. -/
inductive Uses where
  | none | left | both | three | merge
deriving DecidableEq, Repr

/-- Classes of instruction words (R128, R129, R134). -/
inductive Cls where
  | load | store | write | branch | boundary | deferred | plain
deriving DecidableEq, Repr

end Sys2Proof.Machine

namespace Sys2Proof

open Machine (Uses Cls)

/-- The operands that an instruction takes (R123, R141 to R163, R165 to R199, R201, R241, R267). -/
def Instr.uses : Instr → Uses
  | .read .. | .readp .. | .nul .. | .stop .. | .yield .. | .genc .. | .bro .. | .tagget .. | .rgn ..
  | .rcnt .. | .gbarx .. | .trap .. | .mfsr .. | .perf .. | .idle .. => .none
  | .write .. | .mov .. | .appc .. | .self .. | .bri .. | .clz .. | .ctz .. | .popc .. | .addi ..
  | .andi .. | .ori .. | .xori .. | .shli .. | .shri .. | .sari .. | .teqi .. | .tlti .. | .fsqrt ..
  | .fclass .. | .frfree .. | .tagset .. | .dqpop .. | .dqsteal .. | .gbar .. | .mring .. | .mwait ..
  | .mtsr .. | .ldb .. | .ldh .. | .ldw .. | .ldd .. | .ldsb .. | .ldsh .. | .ldsw .. | .pref ..
  | .wsref .. | .bufinfo .. | .vabs .. | .vneg .. | .vexp2 .. | .vrcp .. | .vrsq .. | .vredsum ..
  | .vredmax .. | .vredmin .. | .vscan .. | .tld .. | .tzero .. | .gseed .. => .left
  | .writep .. | .call .. | .calli .. | .ret .. | .add .. | .sub .. | .mul .. | .mulh .. | .mulhu ..
  | .div .. | .divu .. | .rem .. | .remu .. | .and .. | .or .. | .xor .. | .andn .. | .shl .. | .shr ..
  | .sar .. | .rotl .. | .min .. | .max .. | .minu .. | .maxu .. | .sext .. | .zext .. | .bfx ..
  | .bfi .. | .teq .. | .tne .. | .tlt .. | .tle .. | .tltu .. | .tleu .. | .tbit .. | .fadd ..
  | .fsub .. | .fmul .. | .fdiv .. | .fmin .. | .fmax .. | .fceq .. | .fclt .. | .fcle .. | .fcvt ..
  | .lea .. | .fork .. | .forkn .. | .send .. | .fralloc .. | .dqpush .. | .msend .. | .resume ..
  | .tlbi .. | .stb .. | .sth .. | .stw .. | .std .. | .aadd .. | .aswp .. | .amin .. | .amax ..
  | .aminu .. | .amaxu .. | .aand .. | .aor .. | .axor .. | .amaxrs .. | .radd .. | .rmin .. | .rmax ..
  | .rand .. | .ror .. | .rxor .. | .rfadd .. | .cpy .. | .cpyt .. | .coll .. | .wsld .. | .bufdef ..
  | .waitf .. | .waite .. | .advp .. | .advc .. | .sload .. | .sstore .. | .vadd .. | .vsub .. | .vmul ..
  | .vmin .. | .vmax .. | .vcvt .. | .vsel .. | .vcmp .. | .vand .. | .vor .. | .vxor .. | .vshl ..
  | .vshr .. | .vperm .. | .vbcast .. | .visect .. | .tldt .. | .tst .. | .tcvt .. | .tdrain ..
  | .gdef .. | .kput .. | .kdel .. | .kappend .. | .kmerge .. | .mscan .. | .ksum ..
  | .matchb .. | .mdom .. | .topk .. | .itbl .. | .itperm .. | .igather .. | .walk .. => .both
  | .merge .. => .merge
  | .sel .. | .ffma .. | .acas .. | .tmma .. | .steer .. | .matchQ .. | .matchc .. | .vfma .. => .three
  | .strandPlace .. | .blockFetch .. | .blockCommit .. | .loadReturn .. | .regionEnd ..
  | .publishStep2 .. | .queuedPublishResume .. | .linePerformedAtHome .. | .heldStrandRecord ..
  | .sendArriveHome .. | .heldSendDeliver .. | .forkChildCreate .. | .tagsetRelease ..
  | .homeAtomicPerform .. | .homeReductionPerform .. | .barrierArrival .. | .groveReturn ..
  | .ringRecordArrive .. | .ringHoldExpire .. | .msendReturnArrive .. | .engineStart ..
  | .engineSlotResume .. | .engineComplete .. | .drainPlace .. | .collContributionArrive ..
  | .collResultArrive .. | .domainGrant .. | .storeQueryGrant .. | .matchMerge .. | .storeDecisions ..
  | .storeKputInsert .. | .storeKdel .. | .mdomAttach .. | .mdomDetach .. | .mdomServe ..
  | .mdomRebuild .. | .mdomClear .. | .collectionKappend .. | .collectionKmerge ..
  | .collectionScanGrant .. | .itpermPerform .. | .tlbiComplete .. | .xreplyMapped .. | .xreplyInvalid ..
  | .refreshWindowStart .. | .refreshWindowEnd .. | .weightStoreWrite .. | .idleTimeout ..
  | .residentIterationStart .. | .residentIterationEnd .. | .reconfigTokenPass .. | .fabricPageMove ..
  | .lqDoorbell .. | .taskLaunch .. | .taskEnd .. | .preemptChoice .. | .preemptSave .. | .taskResume ..
  | .mtsrFring .. | .mtsrMdt .. | .mtsrRoute .. | .mtsrFstat .. | .registerWrite .. | .heatSnapshot ..
  | .ownerCacheDrop .. | .migGo .. | .migSlotWake .. | .moveOpen .. | .tile .. | .precopyPassEnd ..
  | .finalDrained .. | .commit .. | .commitAck .. | .relay .. | .redirCompletion .. | .retire ..
  | .retireAck .. | .hold .. | .stubGone .. | .escapeDivert .. | .escapeHandoff .. | .flitCrcReplay ..
  | .corruptHeaderFence .. | .payloadUncorrectable .. | .portFail .. | .retrain .. | .portTrained ..
  | .powerGood .. | .safeImageArrive .. | .memoryTrainingDone .. | .terraceTestDone .. | .admitTerrace ..
  | .guardTick .. | .coolantFlowLost .. | .measExtend .. | .quoteRequest .. | .quoteServe .. | .hdb ..
  | .rootPortRequest .. | .patrolScrub .. | .softErrorDetected .. | .uncorrectablePoison ..
  | .lodgeDoorbell .. | .powerLost .. => .none

/-- The classes that the load check and the commit condition tell apart (R128, R129, R134). -/
def Instr.cls : Instr → Cls
  | .ldb .. | .ldh .. | .ldw .. | .ldd .. | .ldsb .. | .ldsh .. | .ldsw .. => .load
  | .stb .. | .sth .. | .stw .. | .std .. => .store
  | .write .. | .writep .. => .write
  | .stop .. | .bro .. | .bri .. | .call .. | .calli .. | .ret .. => .branch
  | .gbar .. | .aadd .. | .aswp .. | .acas .. | .amin .. | .amax .. | .aminu .. | .amaxu .. | .aand ..
  | .aor .. | .axor .. | .amaxrs .. | .matchc .. | .itperm .. => .boundary
  | .fork .. | .forkn .. | .send .. | .fralloc .. | .frfree .. | .tagset .. | .dqpush .. | .gbarx ..
  | .mring .. | .msend .. | .mwait .. | .mtsr .. | .resume .. | .tlbi .. | .radd .. | .rmin .. | .rmax ..
  | .rand .. | .ror .. | .rxor .. | .rfadd .. | .cpy .. | .cpyt .. | .coll .. | .wsld .. | .bufdef ..
  | .advp .. | .advc .. | .sload .. | .sstore .. | .tdrain .. | .gdef .. | .kput .. | .kdel ..
  | .kappend .. | .kmerge .. | .mscan .. | .ksum .. | .mdom .. | .itbl .. | .igather .. | .walk .. => .deferred
  | .read .. | .readp .. | .mov .. | .nul .. | .yield .. | .self .. | .genc .. | .appc .. | .add ..
  | .sub .. | .mul .. | .mulh .. | .mulhu .. | .div .. | .divu .. | .rem .. | .remu .. | .and .. | .or ..
  | .xor .. | .andn .. | .shl .. | .shr .. | .sar .. | .rotl .. | .clz .. | .ctz .. | .popc .. | .min ..
  | .max .. | .minu .. | .maxu .. | .sext .. | .zext .. | .bfx .. | .bfi .. | .addi .. | .andi ..
  | .ori .. | .xori .. | .shli .. | .shri .. | .sari .. | .teqi .. | .tlti .. | .teq .. | .tne ..
  | .tlt .. | .tle .. | .tltu .. | .tleu .. | .tbit .. | .fadd .. | .fsub .. | .fmul .. | .fdiv ..
  | .fsqrt .. | .fmin .. | .fmax .. | .fceq .. | .fclt .. | .fcle .. | .fcvt .. | .fclass .. | .sel ..
  | .ffma .. | .lea .. | .tagget .. | .dqpop .. | .dqsteal .. | .rgn .. | .rcnt .. | .trap .. | .mfsr ..
  | .perf .. | .idle .. | .pref .. | .wsref .. | .bufinfo .. | .waitf .. | .waite .. | .vadd ..
  | .vsub .. | .vmul .. | .vfma .. | .vmin .. | .vmax .. | .vabs .. | .vneg .. | .vexp2 .. | .vrcp ..
  | .vrsq .. | .vcvt .. | .vsel .. | .vcmp .. | .vand .. | .vor .. | .vxor .. | .vshl .. | .vshr ..
  | .vredsum .. | .vredmax .. | .vredmin .. | .vscan .. | .vperm .. | .vbcast .. | .visect .. | .tld ..
  | .tldt .. | .tst .. | .tzero .. | .tmma .. | .tcvt .. | .steer .. | .merge .. | .gseed .. | .matchQ ..
  | .matchb .. | .topk .. => .plain
  | .strandPlace .. | .blockFetch .. | .blockCommit .. | .loadReturn .. | .regionEnd ..
  | .publishStep2 .. | .queuedPublishResume .. | .linePerformedAtHome .. | .heldStrandRecord ..
  | .sendArriveHome .. | .heldSendDeliver .. | .forkChildCreate .. | .tagsetRelease ..
  | .homeAtomicPerform .. | .homeReductionPerform .. | .barrierArrival .. | .groveReturn ..
  | .ringRecordArrive .. | .ringHoldExpire .. | .msendReturnArrive .. | .engineStart ..
  | .engineSlotResume .. | .engineComplete .. | .drainPlace .. | .collContributionArrive ..
  | .collResultArrive .. | .domainGrant .. | .storeQueryGrant .. | .matchMerge .. | .storeDecisions ..
  | .storeKputInsert .. | .storeKdel .. | .mdomAttach .. | .mdomDetach .. | .mdomServe ..
  | .mdomRebuild .. | .mdomClear .. | .collectionKappend .. | .collectionKmerge ..
  | .collectionScanGrant .. | .itpermPerform .. | .tlbiComplete .. | .xreplyMapped .. | .xreplyInvalid ..
  | .refreshWindowStart .. | .refreshWindowEnd .. | .weightStoreWrite .. | .idleTimeout ..
  | .residentIterationStart .. | .residentIterationEnd .. | .reconfigTokenPass .. | .fabricPageMove ..
  | .lqDoorbell .. | .taskLaunch .. | .taskEnd .. | .preemptChoice .. | .preemptSave .. | .taskResume ..
  | .mtsrFring .. | .mtsrMdt .. | .mtsrRoute .. | .mtsrFstat .. | .registerWrite .. | .heatSnapshot ..
  | .ownerCacheDrop .. | .migGo .. | .migSlotWake .. | .moveOpen .. | .tile .. | .precopyPassEnd ..
  | .finalDrained .. | .commit .. | .commitAck .. | .relay .. | .redirCompletion .. | .retire ..
  | .retireAck .. | .hold .. | .stubGone .. | .escapeDivert .. | .escapeHandoff .. | .flitCrcReplay ..
  | .corruptHeaderFence .. | .payloadUncorrectable .. | .portFail .. | .retrain .. | .portTrained ..
  | .powerGood .. | .safeImageArrive .. | .memoryTrainingDone .. | .terraceTestDone .. | .admitTerrace ..
  | .guardTick .. | .coolantFlowLost .. | .measExtend .. | .quoteRequest .. | .quoteServe .. | .hdb ..
  | .rootPortRequest .. | .patrolScrub .. | .softErrorDetected .. | .uncorrectablePoison ..
  | .lodgeDoorbell .. | .powerLost .. => .plain

/-- PR of an instruction; an instruction without one is not predicated (R117, R118). -/
def Instr.pr : Instr → Pred
  | .mov p .. | .stop p .. | .yield p .. | .self p .. | .appc p .. | .bro p .. | .bri p .. | .call p ..
  | .calli p .. | .ret p .. | .add p .. | .sub p .. | .mul p .. | .mulh p .. | .mulhu p .. | .div p ..
  | .divu p .. | .rem p .. | .remu p .. | .and p .. | .or p .. | .xor p .. | .andn p .. | .shl p ..
  | .shr p .. | .sar p .. | .rotl p .. | .clz p .. | .ctz p .. | .popc p .. | .min p .. | .max p ..
  | .minu p .. | .maxu p .. | .sext p .. | .zext p .. | .bfx p .. | .bfi p .. | .addi p .. | .andi p ..
  | .ori p .. | .xori p .. | .shli p .. | .shri p .. | .sari p .. | .teqi p .. | .tlti p .. | .teq p ..
  | .tne p .. | .tlt p .. | .tle p .. | .tltu p .. | .tleu p .. | .tbit p .. | .fadd p .. | .fsub p ..
  | .fmul p .. | .fdiv p .. | .fsqrt p .. | .fmin p .. | .fmax p .. | .fceq p .. | .fclt p ..
  | .fcle p .. | .fcvt p .. | .fclass p .. | .lea p .. | .fork p .. | .forkn p .. | .send p ..
  | .fralloc p .. | .frfree p .. | .tagget p .. | .tagset p .. | .dqpush p .. | .dqpop p ..
  | .dqsteal p .. | .gbar p .. | .gbarx p .. | .mring p .. | .msend p .. | .mwait p .. | .trap p ..
  | .mfsr p .. | .mtsr p .. | .resume p .. | .tlbi p .. | .perf p .. | .idle p .. | .ldb p .. | .ldh p ..
  | .ldw p .. | .ldd p .. | .ldsb p .. | .ldsh p .. | .ldsw p .. | .pref p .. | .stb p .. | .sth p ..
  | .stw p .. | .std p .. | .aadd p .. | .aswp p .. | .amin p .. | .amax p .. | .aminu p .. | .amaxu p ..
  | .aand p .. | .aor p .. | .axor p .. | .amaxrs p .. | .radd p .. | .rmin p .. | .rmax p ..
  | .rand p .. | .ror p .. | .rxor p .. | .rfadd p .. | .cpy p .. | .cpyt p .. | .coll p .. | .wsld p ..
  | .wsref p .. | .bufdef p .. | .bufinfo p .. | .waitf p .. | .waite p .. | .advp p .. | .advc p ..
  | .sload p .. | .sstore p .. | .vadd p .. | .vsub p .. | .vmul p .. | .vmin p .. | .vmax p ..
  | .vabs p .. | .vneg p .. | .vexp2 p .. | .vrcp p .. | .vrsq p .. | .vcvt p .. | .vsel p ..
  | .vcmp p .. | .vand p .. | .vor p .. | .vxor p .. | .vshl p .. | .vshr p .. | .vredsum p ..
  | .vredmax p .. | .vredmin p .. | .vscan p .. | .vperm p .. | .vbcast p .. | .visect p .. | .tld p ..
  | .tldt p .. | .tst p .. | .tzero p .. | .tcvt p .. | .tdrain p .. | .merge p .. | .gdef p ..
  | .gseed p .. | .kput p .. | .kdel p .. | .kappend p .. | .kmerge p .. | .mscan p .. | .ksum p ..
  | .matchb p .. | .mdom p .. | .topk p .. | .itbl p .. | .itperm p .. | .igather p .. | .walk p .. => p
  | .read .. | .write .. | .readp .. | .writep .. | .nul .. | .genc .. | .sel .. | .ffma .. | .rgn ..
  | .rcnt .. | .acas .. | .vfma .. | .tmma .. | .steer .. | .matchQ .. | .matchc .. | .strandPlace ..
  | .blockFetch .. | .blockCommit .. | .loadReturn .. | .regionEnd .. | .publishStep2 ..
  | .queuedPublishResume .. | .linePerformedAtHome .. | .heldStrandRecord .. | .sendArriveHome ..
  | .heldSendDeliver .. | .forkChildCreate .. | .tagsetRelease .. | .homeAtomicPerform ..
  | .homeReductionPerform .. | .barrierArrival .. | .groveReturn .. | .ringRecordArrive ..
  | .ringHoldExpire .. | .msendReturnArrive .. | .engineStart .. | .engineSlotResume ..
  | .engineComplete .. | .drainPlace .. | .collContributionArrive .. | .collResultArrive ..
  | .domainGrant .. | .storeQueryGrant .. | .matchMerge .. | .storeDecisions .. | .storeKputInsert ..
  | .storeKdel .. | .mdomAttach .. | .mdomDetach .. | .mdomServe .. | .mdomRebuild .. | .mdomClear ..
  | .collectionKappend .. | .collectionKmerge .. | .collectionScanGrant .. | .itpermPerform ..
  | .tlbiComplete .. | .xreplyMapped .. | .xreplyInvalid .. | .refreshWindowStart ..
  | .refreshWindowEnd .. | .weightStoreWrite .. | .idleTimeout .. | .residentIterationStart ..
  | .residentIterationEnd .. | .reconfigTokenPass .. | .fabricPageMove .. | .lqDoorbell ..
  | .taskLaunch .. | .taskEnd .. | .preemptChoice .. | .preemptSave .. | .taskResume .. | .mtsrFring ..
  | .mtsrMdt .. | .mtsrRoute .. | .mtsrFstat .. | .registerWrite .. | .heatSnapshot ..
  | .ownerCacheDrop .. | .migGo .. | .migSlotWake .. | .moveOpen .. | .tile .. | .precopyPassEnd ..
  | .finalDrained .. | .commit .. | .commitAck .. | .relay .. | .redirCompletion .. | .retire ..
  | .retireAck .. | .hold .. | .stubGone .. | .escapeDivert .. | .escapeHandoff .. | .flitCrcReplay ..
  | .corruptHeaderFence .. | .payloadUncorrectable .. | .portFail .. | .retrain .. | .portTrained ..
  | .powerGood .. | .safeImageArrive .. | .memoryTrainingDone .. | .terraceTestDone .. | .admitTerrace ..
  | .guardTick .. | .coolantFlowLost .. | .measExtend .. | .quoteRequest .. | .quoteServe .. | .hdb ..
  | .rootPortRequest .. | .patrolScrub .. | .softErrorDetected .. | .uncorrectablePoison ..
  | .lodgeDoorbell .. | .powerLost .. => .always

/-- A token is a null. -/
def Token.isNull : Token → Bool
  | .null => true
  | _ => false

/-- A token's value. -/
def Token.val : Token → Word
  | .value v => v
  | _ => 0

/-- The consumer slot of a target. -/
def Target.slot : Target → Nat
  | .none => 0
  | .left s => s.toNat
  | .right s => s.toNat
  | .pred s => s.toNat

end Sys2Proof

namespace Sys2Proof.Machine

/-- Stores, writes and deferred instructions resolve on a null on either operand, without waiting for the other (R134). -/
def Cls.early : Cls → Bool
  | .store | .deferred => true
  | _ => false

/-- What a slot does with the tokens it holds. -/
inductive Gate where
  | notReady
  | cancel
  | suppress
  | null
  | go (l r t : Word)
deriving DecidableEq, Repr

/-- The operands that the form uses, in the order left, right, third. -/
def usedOperands (u : Uses) (o : Slot) : List (Option Token) :=
  match u with
  | .none => []
  | .left => [o.l]
  | .both => [o.l, o.r]
  | .three => [o.l, o.r, o.p]
  | .merge => [o.l, o.r]

/-- The value of an operand, 0 when it is absent. -/
def opVal (o : Option Token) : Word := match o with
  | some t => t.val
  | none => 0

/-- A cancelling token stands on some operand (R235). -/
def Slot.cancelled (o : Slot) : Bool := o.l == some .cancel || o.r == some .cancel || o.p == some .cancel

/-- The operands' part of the gate: all of them present, and none of them a null (R15, R16). -/
def operandGate (u : Uses) (early : Bool) (o : Slot) : Gate :=
  let ops := usedOperands u o
  let null := ops.any fun t => t == some .null
  if early && null then .null
  else if ops.any Option.isNone then .notReady
  else if null then .null
  else .go (opVal o.l) (opVal o.r) (opVal o.p)

/-- MERGE (R236): a value on either input; a cancel on both. -/
def mergeGate (o : Slot) : Gate :=
  match o.l, o.r with
  | some .cancel, some .cancel => .cancel
  | some (.value v), _ => .go v 0 0
  | _, some (.value v) => .go v 0 0
  | some .null, _ => .null
  | _, some .null => .null
  | _, _ => .notReady

/-- When a slot may fire, and how (R15, R16, R235; log 7). -/
def gate (p : Pred) (u : Uses) (early : Bool) (o : Slot) : Gate :=
  if o.status = .sent || o.status = .done then .notReady
  else if u = .merge then
    match p with
    | .always => mergeGate o
    | _ => match o.p with
      | none => .notReady
      | some .cancel => .cancel
      | some .null => .null
      | some (.value v) => if bit v 0 == (p == .onTrue) then mergeGate o else .suppress
  else if o.cancelled then .cancel
  else match p with
    | .always => operandGate u early o
    | _ => match o.p with
      | none => .notReady
      | some (.value v) => if bit v 0 == (p == .onTrue) then operandGate u early o else .suppress
      | some _ => if early || (usedOperands u o).all Option.isSome then .null else .notReady

/-- What an instruction that fires does. -/
inductive Eff where
  | ok (s : State) (a b : Option Token)     -- done; the tokens for TA and TB
  | wait                                    -- not yet: tried again
  | sent (s : State)                        -- performed elsewhere; the answer comes by an event
  | fault (f : FaultInfo)
  | park (va : Word) (badpte : Bool)        -- F_XLATE_LOAD on the page of va
  | parkEngine (e : Nat) (addr : Word) (badpte : Bool)   -- a READ that waits for a held engine operation (R192)
  | divert (left : Bool) (tok : Word)       -- a tile token that goes to the conversion slot instead (R237)

/-- Where an instruction fires: its strand and slot, the strand and its block as they stand, and the slot's operands. -/
structure Ctx where
  k : Nat
  j : Nat
  t : Strand
  b : BlockRun
  o : Slot

/-- The context of a slot. -/
def State.ctxAt (s : State) (k j : Nat) : Option Ctx :=
  match s.strand k with
  | none => none
  | some t => match t.block with
    | none => none
    | some b => match b.slots[j]? with
      | none => none
      | some o => some ⟨k, j, t, b, o⟩

/-- The context of the slot that issues. -/
def State.ctx (s : State) : Option Ctx := s.ctxAt s.cur.strand s.cur.slot

/-- The state with strand k's block changed. -/
def State.modBlock (s : State) (k : Nat) (f : BlockRun → BlockRun) : State :=
  s.modStrand k fun t => match t.block with
    | some b => { t with block := some (f b) }
    | none => t

def BlockRun.setStatus (b : BlockRun) (j : Nat) (st : SlotStatus) : BlockRun :=
  { b with slots := b.slots.set j { (b.slots[j]?).getD {} with status := st } }

def State.setStatus (s : State) (k j : Nat) (st : SlotStatus) : State := s.modBlock k fun b => b.setStatus j st

/-- A slot's instruction has fired, and its answer comes by an event. -/
def State.setSent (s : State) (k j : Nat) : State :=
  s.modBlock k fun b => { b with slots := b.slots.set j { (b.slots[j]?).getD {} with status := .sent, fired := true } }

/-- An instruction of the block has fired and waits: for its effect, or for its answer. -/
def BlockRun.awaits (b : BlockRun) : Bool := b.slots.any fun o => o.status == .waiting || o.status == .sent

/-- A strand whose block engine has fired an instruction runs, and is BLOCKED while its block needs something that is still to come
(R10). -/
def Strand.settled (t : Strand) : Strand := { t with state := if t.block.any BlockRun.awaits then .blocked else .running }

def State.settle (s : State) (k : Nat) : State := s.modStrand k Strand.settled

/-- The word is a MERGE (R236). -/
def isMergeWord (w : Word32) : Bool := w.toNat / 2 ^ 26 == 0x36 && w.toNat / 2 ^ 18 % 64 == 1

/-- The word is a MERGE that its predicate does not suppress, and a value stands on its other input already: a second value
for one tag (R236). -/
def mergeDup (w : Word32) (o : Slot) (other : Option Token) (tok : Token) : Bool :=
  let val (t : Option Token) : Bool := match t with
    | some (.value _) => true
    | _ => false
  let wrong : Bool := match w.toNat / 2 ^ 24 % 4, o.p with
    | 1, some (.value v) => !bit v 0
    | 2, some (.value v) => bit v 0
    | _, _ => false
  isMergeWord w && val (some tok) && val other && !wrong

/-- A cancelling token keeps the slot's instruction from firing: any, and for a MERGE one on its predicate or one on each input (R235,
R236). -/
def Slot.offBy (o : Slot) (w : Word32) : Bool :=
  if isMergeWord w then o.p == some .cancel || (o.l == some .cancel && o.r == some .cancel) else o.cancelled

/-- A token put on an operand of a consumer; none when a token stands there already, or when both inputs of a MERGE have
delivered values (R18, R236). A consumer that was cancelled drops it (R235). -/
def BlockRun.put (b : BlockRun) (tg : Target) (tok : Token) : Option BlockRun :=
  match tg with
  | .none => some b
  | .left c =>
    let o := (b.slots[c.toNat]?).getD {}
    let w := (b.words[c.toNat]?).getD 0
    if mergeDup w o o.r tok then none
    else if o.l.isNone then some { b with slots := b.slots.set c.toNat { o with l := some tok } }
    else if o.offBy w then some b else none
  | .right c =>
    let o := (b.slots[c.toNat]?).getD {}
    let w := (b.words[c.toNat]?).getD 0
    if mergeDup w o o.l tok then none
    else if o.r.isNone then some { b with slots := b.slots.set c.toNat { o with r := some tok } }
    else if o.offBy w then some b else none
  | .pred c =>
    let o := (b.slots[c.toNat]?).getD {}
    if o.p.isNone then some { b with slots := b.slots.set c.toNat { o with p := some tok } }
    else if o.offBy ((b.words[c.toNat]?).getD 0) then some b else none

/-- A fault recorded against a boundary block: the one of the lowest slot is kept (R40). -/
def BlockRun.note (b : BlockRun) (f : RaisedFault) : BlockRun :=
  match b.bfault with
  | none => { b with bfault := some f }
  | some g => if f.slot < g.slot then { b with bfault := some f } else b

/-- A fault of a block: before its boundary instruction is performed it is taken; afterwards it is recorded (R40, R139). -/
def State.blockFault (s : State) (k : Nat) (f : RaisedFault) : State :=
  match s.strand k with
  | none => s
  | some t => match t.block with
    | none => s.takeFault k f
    | some b => if b.performed then s.modBlock k fun b => b.note f else s.takeFault k f

/-- A token sent to a target of strand k's block; a second token on an operand raises F_ILLEGAL, DUP_OPERAND (R18). -/
def State.deliver (s : State) (k : Nat) (tg : Target) (tok : Option Token) : State :=
  match tok with
  | none => s
  | some tok =>
    match s.strand k with
    | none => s
    | some t => match t.block with
      | none => s
      | some b => match b.put tg tok with
        | some b' => s.setStrand k { t with block := some b' }
        | none => s.blockFault k ⟨{ code := .illegal, sub := 1 }, b.addr, tg.slot⟩

/-- A result sent to both targets. -/
def State.deliver2 (s : State) (k : Nat) (a b : Target) (x y : Option Token) : State :=
  (s.deliver k a x).deliver k b y

/-- What an instruction does when it completes without its effect (suppressed, cancelled or null): a store or a write is
resolved all the same (R134). -/
abbrev Resolve := Ctx → State → State

/-- Nothing to resolve. -/
def noResolve : Resolve := fun _ s => s

/-- The targets of a word that parse. -/
def wordTargets (w : Word32) : List Target := (targetBits w).filterMap fun b => match Target.parse b with
  | some .none => none
  | t => t

/-- The left operand of a resident block's conversion slot (R130). -/
def BlockRun.convSlot (b : BlockRun) : Target := .left (BitVec.ofNat 6 (b.ext.toNat / 2 ^ 25))

/-- Slots that have fired and that lie on a token's further way fire again for it: the operand on which it arrives is free, the others
stand. The fuel bounds the targets visited: 64 slots with two each. -/
def BlockRun.rearm : Nat → List Target → BlockRun → BlockRun
  | n + 1, tg :: rest, b =>
    let o := (b.slots[tg.slot]?).getD {}
    if o.status == .done then
      let o : Slot := { o with status := .idle, fired := false }
      let o : Slot := match tg with
        | .left _ => { o with l := none }
        | .right _ => { o with r := none }
        | .pred _ => { o with p := none }
        | .none => o
      BlockRun.rearm n (wordTargets ((b.words[tg.slot]?).getD 0) ++ rest) { b with slots := b.slots.set tg.slot o }
    else BlockRun.rearm n rest b
  | _, _, b => b

/-- The block once a tile token of slot j has left it for the conversion slot (R237): that operand is empty and takes one more token. On a
second mismatch the conversion slot has fired already: it fires again, and with it what its result meets (log 99). -/
def BlockRun.divert (b : BlockRun) (j : Nat) (o : Slot) (left : Bool) : BlockRun :=
  let o : Slot := if left then { o with l := none, status := .idle, diverted := true } else { o with r := none, status := .idle, diverted := true }
  { b with slots := b.slots.set j o }.rearm 192 [b.convSlot]

/-- The effect of an instruction that fires, applied. PERF 4 counts it once, whether its answer comes at once or by an event (R272). In
a block whose boundary instruction has been performed a miss counts as a fault at fire (R40; log 61). -/
def applyEff (c : Ctx) (a b : Target) (res : Resolve) (e : Eff) (s : State) : State :=
  let late (f : FaultInfo) : State :=
    (((res c (s.setStatus c.k c.j .done)).modBlock c.k fun b => b.note ⟨f, c.b.addr, c.j⟩).settle c.k).deliver2 c.k a b
      (some .null) (some .null)
  let count (s : State) : State := s.addPerf c.t.pav 4 (if c.o.fired then 0 else 1)
  match e with
  | .ok s' x y => (count ((s'.setStatus c.k c.j .done).settle c.k)).deliver2 c.k a b x y
  | .wait => (s.setStatus c.k c.j .waiting).settle c.k
  | .sent s' => count ((s'.setSent c.k c.j).settle c.k)
  | .fault f => if c.b.performed then late f else s.takeFault c.k ⟨f, c.b.addr, c.j⟩
  | .park va bad =>
    if c.b.performed then late { code := .xlateLoad, sub := if bad then 10 else 0, addr := va }
    else s.parkPage c.k va bad c.b.addr c.j
  | .parkEngine e addr bad =>
    if c.b.performed then (s.setStatus c.k c.j .waiting).settle c.k
    else s.parkEngine c.k e addr bad c.b.addr c.j
  | .divert left tok =>
    (s.modBlock c.k fun b => b.divert c.j c.o left).deliver c.k c.b.convSlot (some (.value tok))

/-- The answer to an instruction that was sent elsewhere: an event that must wait there is held, in its order of arrival, and its slot
stays as it is. -/
def answerEff (c : Ctx) (a b : Target) (ev : Instr) (e : Eff) (s : State) : State :=
  match e with
  | .wait => s.hold ev
  | _ => applyEff c a b noResolve e s

/-- An instruction at the slot that issues, from the gate to its effect; a slot that may not fire stays as it is. -/
def fire (p : Pred) (u : Uses) (early : Bool) (a b : Target) (res : Resolve)
    (f : Ctx → State → Word → Word → Word → Eff) (s : State) : State :=
  match s.ctx with
  | none => s
  | some c =>
    match gate p u early c.o with
    | .notReady => s
    | .suppress => res c (s.setStatus c.k c.j .done)
    | .cancel => (res c (s.setStatus c.k c.j .done)).deliver2 c.k a b (some .cancel) (some .cancel)
    | .null => (res c (s.setStatus c.k c.j .done)).deliver2 c.k a b (some .null) (some .null)
    | .go l r t => applyEff c a b res (if c.o.bad then .fault { code := .uncorr } else f c s l r t) s

/-- The outcome of an instruction: these meanings always answer a next state. -/
abbrev Out := Host.Outcome State Fault Refusal

/-- What an event leads to at a unit that operates: in SAFE, and without supply, only the guard and the management link do (R410). -/
def State.powered (s : State) (r : State) : Out := .next (if s.dark then s else r)

/-- One value to both targets. -/
def Eff.val (s : State) (v : Word) : Eff := .ok s (some (.value v)) (some (.value v))

/-- A boolean as a token's value (R138). -/
def boolWord (b : Bool) : Word := if b then 1 else 0

/-- An instruction that computes one value from its operands and changes nothing else. -/
def fireVal (p : Pred) (u : Uses) (a b : Target) (f : Word → Word → Word → Word) (s : State) : Out :=
  .next (fire p u false a b noResolve (fun _ s l r t => .val s (f l r t)) s)

/-- The form of one operand. -/
def value1 (p : Pred) (a b : Target) (f : Word → Word) (s : State) : Out := fireVal p .left a b (fun l _ _ => f l) s

/-- The form of two operands. -/
def value2 (p : Pred) (a b : Target) (f : Word → Word → Word) (s : State) : Out :=
  fireVal p .both a b (fun l r _ => f l r) s

/-- The ternary form. -/
def value3 (a b : Target) (f : Word → Word → Word → Word) (s : State) : Out := fireVal .always .three a b f s

/-- An instruction that answers through its context. -/
def fireEff (p : Pred) (u : Uses) (a b : Target) (f : Ctx → State → Word → Word → Word → Eff) (s : State) : Out :=
  .next (fire p u false a b noResolve f s)

/-- The strand's region, running or publishing, holds lines of the store pool (R33); those of its queued publishes belong to no region
that can be discarded. -/
def Strand.poolHolder (t : Strand) : Bool :=
  t.kind == .ordinary && (!t.region.store.isEmpty || t.pub.any fun p => !p.lines.isEmpty)

/-- Lines of the store pool that a strand holds: its region's, and those that its publishes have still to perform (R33, R34). -/
def Strand.heldLines (t : Strand) : Nat :=
  t.region.store.length + (t.pub.toList ++ t.queue).foldl (fun n p => n + p.lines.length) 0

/-- Lines of the store pool that a pavilion's strands hold (R33). -/
def State.poolLines (s : State) (pav : Nat) : Nat :=
  (s.strands.filter fun t => t.pav == pav && t.kind == .ordinary && t.state != .waiting).foldl (fun n t => n + t.heldLines) 0

/-- Lines pinned in a pavilion's pin table (R302). -/
def State.pinCount (s : State) (pav : Nat) : Nat :=
  (s.strands.filter fun t => t.pav == pav && t.state != .waiting).foldl (fun n t => n + t.region.pins.length) 0

/-- An entry taken in the deferred list; the 33rd raises F_REGION_OVERFLOW (R33). `joins` tells whether an entry of the
region stands for this one too (ADVP, ADVC, MWAIT). -/
def takeEntry (c : Ctx) (s : State) (d : Deferred) (joins : Deferred → Bool) : Option State :=
  let d := { d with block := c.b.addr, slot := c.j }
  if c.t.region.deferred.any joins then
    some (s.modStrand c.k fun t =>
      { t with region := { t.region with deferred := t.region.deferred.map fun e =>
          (if joins e then { e with x := e.x + d.x } else e) } })
  else if c.t.region.deferred.length < 32 then
    some (s.modStrand c.k fun t => { t with region := { t.region with deferred := t.region.deferred ++ [d] } })
  else none

/-- A deferred instruction: its entry is taken and `v` is sent to its targets, if it has a result. -/
def deferEff (c : Ctx) (s : State) (d : Deferred) (v : Option Word := none)
    (joins : Deferred → Bool := fun _ => false) : Eff :=
  match takeEntry c s d joins with
  | some s' => .ok s' (v.map Token.value) (v.map Token.value)
  | none => .fault { code := .regionOverflow }

/-- A deferred instruction with its checks at fire. -/
def fireDef (p : Pred) (u : Uses) (a b : Target) (f : Ctx → State → Word → Word → Word → Eff) (s : State) : Out :=
  .next (fire p u true a b noResolve f s)

/-- The first of several checks that fails (R427). -/
def firstFault : List (Bool × FaultInfo) → Option FaultInfo
  | [] => none
  | (bad, f) :: t => if bad then some f else firstFault t

/-- An effect behind checks. -/
def checked (cs : List (Bool × FaultInfo)) (e : Eff) : Eff :=
  match firstFault cs with
  | some f => .fault f
  | none => e

end Sys2Proof.Machine
end

