-- ==== Sys2Proof/Machine/Control.lean ====
section
/-! DEFINITION. Dataflow control: register and constant transfer, branches and calls, STOP, YIELD, SELF, RGN, RCNT
(R141 to R148, R170, R171, R173). -/

namespace Sys2Proof.Machine

/-- A register of a strand. -/
def Strand.reg (t : Strand) (n : Nat) : Word := (t.regs[n]?).getD 0

/-- A register marked live-in, unless the region has written it (R35). -/
def Strand.markLive (t : Strand) (n : Nat) : Strand :=
  if t.written.getLsbD n then t else { t with liveIn := t.liveIn ||| BitVec.twoPow 128 n }

/-- The held engine operation whose completion a register awaits, with the address it misses (R192). -/
def State.heldFor (s : State) (k n : Nat) : Option (Nat × Word × Bool) :=
  s.engines.findSome? fun (e : Nat × Engine) =>
    if e.2.strand == k && e.2.cv && e.2.creg == n then
      match e.2.state with
      | .held a bad => some (e.1, a, bad)
      | _ => none
    else none

/-- What a READ of registers meets before it delivers: a pending completion, which parks the strand where a held operation is to give
it (R22, R192), F_UNCORR (R425), F_ENGINE (R189). -/
def readEff (c : Ctx) (s : State) (ns : List Nat) (e : Eff) : Eff :=
  let pending := ns.filter fun n => c.t.pending.getLsbD n
  match pending.findSome? (s.heldFor c.k) with
  | some (e, addr, bad) => .parkEngine e addr bad
  | none =>
    if !pending.isEmpty then .wait
    else match ns.find? fun n => c.t.poison.getLsbD n with
    | some _ => .fault { code := .uncorr }
    | none => match ns.find? fun n => c.t.trapErr.getLsbD n with
      | some n => .fault { code := .engine, detail := c.t.reg n }
      | none => e

/-- READ (R141). -/
def execRead (r : BitVec 7) (a b : Target) (s : State) : Out :=
  fireEff .always .none a b (fun c s _ _ _ =>
    readEff c s [r.toNat] (.val (s.modStrand c.k fun t => t.markLive r.toNat) (c.t.reg r.toNat))) s

/-- READP (R141): gN to TA, g(N+1) to TB. -/
def execReadp (r : BitVec 7) (a b : Target) (s : State) : Out :=
  fireEff .always .none a b (fun c s _ _ _ =>
    readEff c s [r.toNat, r.toNat + 1]
      (.ok (s.modStrand c.k fun t => (t.markLive r.toNat).markLive (r.toNat + 1))
        (some (.value (c.t.reg r.toNat))) (some (.value (c.t.reg (r.toNat + 1)))))) s

/-- A declared write that has received its value or null (R17, R134). -/
def addWrite (c : Ctx) (r : Nat) (v : Option Word) (s : State) : State :=
  s.modBlock c.k fun b => { b with writes := b.writes ++ [(c.j, r, v)] }

/-- WRITE (R141): a null or a cancelling token leaves the register unchanged. -/
def execWrite (r : BitVec 7) (s : State) : Out :=
  .next (fire .always .left false .none .none (fun c s => addWrite c r.toNat none s)
    (fun c s l _ _ => .ok (addWrite c r.toNat (some l) s) none none) s)

/-- A WRITEP operand: its value, unless it is a null or the word is cancelled. -/
def pairVal (o : Slot) (x : Option Token) : Option Word :=
  if o.cancelled then none
  else match x with
    | some (.value v) => some v
    | _ => none

/-- WRITEP (R141): either operand may be a null, which leaves that register unchanged. -/
def execWritep (r : BitVec 7) (s : State) : Out :=
  .next (fire .always .both false .none .none
    (fun c s => addWrite c (r.toNat + 1) (pairVal c.o c.o.r) (addWrite c r.toNat (pairVal c.o c.o.l) s))
    (fun c s l r' _ => .ok (addWrite c (r.toNat + 1) (some r') (addWrite c r.toNat (some l) s)) none none) s)

/-- MOV (R142). -/
def execMov (p : Pred) (a b : Target) (s : State) : Out := value1 p a b (fun x => x) s

/-- NULL (R142). -/
def execNul (a b : Target) (s : State) : Out :=
  fireEff .always .none a b (fun _ s _ _ _ => .ok s (some .null) (some .null)) s

/-- GENC (R143). -/
def execGenc (imm : BitVec 15) (a : Target) (s : State) : Out :=
  fireVal .always .none a .none (fun _ _ _ => sext imm) s

/-- APPC (R121, R143). -/
def execAppc (p : Pred) (imm : BitVec 15) (a : Target) (s : State) : Out :=
  value1 p a .none (fun x => (x <<< 15) ||| imm.setWidth 64) s

/-- A branch that fires: the first of its block; a second raises F_ILLEGAL, DUP_BRANCH (R18). DESIGN CHOICE (log 62): the checks of a
branch's addresses come before this one. -/
def branchEff (c : Ctx) (s : State) (br : Branch) : Eff :=
  match c.b.branch with
  | none => .ok (s.modBlock c.k fun b => { b with branch := some (c.j, br) }) none none
  | some _ => .fault { code := .illegal, sub := 2 }

/-- Addresses are taken modulo 2^57 (R124, R145). -/
def mod57 (x : Word) : Word := x &&& 0x01FFFFFFFFFFFFFF

/-- BRO (R144). -/
def execBro (p : Pred) (off : BitVec 24) (s : State) : Out :=
  fireEff p .none .none .none (fun c s _ _ _ => branchEff c s (.goto (mod57 (c.b.addr + 4 * sext off)))) s

/-- The check of a branch's next address (R132, R145). -/
def nextCheck (next : Word) : List (Bool × FaultInfo) :=
  [(bits next 63 57 != 0, { code := .protect, addr := next }), (bits next 1 0 != 0, { code := .align, addr := next })]

/-- The check of a frame pointer that a call or RET names (R145). -/
def fpCheck (f : Word) : List (Bool × FaultInfo) :=
  [(f != 0 && (bits f 2 0 != 0 || bits f 63 57 != 0), { code := .align, addr := f })]

/-- BRI (R145). -/
def execBri (p : Pred) (s : State) : Out :=
  fireEff p .left .none .none (fun c s l _ _ => checked (nextCheck l) (branchEff c s (.goto l))) s

/-- CALL (R145). -/
def execCall (p : Pred) (s : State) : Out :=
  fireEff p .both .none .none (fun c s l r _ =>
    let next := mod57 (c.b.addr + l)
    checked (nextCheck next ++ fpCheck r) (branchEff c s (.call next r))) s

/-- CALLI (R145). -/
def execCalli (p : Pred) (s : State) : Out :=
  fireEff p .both .none .none (fun c s l r _ => checked (nextCheck l ++ fpCheck r) (branchEff c s (.call l r))) s

/-- RET (R145). -/
def execRet (p : Pred) (s : State) : Out :=
  fireEff p .both .none .none (fun c s l r _ => checked (nextCheck l ++ fpCheck r) (branchEff c s (.ret l r))) s

/-- STOP (R146). -/
def execStop (p : Pred) (s : State) : Out :=
  fireEff p .none .none .none (fun c s _ _ _ => branchEff c s .stop) s

/-- YIELD (R147): the strand is marked when the block commits. -/
def execYield (p : Pred) (s : State) : Out :=
  fireEff p .none .none .none (fun c s _ _ _ => .ok (s.modBlock c.k fun b => { b with yields := true }) none none) s

/-- SELF (R148). -/
def execSelf (p : Pred) (a b : Target) (s : State) : Out :=
  fireEff p .left a b (fun c s l _ _ =>
    if l = 0 then .val s c.b.addr
    else if l = 1 then .val s c.t.fp
    else if l = 2 then .val s (s.colid.setWidth 64)
    else if l = 3 then .val s (BitVec.ofNat 64 ((s.task c.t.task).logPav c.t.pav % 16))
    else .fault { code := .illegal }) s

/-- RGN (R171): it has no result; what it says of the closing and the opening region is read when its block is fetched
(BlockEvents.lean, REGION_END and the opening of a region). -/
def execRgn (_scope : BitVec 3) (_cls : BitVec 4) (_drainpref _efence : Bool) (s : State) : Out :=
  fireEff .always .none .none .none (fun _ s _ _ _ => .ok s none none) s

/-- RCNT (R173). -/
def execRcnt (a : Target) (s : State) : Out :=
  fireEff .always .none a .none (fun c s _ _ _ => .val s (c.t.rcnt.setWidth 64)) s

/-- TAGGET (R160). -/
def execTagget (p : Pred) (a b : Target) (s : State) : Out :=
  fireEff p .none a b (fun c s _ _ _ => .val s c.t.region.tag) s

end Sys2Proof.Machine
end

