-- ==== Sys2Proof/Config.lean ====
section
/-! DEFINITION. What the spec leaves to the implementation or to timing. Every constant here is opaque: nothing in
Lean can evaluate it, so a statement about the model holds whatever it is. Each is applied to a plain counter of the
state (State.ticks) or to the operands it depends on. Log entries 6, 8 and 14. -/

namespace Sys2Proof.Config

/-- A cycle count that the spec leaves to timing: PERF counters 0 and 5 (R272), the cycles inside a refresh
window (R199, R303), the cycles a task has run (R357). Log 6. -/
opaque freeCycles : Nat → BitVec 64

/-- The pavilion in which the scheduler places a strand, among those the rules allow (R281). Log 8. -/
opaque freeChoice : Nat → Nat

/-- The order of events that the spec leaves to timing, and whether a span of time that an event waits for has passed. Log 15. -/
opaque freeTurn : Nat → Nat

/-- A value that the spec does not state, such as an element of a race between two unordered instructions. Log 6. -/
opaque freeWord : Nat → BitVec 64

/-- R413: the boot ROM accepts the stage-1 image only when its HSS signature (RFC 8554) verifies under Ghedor's
firmware key, which stands in the ROM and in no file of the spec. Log 14. -/
opaque romAccepts : List Byte → Bool

/-- R415, R418: the 3,604-byte HSS signature with one-time index `q`, under a private seed that only the ROM's
signing context reads. Log 14. -/
opaque hssSign : Nat → List Byte → List Byte

/-- R415: a byte of the device's public key, which reads at DEVID and stands in no file of the spec. Log 14. -/
opaque deviceKey : Nat → BitVec 8

/-- R409: whether the Lodge's I/O translation, which the runtime programs, admits a root-port request to an
address. Log 13. -/
opaque ioTranslates : Nat → Nat → Bool

/-- What a store on a peer answers to a query: for each candidate its score, CTR, VALUE, ATTR, whether LIFE is not 0,
and the words of VEC. No state of a peer is held. Log 10. -/
opaque peerAnswer : Nat → List (Nat × Nat × BitVec 64 × Nat × Bool × List (BitVec 8))

/-- Whether a peer takes a store at a pavilion and FE of its own: it refuses when it has harvested the pavilion, or when other chips'
stores fill the FE's registers (R245, R350, R369). Log 10. -/
opaque peerTakes : Nat → Nat → Nat → Nat → Bool

end Sys2Proof.Config
end

