-- ==== Sys2Proof/Machine/Frames.lean ====
section
/-! DEFINITION. Strands, frames and tags at fire (R156 to R160). What their deferred entries do at publish is in
Publish.lean. -/

namespace Sys2Proof.Machine

def illegal (sub : Nat := 0) : FaultInfo := { code := .illegal, sub := sub }

/-- The checks that FORK and FORKN share, in the order of R156. -/
def forkChecks (c : Ctx) (l : Word) : List (Bool × FaultInfo) :=
  [(bits l 1 0 != 0, { code := .align, addr := l }), (bits l 63 57 != 0, { code := .protect, addr := l }),
   (tagDepth c.t.region.tag == 5, { code := .resource })]

/-- FORK (R156). The entry holds the first index and the count. -/
def execFork (p : Pred) (s : State) : Out :=
  fireDef p .both .none .none (fun c s l r _ =>
    checked (forkChecks c l ++ [(bits r 63 12 != 0, illegal)])
      (deferEff c s { kind := .fork, l := l, x := bits r 11 0, y := 1 })) s

/-- FORKN (R156). -/
def execForkn (p : Pred) (s : State) : Out :=
  fireDef p .both .none .none (fun c s l r _ =>
    checked (forkChecks c l ++ [(bits r 63 25 != 0 || 4096 < bits r 24 12, illegal)])
      (deferEff c s { kind := .forkn, l := l, x := bits r 11 0, y := bits r 24 12 })) s

/-- Slots that a frame of the declared frame bytes may hold (R23, R158). -/
def frameSlots (frame : Nat) : Nat := Nat.min 64 ((frame / 64 * 64 - 40) / 8)

/-- SEND (R157). Left is f | (i << 57). -/
def execSend (p : Pred) (s : State) : Out :=
  fireDef p .both .none .none (fun c s l r _ =>
    checked [(bit l 63, illegal), (frameSlots (s.task c.t.task).desc.frame ≤ bits l 62 57, { code := .resource }),
             (bits l 2 0 != 0, { code := .align, addr := mod57 l })]
      (deferEff c s { kind := .send, l := mod57 l, r := r, x := bits l 62 57 })) s
where
  mod57 (x : Word) : Word := x &&& 0x01FFFFFFFFFFFFFF

/-- Bytes of a frame of n slots (R158). -/
def frameBytes (n : Nat) : Nat := roundUp (40 + 8 * n) 64

/-- The launch word (R158): N, n - 1 and the entry block's address. -/
def launchWord (nin n : Nat) (entry : Word) : Word :=
  BitVec.ofNat 64 (nin * 2 ^ 60 + (n - 1) * 2 ^ 54 + bits entry 56 3)

/-- FRALLOC (R158). At fire it reads the entry block's header through the strand's translation and takes the frame from
the pool; the header write is deferred (l: FP, r: tag, x: launch word). -/
def execFralloc (p : Pred) (a b : Target) (s : State) : Out :=
  fireDef p .both a b (fun c s l r _ =>
    let entry := l &&& 0x01FFFFFFFFFFFFFF
    let n := bits l 62 57 + 1
    checked [(bit l 63, illegal), (!tagOk r, illegal), (bits entry 2 0 != 0, { code := .align, addr := entry })]
      (match s.flat c.t.pav c.t.task entry.toNat .fetch with
        | .miss bad => .park entry bad
        | .fault code => .fault { code := code, addr := entry }
        | .ok named => match s.serve named 4 with
          | .wait => .wait
          | .lost => .fault { code := .uncorr, addr := entry }
          | .key key =>
            let h := leNat (s.viewN c.k c.t.pav key 4)
            let nin := h / 2 ^ 20 % 16
            if h / 2 ^ 24 % 2 = 0 ∨ nin = 0 ∨ n < nin then .fault { code := .blockFormat, addr := entry }
            else
              let len := frameBytes n
              if c.t.poolEnd.toNat < c.t.poolPtr.toNat + len then .fault { code := .resource }
              else
                let base := c.t.poolPtr
                let fp := base + 40
                let s := s.modStrand c.k fun t =>
                  { t with poolPtr := base + BitVec.ofNat 64 len, frames := t.frames ++ [⟨base, len, true, r⟩] }
                deferEff c s { kind := .fralloc, l := fp, r := r, x := (launchWord nin n entry).toNat } (some fp))) s

/-- FRFREE (R159): left is the FP of a frame of this strand's pool that is allocated and not being freed. -/
def execFrfree (p : Pred) (s : State) : Out :=
  fireDef p .left .none .none (fun c s l _ _ =>
    checked [(!(c.t.frames.any fun f => f.live && f.base + 40 == l)
              || ((c.t.region.deferred ++ c.t.queue.flatMap (·.deferred)).any fun d => d.kind == .frfree && d.l == l), illegal)]
      (deferEff c s { kind := .frfree, l := l })) s

/-- TAGSET (R160). -/
def execTagset (p : Pred) (s : State) : Out :=
  fireDef p .left .none .none (fun c s l _ _ =>
    checked [(!tagOk l, illegal)] (deferEff c s { kind := .tagset, l := l })) s

/-! ### Deques (R161 to R163) -/

/-- A deque of a physical pavilion. -/
def State.deque (s : State) (pav dq : Nat) : Deque := (s.deques.find (pav * 16 + dq)).getD {}

def State.setDeque (s : State) (pav dq : Nat) (d : Deque) : State :=
  { s with deques := s.deques.put (pav * 16 + dq) d }

/-- The checks of a deque handle (R161); `own`: PAV must be the strand's own pavilion. -/
def dequeChecks (c : Ctx) (s : State) (h : Word) (own : Bool) : List (Bool × FaultInfo) :=
  [(bits h 63 8 != 0, illegal), (own && bits h 7 4 != (s.task c.t.task).logPav c.t.pav % 16, { code := .protect })]

/-- The pavilion a handle names: one of the strand's grove. -/
def dequePav (c : Ctx) (s : State) (h : Word) : Nat := (s.task c.t.task).mate c.t.pav (bits h 7 4)

/-- DQPUSH (R162): 0 for a zero value or a full deque; otherwise an entry is reserved below the bottom. It takes its deferred entry
either way; that of a failed push launches nothing. -/
def execDqpush (p : Pred) (a b : Target) (s : State) : Out :=
  fireDef p .both a b (fun c s l r _ =>
    checked (dequeChecks c s l true)
      (let pav := dequePav c s l
       let d := s.deque pav (bits l 3 0)
       if r = 0 ∨ 16 ≤ d.entries.length then deferEff c s { kind := .failedPush, l := l, r := r } (some 0)
       else
         let d' := { d with entries := d.entries ++ [(d.nextId, r, .reserved c.k)], nextId := d.nextId + 1 }
         deferEff c (s.setDeque pav (bits l 3 0) d')
           { kind := .dqpush, l := l, r := r, x := pav * 16 + bits l 3 0, y := d.nextId } (some 1))) s

end Sys2Proof.Machine
end

