-- ==== Sys2Proof/Machine/Memory.lean ====
section
/-! DEFINITION. Loads, stores, PREF, returning atomics and non-returning reductions at fire, and what a load returns
(R164 to R169, R174 to R178). -/

namespace Sys2Proof.Machine

/-- The instruction in a slot of a block. -/
def BlockRun.instr (b : BlockRun) (j : Nat) : Option Instr :=
  match b.words[j]? with
  | none => none
  | some w => match decode w with
    | .ok i => some i
    | .error _ => none

/-- LSID of an M word (R122). -/
def lsidOf (w : Word32) : Nat := (fXop w).toNat

/-- The slots of a block whose instructions have a class, with their status. -/
def BlockRun.slotsOf (b : BlockRun) (cl : Cls) : List (Nat × Slot) :=
  (List.range b.words.length).filterMap fun j =>
    match b.instr j, b.slots[j]? with
    | some i, some o => if i.cls = cl then some (j, o) else none
    | _, _ => none

/-- Every store of the block with a lower LSID has resolved (R166). -/
def BlockRun.olderStoresDone (b : BlockRun) (lsid : Nat) : Bool :=
  (b.slotsOf .store).all fun x => x.2.status == .done || lsid ≤ lsidOf ((b.words[x.1]?).getD 0)

/-- a := left + sext(IMM9) * scale (R165). -/
def accessAddr (l : Word) (off : BitVec 9) (scale : Nat) : Word := l + sext off * BitVec.ofNat 64 scale

/-- The 64-byte line of an address. -/
def lineOf (a : Word) : Word := a &&& ~~~0x3F

/-- The alignment check of an access. -/
def alignCheck (addr : Word) (w : Nat) : List (Bool × FaultInfo) := [(addr.toNat % w != 0, { code := .align, addr := addr })]

/-- The checks of a load, store or reduction at fire that go before those of its page or window: that the bytes of a bank window have a
purpose, once R164's own checks have passed, and the alignment, in R427's default order (R165, R366). -/
def State.accessChecks (s : State) (t : Strand) (addr : Word) (w : Nat) : List (Bool × FaultInfo) :=
  (s.fireCheck t addr w == some .resource, { code := .resource, addr := addr }) :: alignCheck addr w

/-- A load at fire (R165, R166): it waits for older stores of its block and is then sent to memory. -/
def loadFire (p : Pred) (lsid : BitVec 6) (off : BitVec 9) (w : Nat) (a : Target) (s : State) : Out :=
  fireEff p .left a .none (fun c s l _ _ =>
    let addr := accessAddr l off w
    checked (s.accessChecks c.t addr w)
      (match s.fireCheck c.t addr w with
        | some code => .fault { code := code, addr := addr }
        | none =>
          if c.b.olderStoresDone lsid.toNat then .sent (s.push (.loadReturn c.k c.j)) else .wait)) s

def execLdb (p : Pred) (lsid : BitVec 6) (off : BitVec 9) (a : Target) (s : State) : Out := loadFire p lsid off 1 a s
def execLdh (p : Pred) (lsid : BitVec 6) (off : BitVec 9) (a : Target) (s : State) : Out := loadFire p lsid off 2 a s
def execLdw (p : Pred) (lsid : BitVec 6) (off : BitVec 9) (a : Target) (s : State) : Out := loadFire p lsid off 4 a s
def execLdd (p : Pred) (lsid : BitVec 6) (off : BitVec 9) (a : Target) (s : State) : Out := loadFire p lsid off 8 a s
def execLdsb (p : Pred) (lsid : BitVec 6) (off : BitVec 9) (a : Target) (s : State) : Out := loadFire p lsid off 1 a s
def execLdsh (p : Pred) (lsid : BitVec 6) (off : BitVec 9) (a : Target) (s : State) : Out := loadFire p lsid off 2 a s
def execLdsw (p : Pred) (lsid : BitVec 6) (off : BitVec 9) (a : Target) (s : State) : Out := loadFire p lsid off 4 a s

/-- Width, offset and sign extension of a load (R165). -/
def loadForm : Instr → Option (Nat × BitVec 9 × Bool × Target)
  | .ldb _ _ off a => some (1, off, false, a)
  | .ldh _ _ off a => some (2, off, false, a)
  | .ldw _ _ off a => some (4, off, false, a)
  | .ldd _ _ off a => some (8, off, false, a)
  | .ldsb _ _ off a => some (1, off, true, a)
  | .ldsh _ _ off a => some (2, off, true, a)
  | .ldsw _ _ off a => some (4, off, true, a)
  | _ => none

/-- A byte of a list of region store lines: the last one that wrote it (R32). -/
def sbByte (lines : List SbLine) (va : Word) : Option Byte :=
  lines.foldl (fun b x =>
    if x.va = lineOf va then
      match x.kind with
      | .bytes cells => match cells.find (bits va 5 0) with
        | some v => some v
        | none => b
      | .red .. => b
    else b) none

/-- A byte of the block's own older stores: the data of the highest LSID that wrote it (R166). -/
def blockByte (b : BlockRun) (lsid : Nat) (va : Word) : Option Byte :=
  (b.stores.foldl (fun (best : Option (Nat × Byte)) st =>
    match st.data with
    | none => best
    | some d =>
      let i := va - st.addr
      if st.lsid < lsid ∧ i.toNat < d.length then
        match best with
        | some (l, _) => if l ≤ st.lsid then some (st.lsid, (d[i.toNat]?).getD 0) else best
        | none => some (st.lsid, (d[i.toNat]?).getD 0)
      else best) none).map (·.2)

/-- The byte that the strand's earlier regions supply: its queued publishes, the younger first, and its side log (R165). -/
def State.sentByte (s : State) (k : Nat) (t : Strand) (va : Word) : Option Byte :=
  (t.queue.foldl (fun x pb => (sbByte pb.lines va).or x) none)
  |>.or (sbByte ((s.sideLog.filter fun e => e.strand == k).map (·.line)) va)

/-- The byte that the strand itself supplies, in the order of R165: its block, its region store buffer, its queued
publishes the younger first, its side log. -/
def State.ownByte (s : State) (k : Nat) (t : Strand) (b : BlockRun) (lsid : Nat) (va : Word) : Option Byte :=
  blockByte b lsid va |>.or (sbByte t.region.store va) |>.or (s.sentByte k t va)

/-- A reduction of the word stands in the strand's side log: the load waits (R176). -/
def State.loggedRed (s : State) (k : Nat) (va : Word) (w : Nat) : Bool :=
  s.sideLog.any fun e => e.strand == k && e.line.va == lineOf va &&
    match e.line.kind with
    | .red _ wd off _ => off < bits va 5 0 + w && bits va 5 0 < off + (if wd then 4 else 8)
    | _ => false

/-- The region of t is younger than that of u: one that YIELD marked is younger than every other (R147, R354). -/
def Strand.younger (t u : Strand) : Bool :=
  if t.region.young == u.region.young then u.region.age < t.region.age else t.region.young

/-- The resident strand of a pavilion with the youngest region among those that satisfy a test (R33, R302). -/
def State.youngest (s : State) (pav : Nat) (holds : Strand → Bool) : Option (Nat × Strand) :=
  (List.range s.strands.length).foldl (fun best k =>
    match s.strand k with
    | none => best
    | some t =>
      if t.pav = pav ∧ t.state ≠ .waiting ∧ t.state ≠ .ended ∧ holds t then
        match best with
        | some (_, u) => if u.younger t then best else some (k, t)
        | none => some (k, t)
      else best) none

/-- How room in a full pool is found (R33, R302): the youngest region that holds entries is discarded; the requester waits where that
region is its own, and where it can no longer be discarded (R34, R40; DEDUCED, log 74). -/
inductive PoolRoom where
  | room (s : State)
  | wait

def State.makeRoom (s : State) (k pav : Nat) (used limit need : Nat) (holds : Strand → Bool) : PoolRoom :=
  if used + need ≤ limit then .room s
  else match s.youngest pav holds with
    | some (y, t) => if y = k || !t.canDiscard then .wait else .room (s.discardReenter y)
    | none => .wait

/-- Zero- or sign-extended value of w little-endian bytes (R165). -/
def loadValue (sgn : Bool) (w : Nat) (d : List Byte) : Word :=
  if sgn then BitVec.ofInt 64 (signedOf (8 * w) (leNat d)) else BitVec.ofNat 64 (leNat d)

/-- A store at fire (R165, R168): it resolves with its address and data. -/
def storeFire (p : Pred) (lsid : BitVec 6) (off : BitVec 9) (w : Nat) (s : State) : Out :=
  .next (fire p .both true .none .none
    (fun c s => s.modBlock c.k fun b => { b with stores := b.stores ++ [⟨c.j, lsid.toNat, 0, none⟩] })
    (fun c s l r _ =>
      let addr := accessAddr l off w
      checked (s.accessChecks c.t addr w)
        (match s.storeCheck c.t addr w with
          | some code => .fault { code := code, addr := addr }
          | none => .ok (s.modBlock c.k fun b =>
              { b with stores := b.stores ++ [⟨c.j, lsid.toNat, s.asOwn c.t.task c.t.pav addr, some (toLe w r.toNat)⟩] }) none none)) s)

def execStb (p : Pred) (lsid : BitVec 6) (off : BitVec 9) (s : State) : Out := storeFire p lsid off 1 s
def execSth (p : Pred) (lsid : BitVec 6) (off : BitVec 9) (s : State) : Out := storeFire p lsid off 2 s
def execStw (p : Pred) (lsid : BitVec 6) (off : BitVec 9) (s : State) : Out := storeFire p lsid off 4 s
def execStd (p : Pred) (lsid : BitVec 6) (off : BitVec 9) (s : State) : Out := storeFire p lsid off 8 s

/-- PREF (R169): no result, no pin, no fault; where the line then stands changes no value (R308). -/
def execPref (p : Pred) (_lsid : BitVec 6) (_off : BitVec 9) (s : State) : Out :=
  fireEff p .left .none .none (fun _ s _ _ _ => .ok s none none) s

/-! ### Returning atomics (R174, R175) -/

/-- What a boundary instruction waits for (R40, R175): the previous publish, the strand's side-log entries, and the loads of
its block. -/
def boundaryReady (c : Ctx) (s : State) : Bool :=
  c.t.pub.isNone && c.t.queue.isEmpty && !(s.sideLog.any fun e => e.strand == c.k)
  && (c.b.slotsOf .load).all fun x => x.2.status == .done

/-- Width in bytes of an atomic or reduction (R174). -/
def wBytes (w : Bool) : Nat := if w then 4 else 8

/-- A returning atomic at fire: F_ALIGN is checked first; the rest is checked at its home when it is performed (R175). DESIGN CHOICE
(log 81): R366's check of a bank window's bytes, which R175's order does not name, is made there too. -/
def atomicFire (p : Pred) (u : Uses) (w : Bool) (a b : Target) (s : State) : Out :=
  fireEff p u a b (fun c s l _ _ =>
    checked (alignCheck l (wBytes w))
      (if boundaryReady c s then .sent (s.push (.homeAtomicPerform c.k c.j)) else .wait)) s

def execAadd (p : Pred) (w : Bool) (a b : Target) (s : State) : Out := atomicFire p .both w a b s
def execAswp (p : Pred) (w : Bool) (a b : Target) (s : State) : Out := atomicFire p .both w a b s
def execAcas (w : Bool) (a b : Target) (s : State) : Out := atomicFire .always .three w a b s
def execAmin (p : Pred) (w : Bool) (a b : Target) (s : State) : Out := atomicFire p .both w a b s
def execAmax (p : Pred) (w : Bool) (a b : Target) (s : State) : Out := atomicFire p .both w a b s
def execAminu (p : Pred) (w : Bool) (a b : Target) (s : State) : Out := atomicFire p .both w a b s
def execAmaxu (p : Pred) (w : Bool) (a b : Target) (s : State) : Out := atomicFire p .both w a b s
def execAand (p : Pred) (w : Bool) (a b : Target) (s : State) : Out := atomicFire p .both w a b s
def execAor (p : Pred) (w : Bool) (a b : Target) (s : State) : Out := atomicFire p .both w a b s
def execAxor (p : Pred) (w : Bool) (a b : Target) (s : State) : Out := atomicFire p .both w a b s
def execAmaxrs (p : Pred) (w : Bool) (a b : Target) (s : State) : Out := atomicFire p .both w a b s

/-- The operation, width and targets of a returning atomic. -/
def atomicForm : Instr → Option (AOp × Bool × Target × Target)
  | .aadd _ w a b => some (.add, w, a, b)
  | .aswp _ w a b => some (.swp, w, a, b)
  | .acas w a b => some (.cas, w, a, b)
  | .amin _ w a b => some (.min, w, a, b)
  | .amax _ w a b => some (.max, w, a, b)
  | .aminu _ w a b => some (.minu, w, a, b)
  | .amaxu _ w a b => some (.maxu, w, a, b)
  | .aand _ w a b => some (.and, w, a, b)
  | .aor _ w a b => some (.or, w, a, b)
  | .axor _ w a b => some (.xor, w, a, b)
  | .amaxrs _ w a b => some (.maxrs, w, a, b)
  | _ => none

/-- The new value of an atomic's word (R174); old, v and third are values of n bits. -/
def atomicNew (op : AOp) (n old v third : Nat) : Nat :=
  let so := signedOf n old
  let sv := signedOf n v
  match op with
  | .add => (old + v) % 2 ^ n
  | .swp => v
  | .cas => if old = v then third else old
  | .min => if so < sv then old else v
  | .max => if so < sv then v else old
  | .minu => Nat.min old v
  | .maxu => Nat.max old v
  | .and => old &&& v
  | .or => old ||| v
  | .xor => old ^^^ v
  | .maxrs => v

/-- The new value of a reduction's word (R176). -/
def reduceNew (op : ROp) (n old v : Nat) : Nat :=
  let so := signedOf n old
  let sv := signedOf n v
  match op with
  | .add => (old + v) % 2 ^ n
  | .min => if so < sv then old else v
  | .max => if so < sv then v else old
  | .and => old &&& v
  | .or => old ||| v
  | .xor => old ^^^ v
  | .fadd => let f := if n = 64 then Fmt.fp64 else Fmt.fp32
             roundF f .rne ((decodeF f old).add (decodeF f v))

/-! ### Non-returning reductions (R176 to R178) -/

/-- A reduction at fire, with the checks of a store; it takes its line at the block's commit (R33). -/
def reduceFire (op : ROp) (p : Pred) (w : Bool) (s : State) : Out :=
  fireDef p .both .none .none (fun c s l r _ =>
    checked ((op == .fadd && (s.task c.t.task).determ, illegal 4) :: s.accessChecks c.t l (wBytes w))
      (match s.storeCheck c.t l (wBytes w) with
        | some code => .fault { code := code, addr := l }
        | none => .ok (s.modBlock c.k fun b => { b with reds := b.reds ++ [⟨c.j, op, w, s.asOwn c.t.task c.t.pav l, r⟩] }) none none)) s

def execRadd (p : Pred) (w : Bool) (s : State) : Out := reduceFire .add p w s
def execRmin (p : Pred) (w : Bool) (s : State) : Out := reduceFire .min p w s
def execRmax (p : Pred) (w : Bool) (s : State) : Out := reduceFire .max p w s
def execRand (p : Pred) (w : Bool) (s : State) : Out := reduceFire .and p w s
def execRor (p : Pred) (w : Bool) (s : State) : Out := reduceFire .or p w s
def execRxor (p : Pred) (w : Bool) (s : State) : Out := reduceFire .xor p w s
def execRfadd (p : Pred) (w : Bool) (s : State) : Out := reduceFire .fadd p w s

end Sys2Proof.Machine
end

