-- ==== Sys2Proof/Machine/Engines.lean ====
section
/-! DEFINITION. Barriers, message rings and engine launches at fire (R179 to R199, R241, R271). -/

namespace Sys2Proof.Machine

/-! ### Barriers -/

/-- The home of a barrier (R179): the pavilion, the grove, the device (0), or chip HOME. -/
def barrierHome (t : Strand) (scope home : Nat) : Nat :=
  match scope with
  | 1 => t.pav
  | 2 => groveOf t.pav
  | 3 => 0
  | _ => home

/-- The arrival that a strand made before its task was saved, at this barrier (R181). -/
def arrived (t : Strand) (scope home bar : Nat) : Option Await :=
  t.barrier.filter fun w => w.scope == scope && w.home == home && w.bar == bar

/-- GBAR at fire (R179): its arrival is sent to the barrier's home, on this chip or on a peer (R180); one sent to a peer can be withdrawn
by no discard, so it counts as performed from then on (log 82). A strand that has arrived already waits again (R181). -/
def execGbar (p : Pred) (a b : Target) (s : State) : Out :=
  fireEff p .left a b (fun c s l _ _ =>
    let scope := bits l 10 8
    let home := bits l 60 48
    checked [(bits l 63 61 != 0 || bits l 47 32 != 0 || bits l 15 11 != 0, illegal),
             (scope == 0 || 5 ≤ scope || (scope ≤ 3 && home != 0), illegal),
             ((s.task c.t.task).desc.barriers ≤ bits l 7 0, { code := .resource }),
             (scope == 4 && home != s.chip && !s.reached home, { code := .uncorr })]
      (if !boundaryReady c s then .wait
       else
       let m : Arrival := { task := c.t.task, scope := scope, home := barrierHome c.t scope home, bar := bits l 7 0,
                            nm1 := bits l 31 16, strand := some c.k, slot := c.j, chip := s.chip }
       match arrived c.t scope (barrierHome c.t scope home) (bits l 7 0) with
       | some w =>
        if w.done then
          .val ((s.modBlock c.k fun b => { b with performed := true }).modStrand c.k fun t => { t with barrier := none })
            (w.gen.setWidth 64)
        else
          .sent ((s.modBlock c.k fun b => { b with performed := true }).modStrand c.k fun t =>
            { t with barrier := some { w with slot := c.j }, state := .blocked })
       | none =>
        .sent (if scope = 4 ∧ home ≠ s.chip then (s.send (.arrival home m)).modBlock c.k fun b => { b with performed := true }
               else s.push (.barrierArrival m)))) s

/-- GBARX (R182). -/
def execGbarx (p : Pred) (s : State) : Out :=
  fireDef p .none .none .none (fun c s _ _ _ => deferEff c s { kind := .gbarx }) s

/-! ### Message rings (R183 to R188) -/

/-- The ring of a pavilion. -/
def State.ring (s : State) (pav n : Nat) : Option Ring := s.rings.find? fun r => r.pav == pav && r.ring == n

/-- A MRING of the region defines the ring (R183). -/
def regionDefines (c : Ctx) (n : Nat) : Bool :=
  c.t.region.deferred.any fun e => e.kind == .mring && bits e.l 51 48 == n && bits e.l 20 16 != 0

/-- A ring handle (R183). -/
def ringHandle (chip pav ring log2 : Nat) : Word :=
  BitVec.ofNat 64 (chip * 2 ^ 48 + pav * 2 ^ 36 + ring * 2 ^ 32 + log2 * 2 ^ 24)

/-- MRING (R183). -/
def execMring (p : Pred) (a b : Target) (s : State) : Out :=
  fireDef p .left a b (fun c s l _ _ =>
    let lg := bits l 20 16
    let n := bits l 51 48
    let isDef := (s.ring c.t.pav n).isSome
    checked [(bits l 63 52 != 0 || bits l 43 21 != 0, illegal),
             ((lg != 0 && (isDef || regionDefines c n)) || (lg == 0 && !isDef) || (1 ≤ lg && lg ≤ 5) || 16 < lg
               || (lg != 0 && bits l 15 0 % 2 ^ lg != 0), { code := .ring })]
      (deferEff c s { kind := .mring, l := l }
        (some (ringHandle s.chip ((s.task c.t.task).logPav c.t.pav) n lg)))) s

/-- Reserved bits of a ring handle are nonzero, or its LOG2SIZE lies outside 6 to 16 (R183, R185). -/
def handleBad (h : Word) : Bool :=
  bits h 63 61 != 0 || bits h 31 29 != 0 || bits h 23 0 != 0 || bits h 28 24 < 6 || 16 < bits h 28 24

/-- MSEND (R185). DESIGN CHOICE (log 108): LENW 0, for which the rule names no fault, raises F_ILLEGAL. -/
def execMsend (p : Pred) (s : State) : Out :=
  fireDef p .both .none .none (fun c s l r _ =>
    let lenw := bits r 49 41
    checked [(handleBad l || bits r 63 58 != 0 || bits r 40 36 != 0 || bits r 31 16 != 0 || lenw == 0, illegal),
             (bit r 57 && (s.task c.t.task).desc.regs ≤ bits r 56 50, { code := .resource }),
             (bits r 15 0 % 8 != 0 || 65536 < bits r 15 0 + 8 * lenw, { code := .align }),
             (2 ^ bits l 28 24 < 8 * (lenw + 1), { code := .ring })]
      (deferEff c s { kind := .msend, l := l, r := r })) s

/-- The DATA records of a ring, oldest first: offset and bytes. -/
def Ring.dataRecs (r : Ring) : List (Nat × Nat) :=
  r.recs.filterMap fun x => if x.2.2 then none else some (x.1, x.2.1)

/-- Records of a ring that the strand's queued publishes have taken and not released yet (R188, R324). -/
def queuedWaits (t : Strand) (n : Nat) : Nat :=
  (t.queue.flatMap (·.deferred)).foldl (fun m d => if d.kind = .mwait ∧ d.y = n then m + d.x else m) 0

/-- MWAIT (R188): the next DATA record that the region has not taken; TA the payload's bank window address, TB the header. DESIGN CHOICE
(log 109): nonzero reserved bits of the handle, for which the rule names no fault, raise F_ILLEGAL. -/
def execMwait (p : Pred) (a b : Target) (s : State) : Out :=
  fireDef p .left a b (fun c s l _ _ =>
    let n := bits l 35 32
    checked [(bits l 63 61 != 0 || bits l 31 29 != 0 || bits l 23 0 != 0, illegal),
             (bits l 60 48 != s.chip || bits l 47 36 != (s.task c.t.task).logPav c.t.pav, { code := .protect }),
             ((s.ring c.t.pav n).isNone, { code := .ring })]
      (match s.ring c.t.pav n with
        | none => .wait
        | some rg =>
          let taken := (c.t.region.waits.find n).getD 0
          match rg.dataRecs[taken + queuedWaits c.t n]? with
          | none => .wait
          | some (off, _) =>
            let s := s.modStrand c.k fun t => { t with region := { t.region with waits := t.region.waits.put n (taken + 1) } }
            match takeEntry c s { kind := .mwait, y := n, x := 1 } (fun d => d.kind == .mwait && d.y == n) with
            | none => .fault { code := .regionOverflow }
            | some s' =>
              .ok s' (some (.value (BitVec.ofNat 64 (0xFF * 2 ^ 56 + rg.fe * 2 ^ 16 + rg.base + off + 8))))
                (some (.value (BitVec.ofNat 64 (s.home (bankKey c.t.pav rg.fe + rg.base + off) 8)))))) s

/-! ### Engine launches -/

/-- The checks of the control word and the command address (R189, R241). DESIGN CHOICE (log 110): a command address that is not flat, for
which no rule names a fault, raises F_PROTECT. -/
def engineChecks (c : Ctx) (s : State) (l r : Word) (modeOk : Bool) : List (Bool × FaultInfo) :=
  [(bits r 63 13 != 0 || (bit r 12 && !modeOk), illegal),
   (bit r 3 && (s.task c.t.task).desc.regs ≤ bits r 10 4, { code := .resource }),
   (bits l 2 0 != 0, { code := .align, addr := l }), (bits l 63 57 != 0, { code := .protect, addr := l })]

/-- An engine launch with a command address and a control word: one deferred entry (R189). -/
def engineFire (kind : DefKind) (p : Pred) (mode : State → Ctx → Bool) (s : State) : Out :=
  fireDef p .both .none .none (fun c s l r _ =>
    checked (engineChecks c s l r (mode s c)) (deferEff c s { kind := kind, l := l, r := r })) s

def execCpy (p : Pred) (s : State) : Out := engineFire .cpy p (fun _ _ => false) s
def execCpyt (p : Pred) (s : State) : Out := engineFire .cpyt p (fun _ _ => false) s
/-- COLL: MODE 1 ARRIVAL is refused when DETERM is 1 (R189, R290). -/
def execColl (p : Pred) (s : State) : Out := engineFire .coll p (fun s c => !(s.task c.t.task).determ) s
def execKappend (p : Pred) (s : State) : Out := engineFire .kappend p (fun _ _ => false) s
def execKmerge (p : Pred) (s : State) : Out := engineFire .kmerge p (fun _ _ => false) s
def execMscan (p : Pred) (s : State) : Out := engineFire .mscan p (fun _ _ => false) s
def execKsum (p : Pred) (s : State) : Out := engineFire .ksum p (fun _ _ => false) s
/-- IGATHER: x is ITB as the region uses it (R265, R269). -/
def execIgather (p : Pred) (s : State) : Out :=
  fireDef p .both .none .none (fun c s l r _ =>
    checked (engineChecks c s l r false) (deferEff c s { kind := .igather, l := l, r := r, x := (s.sysFor c.t).itb.toNat })) s
def execWalk (p : Pred) (s : State) : Out := engineFire .walk p (fun _ _ => false) s

/-- The buffer that a descriptor of the strand names (R202): below the declared count, and defined. -/
def State.bufOf (s : State) (t : Strand) (d : Nat) : Option (Nat × BufRec) :=
  if (s.task t.task).desc.buffers ≤ d then none
  else match t.bufs.find d with
    | none => none
    | some id => (s.buffers.find id).map fun b => (id, b)

/-- WSLD (R198): l is the weight store offset, x the buffer its descriptor names at fire. -/
def execWsld (p : Pred) (s : State) : Out :=
  fireDef p .both .none .none (fun c s l r _ =>
    let len := bits r 10 0
    checked [(bits r 63 58 != 0 || bits r 28 11 != 0 || len == 0 || 1024 < len, illegal),
             (match s.bufOf c.t (bits r 49 45) with
               | some (_, b) => b.size < 64 * len
               | none => false, illegal),
             ((s.bufOf c.t (bits r 49 45)).isNone, { code := .resource }),
             (bit r 57 && (s.task c.t.task).desc.regs ≤ bits r 56 50, { code := .resource }),
             (bits l 5 0 != 0 || 2 ^ 31 < l.toNat + 64 * len, { code := .align })]
      (deferEff c s { kind := .wsld, l := l, r := r })) s

/-- WSREF (R199, R303): the segment in its window is `seg`; how far its window has run is a free value (log 6). -/
def execWsref (p : Pred) (a b : Target) (s : State) : Out :=
  fireEff p .left a b (fun c s l _ _ =>
    let seg := (s.terrace (terraceOf c.t.pav)).seg
    let o := (Config.freeCycles s.ticks).toNat % 4096
    if l.toNat < 64 then
      let d := (l.toNat + 64 - seg) % 64
      let cyclesLeft := if d = 0 then 4096 - o else 0
      let next := if d = 0 then 262144 - o else d * 4096 - o
      .val s.tick (BitVec.ofNat 64 (cyclesLeft * 2 ^ 32 + next))
    else if l.toNat = 64 then .val s (BitVec.twoPow 64 seg)
    else .fault illegal) s

/-- TLBI (R271). -/
def execTlbi (p : Pred) (s : State) : Out :=
  fireDef p .both .none .none (fun c s l r _ =>
    let kind := bits l 63 62
    checked [(bits l 61 57 != 0 || bits l 11 0 != 0 || bits r 63 12 != 0 || bits r 2 0 != 0
               || (kind == 2 && bits l 56 12 != 0) || (kind == 3 && bits l 56 24 != 0), illegal),
             (bit r 3 && (s.task c.t.task).desc.regs ≤ bits r 10 4, { code := .resource }),
             (kind == 1 && bits l 20 12 != 0, { code := .align, addr := l &&& 0x01FFFFFFFFFFF000 }),
             (!(s.task c.t.task).privileged, { code := .protect })]
      (deferEff c s { kind := .tlbi, l := l, r := r })) s

end Sys2Proof.Machine
end

