-- ==== Sys2Proof/Machine/Buffers.lean ====
section
/-! DEFINITION. Buffers, streams, generators and flow at fire (R202, R207 to R214, R234 to R239). -/

namespace Sys2Proof.Machine

/-- M, the modulus of P and C: the largest multiple of the slot count that does not exceed 65,536 (R26). -/
def BufRec.modulus (b : BufRec) : Nat := 65536 / b.count * b.count

/-- filled = (P - C) mod M (R26). -/
def BufRec.filled (b : BufRec) : Nat := (b.p + b.modulus - b.c) % b.modulus

/-- free = slot count - filled (R26). -/
def BufRec.room (b : BufRec) : Nat := b.count - b.filled

/-- The bank key of a physical slot's first byte. -/
def BufRec.slotKey (b : BufRec) (slot : Nat) : Nat := bankKey b.pav b.fe + b.base + slot * b.size

/-- Physical slot of producer-side and consumer-side index k (R26). -/
def BufRec.prod (b : BufRec) (k : Nat) : Nat := (b.p + k) % b.count
def BufRec.cons (b : BufRec) (k : Nat) : Nat := (b.c + k) % b.count

/-- A buffer with P or C advanced by n; the slots that P passes carry a tag from then on (R14, R26). -/
def BufRec.advance (b : BufRec) (prod : Bool) (n : Nat) (tag : Word) : BufRec :=
  if prod then { b with p := (b.p + n) % b.modulus, tags := b.tags ++ List.replicate n tag }
  else { b with c := (b.c + n) % b.modulus, tags := b.tags.drop n }

/-- BUFDEF (R207); of the checks that raise F_ILLEGAL those on the left operand come first (R427). -/
def execBufdef (p : Pred) (s : State) : Out :=
  fireDef p .both .none .none (fun c s l r _ =>
    checked [(bits l 24 0 != 0 || (bit r 5 && l != 0), illegal),
             (!bit r 5 && 65536 < 64 * bits l 59 50 + 64 * (bits l 49 40 + 1) * (bits l 39 25 + 1), illegal 7),
             (bits r 63 6 != 0, illegal),
             ((s.task c.t.task).desc.buffers ≤ bits r 4 0, { code := .resource })]
      (deferEff c s { kind := .bufdef, l := l, r := r })) s

/-- An instruction on a buffer index operand (R202). -/
def withBuf (c : Ctx) (s : State) (l : Word) (f : Nat → BufRec → Eff) : Eff :=
  if bits l 63 5 ≠ 0 then .fault illegal
  else match s.bufOf c.t (bits l 4 0) with
    | none => .fault { code := .resource }
    | some (id, b) => f id b

/-- BUFINFO (R209). -/
def execBufinfo (p : Pred) (a b : Target) (s : State) : Out :=
  fireEff p .left a b (fun c s l _ _ => withBuf c s l fun _ bf =>
    .val s (BitVec.ofNat 64 (bf.p * 2 ^ 48 + bf.c * 2 ^ 32 + bf.filled * 2 ^ 16 + bf.room))) s

/-- A buffer wait: n beyond the slot count raises F_ILLEGAL; the count is sent once it reaches n (R209). -/
def waitCount (p : Pred) (a b : Target) (cnt : BufRec → Nat) (s : State) : Out :=
  fireEff p .both a b (fun c s l r _ =>
    if bits l 63 5 ≠ 0 ∨ bits r 63 16 ≠ 0 then .fault illegal
    else withBuf c s l fun _ bf =>
      if bf.count < bits r 15 0 then .fault illegal
      else if bits r 15 0 ≤ cnt bf then .val s (BitVec.ofNat 64 (cnt bf)) else .wait) s

/-- WAITF (R209). -/
def execWaitf (p : Pred) (a b : Target) (s : State) : Out := waitCount p a b BufRec.filled s
/-- WAITE (R209). -/
def execWaite (p : Pred) (a b : Target) (s : State) : Out := waitCount p a b BufRec.room s

/-- The region's total of advances of one kind to one buffer (R210). -/
def advTotal (c : Ctx) (kind : DefKind) (id : Nat) : Nat :=
  c.t.region.deferred.foldl (fun n d => if d.kind = kind ∧ d.y = id then n + d.x else n) 0

/-- ADVP and ADVC (R210): the region's total must not exceed what the arbiter holds at fire; one entry per buffer. -/
def advFire (kind : DefKind) (p : Pred) (cnt : BufRec → Nat) (s : State) : Out :=
  fireDef p .both .none .none (fun c s l r _ =>
    if bits l 63 5 ≠ 0 ∨ bits r 63 16 ≠ 0 then .fault illegal
    else withBuf c s l fun id bf =>
      if cnt bf < advTotal c kind id + bits r 15 0 then .fault (illegal 6)
      else deferEff c s { kind := kind, l := l, r := r, x := bits r 15 0, y := id } none
        (fun d => d.kind == kind && d.y == id)) s

def execAdvp (p : Pred) (s : State) : Out := advFire .advp p BufRec.room s
def execAdvc (p : Pred) (s : State) : Out := advFire .advc p BufRec.filled s

/-! ### Streams (R212 to R214) -/

/-- What the port table says of a tensor: its format and its shape as a matrix (R82, R213). -/
structure TensorInfo where
  fmt  : Fmt
  rows : Nat
  cols : Nat
  base : Nat          -- its flat base address
deriving DecidableEq, Repr

/-- The dimensions of a tensor entry as rows and columns: columns are the last dimension (R213). -/
def tensorShape (d d0 d1 d2 d3 : Nat) : Nat × Nat :=
  match d with
  | 1 => (1, d0)
  | 2 => (d0, d1)
  | 3 => (d0 * d1, d2)
  | _ => (d0 * d1 * d2, d3)

/-- The entry of a tensor in the port table from an address on (R82): port entries, then tensor entries; another first byte
ends the table (log 16). -/
def tensorAt (s : State) (n : Nat) : Nat → Nat → Option TensorInfo
  | 0, _ => none
  | k + 1, a =>
    match s.home a 1 with
    | 1 => tensorAt s n k (a + 32)
    | 2 =>
      if s.home (a + 4) 4 = n then
        let sh := tensorShape (s.home (a + 2) 2) (s.home (a + 8) 4 + 1) (s.home (a + 12) 4 + 1) (s.home (a + 16) 4 + 1)
          (s.home (a + 20) 4 + 1)
        some ⟨Fmt.ofTag (s.home (a + 1) 1), sh.1, sh.2, s.home (a + 24) 8⟩
      else tensorAt s n k (a + 32)
    | _ => none

/-- An entry that must be read to find a tensor's cannot be (R306, R425). -/
def tensorBad (s : State) (n : Nat) : Nat → Nat → Bool
  | 0, _ => false
  | k + 1, a => !s.readable a 32 || match s.home a 1 with
    | 1 => tensorBad s n k (a + 32)
    | 2 => s.home (a + 4) 4 != n && tensorBad s n k (a + 32)
    | _ => false

def State.tensorLost (s : State) (task n : Nat) : Bool := tensorBad s n 65536 (s.task task).desc.ports

/-- The loaded port table's entry of a tensor, where it can be read. -/
def State.tensor (s : State) (task n : Nat) : Option TensorInfo :=
  if s.tensorLost task n then none else tensorAt s n 65536 (s.task task).desc.ports

/-- The checks of a stream at fire (R214). -/
def streamChecks (c : Ctx) (s : State) (l : Word) : List (Bool × FaultInfo) :=
  let rows := bits l 31 26 + 1
  let cols := bits l 25 16 + 1
  [(bits l 1 0 != 0 || ((bit l 14 || bit l 13) && !bit l 15) || (bit l 14 && bit l 13)
     || (bit l 15 && (rows % 32 != 0 || cols % 32 != 0)), illegal),
   (match s.tensor c.t.task (bits l 63 52) with
     | some i => (bit l 13 && i.fmt.isNarrow) || (i.fmt == .int4 && cols % 2 == 1)
     | none => false, illegal),
   ((s.bufOf c.t (bits l 51 47)).isNone, { code := .resource }),
   (bit l 12 && (s.task c.t.task).desc.regs ≤ bits l 11 5, { code := .resource })]

/-- SLOAD and SSTORE: one deferred entry each (R214). -/
def streamFire (kind : DefKind) (p : Pred) (s : State) : Out :=
  fireDef p .both .none .none (fun c s l r _ =>
    checked (streamChecks c s l) (deferEff c s { kind := kind, l := l, r := r })) s

def execSload (p : Pred) (s : State) : Out := streamFire .sload p s
def execSstore (p : Pred) (s : State) : Out := streamFire .sstore p s

/-! ### Flow (R234 to R236) -/

/-- STEER (R234). -/
def execSteer (a b : Target) (s : State) : Out :=
  fireEff .always .three a b (fun _ s v ctl sel =>
    if bits ctl 63 1 ≠ 0 then .fault illegal
    else
      let other : Option Token := if bit ctl 0 then some .cancel else none
      if bit sel 0 then .ok s (some (.value v)) other else .ok s other (some (.value v))) s

/-- The MERGE of slot j of a resident block has sent its token for a tag: in an iteration in flight, or in one that has ended. -/
def State.mergeSent (s : State) (task blk j : Nat) (u : Word) : Bool :=
  (s.task task).finished.contains (blk, u) || s.strands.any fun t =>
    t.kind == .iteration blk && t.task == task && t.state != .ended && t.tag == u &&
      match t.block with
      | some b => ((b.slots[j]?).getD {}).status == .done
      | none => t.exiting

/-- A tag that precedes the iteration's, from the oldest in flight on, has not had its token of this MERGE yet (R236; log 98). -/
def olderMerge (c : Ctx) (s : State) : Bool :=
  match c.t.kind with
  | .ordinary => false
  | .iteration blk => (s.tagsBefore c.t.task c.t.tag).any fun u => !s.mergeSent c.t.task blk c.j u

/-- MERGE (R236): its token, a cancelling one too, waits for those of older tags. -/
def execMerge (p : Pred) (a b : Target) (s : State) : Out :=
  let now (s : State) : State := fire p .merge false a b noResolve (fun c s v _ _ => if olderMerge c s then .wait else .val s v) s
  .next (match s.ctx with
    | none => s
    | some c => match gate p .merge false c.o with
      | .cancel | .null => if olderMerge c s then applyEff c a b noResolve .wait s else now s
      | _ => now s)

/-! ### Generators (R238, R239) -/

/-- A word where the layout of GDEF requires zero is nonzero, or a field holds a refused value (R238). -/
def gdefBad (l r : Word) : Bool :=
  let kind := bits l 63 62
  let mode := bits l 51 50
  6 ≤ bits l 58 56 || bits l 44 32 != 0
  || (kind == 3 && mode == 3) || (kind != 3 && mode != 0)
  || (!(kind == 3 && mode == 2) && bits l 49 45 != 0)
  || (!(kind == 2 || (kind == 3 && mode ≤ 1)) && bits r 63 32 != 0)
  || (!(kind == 3 && mode == 1) && bits r 31 16 != 0)
  || (!(kind == 2 || (kind == 3 && mode == 1)) && bits r 15 0 != 0)

/-- The kind of a generator word. -/
def genKind (n : Nat) : GenKind :=
  match n with
  | 0 => .sign | 1 => .gauss | 2 => .rotary | _ => .mask

/-- GDEF (R116, R238). -/
def execGdef (p : Pred) (s : State) : Out :=
  fireDef p .both .none .none (fun c s l r _ =>
    checked [(gdefBad l r, illegal),
             (!genPairs (genKind (bits l 63 62)) (Fmt.ofTag (bits l 61 59)), { code := .format })]
      (deferEff c s { kind := .gdef, l := l, r := r })) s

/-- The generator that a strand's descriptor defines, with its scoped seed (R110, R238, R269). -/
def State.gen (s : State) (t : Strand) (gd : Nat) : Option Gen :=
  (t.gens.find gd).map fun (w : Word × Word) =>
    let (l, r) := w
    { kind := genKind (bits l 63 62), fmt := Fmt.ofTag (bits l 61 59),
      seed := seedScope (s.sysFor t).seed (bits l 31 0) (bits l 58 56) t.region.tag,
      s0 := bits r 63 32, r0 := bits r 15 0, mode := bits l 51 50,
      pa := signedOf 32 (bits r 63 32), pb := signedOf 32 (bits r 31 0), ps := bits l 49 45 }

/-- GSEED (R239). -/
def execGseed (p : Pred) (a b : Target) (s : State) : Out :=
  fireEff p .left a b (fun c s l _ _ =>
    if bits l 63 4 ≠ 0 then .fault illegal
    else match s.gen c.t (bits l 3 0) with
      | none => .fault { code := .resource }
      | some g => .val s (BitVec.ofNat 64 g.seed)) s

end Sys2Proof.Machine
end

