-- ==== Sys2Proof/Machine/Vectors.lean ====
section
/-! DEFINITION. Vector instructions (R203 to R205, R215 to R223). -/

namespace Sys2Proof.Machine

/-- A vector reference (R203). -/
structure VRef where
  fmt : Fmt
  buf : Nat
  k   : Nat
  len : Nat
  ctl : Nat

def vref (w : Word) : VRef := ⟨Fmt.ofTag (bits w 63 61), bits w 60 56, bits w 55 41, bits w 40 21, bits w 20 0⟩

/-- The destination fields of a left VREF: DBUF, DK and the bit that must be zero. -/
def VRef.dbuf (v : VRef) : Nat := v.ctl / 2 ^ 16
def VRef.dk (v : VRef) : Nat := v.ctl / 2 % 2 ^ 15
def VRef.low (v : VRef) : Bool := v.ctl % 2 != 0

/-- Bytes of n elements (R203); INT4 packs two to a byte. -/
def runBytes (f : Fmt) (n : Nat) : Nat := ceilDiv (n * f.width) 8

/-- A run of an instruction: descriptor, slot index, bytes that must be there, bytes of the whole run, producer side. -/
structure Run where
  buf   : Nat
  k     : Nat
  need  : Nat
  whole : Nat
  prod  : Bool := false

/-- The run of a VREF of which n elements are read. -/
def VRef.run (v : VRef) (n : Nat) : Run := ⟨v.buf, v.k, runBytes v.fmt n, runBytes v.fmt v.len, false⟩

/-- A run whose descriptor is not usable, or whose slots exceed the slot count (R202, R204). -/
def runBad (c : Ctx) (s : State) (r : Run) : Bool :=
  match s.bufOf c.t r.buf with
  | none => true
  | some (_, b) => r.whole != 0 && b.count < r.k + ceilDiv r.whole b.size

/-- Every slot of the run that is needed lies below filled, or below free (R204). -/
def runReady (c : Ctx) (s : State) (r : Run) : Bool :=
  match s.bufOf c.t r.buf with
  | none => false
  | some (_, b) => r.need == 0 || r.k + ceilDiv r.need b.size ≤ (if r.prod then b.room else b.filled)

/-- Key of byte o of a run that begins at index k. -/
def BufRec.byteKey (b : BufRec) (prod : Bool) (k o : Nat) : Nat :=
  b.slotKey ((if prod then b.prod (k + o / b.size) else b.cons (k + o / b.size))) + o % b.size

/-- The bytes of a run, as a party of the pavilion reads them. -/
def readRun (c : Ctx) (s : State) (buf k n : Nat) : List Byte :=
  match s.bufOf c.t buf with
  | none => []
  | some (_, b) => (List.range n).map fun o => s.view c.k c.t.pav (b.byteKey false k o)

/-- Some byte of a run is poisoned (R425). -/
def runPoisoned (c : Ctx) (s : State) (r : Run) : Bool :=
  !s.poison.isEmpty && match s.bufOf c.t r.buf with
  | none => false
  | some (_, b) => (List.range r.need).any fun o => s.poisoned (b.byteKey r.prod r.k o) 1

/-- Some of n bytes of a run from byte o on is poisoned (R425). -/
def bytesPoisoned (c : Ctx) (s : State) (v : VRef) (o n : Nat) : Bool :=
  !s.poison.isEmpty && match s.bufOf c.t v.buf with
  | none => false
  | some (_, b) => (List.range n).any fun i => s.poisoned (b.byteKey false v.k (o + i)) 1

/-- The stored codes of n elements. -/
def unpack (f : Fmt) (n : Nat) (d : List Byte) : List Nat :=
  if f.width = 4 then (List.range n).map fun e => ((d[e / 2]?).getD 0).toNat / 16 ^ (e % 2) % 16
  else (List.range n).map fun e => leNat ((d.drop (e * (f.width / 8))).take (f.width / 8))

/-- Elements of a VREF's run. -/
def elems (c : Ctx) (s : State) (v : VRef) (n : Nat) : List Nat :=
  unpack v.fmt n (readRun c s v.buf v.k (runBytes v.fmt n))

/-- INT4 codes packed, low nibble first (R84). -/
def packNibbles : List Nat → List Byte
  | a :: b :: t => BitVec.ofNat 8 (a % 16 + b % 16 * 16) :: packNibbles t
  | [a] => [BitVec.ofNat 8 (a % 16)]
  | [] => []

/-- Stored codes packed from byte 0 on (R204). -/
def pack (f : Fmt) (l : List Nat) : List Byte :=
  if f.width = 4 then packNibbles l else l.flatMap fun v => toLe (f.width / 8) v

/-- Bytes written from producer-side slot DK on (R204). -/
def writeRun (c : Ctx) (s : State) (buf k : Nat) (d : List Byte) : State :=
  match s.bufOf c.t buf with
  | none => s
  | some (_, b) =>
    s.performHome (((List.range d.length).zip d).map fun x => (b.byteKey true k x.1, x.2))

/-- The completion token (R205). -/
def completion (lenmis oor order : Bool) (n : Nat) : Word :=
  BitVec.ofNat 64 ((if lenmis then 2 ^ 63 else 0) + (if oor then 2 ^ 62 else 0) + (if order then 2 ^ 61 else 0) + n % 2 ^ 21)

/-- The frame of a vector instruction: F_ILLEGAL, then F_RESOURCE, then F_FORMAT (R427); the waits of R204; F_UNCORR on
a poisoned source; then the effect. -/
def vecEff (c : Ctx) (s : State) (ill fmtBad : Bool) (runs : List Run) (e : Unit → Eff) : Eff :=
  if ill then .fault illegal
  else if runs.any (runBad c s) then .fault { code := .resource }
  else if fmtBad then .fault { code := .format }
  else if !runs.all (runReady c s) then .wait
  else if runs.any fun r => !r.prod && runPoisoned c s r then .fault { code := .uncorr }
  else e ()

/-- A result run written, and the completion sent. -/
def vecDone (c : Ctx) (s : State) (v : VRef) (d : List Byte) (comp : Word) : Eff :=
  .val (writeRun c s v.dbuf v.dk d) comp

/-- The result run of a left VREF. -/
def VRef.dst (v : VRef) (bytes : Nat) : Run := ⟨v.dbuf, v.dk, bytes, bytes, true⟩

/-- The formats of VADD (R215). -/
def arithFmt (f : Fmt) : Bool := f.isFloat || f == .int32

/-- An operation of two elements: INT32 by integers modulo 2^32, floats by exact values rounded once (R215). -/
def elem2 (f : Fmt) (gi : Int → Int → Int) (gf : Num → Num → Num) (a b : Nat) : Nat :=
  if f.isFloat then roundF f .rne (gf (decodeF f a) (decodeF f b))
  else bitsOf 32 (gi (signedOf 32 a) (signedOf 32 b))

/-- An operation of one element. -/
def elem1 (f : Fmt) (gi : Int → Int) (gf : Num → Num) (a : Nat) : Nat :=
  if f.isFloat then roundF f .rne (gf (decodeF f a)) else bitsOf 32 (gi (signedOf 32 a))

/-- A binary vector operation (R217): min(LEN_A, LEN_B) elements, LENMIS when the lengths differ. -/
def vec2 (p : Pred) (a b : Target) (ok : Fmt → Bool) (g : Fmt → Nat → Nat → Nat) (s : State) : Out :=
  fireEff p .both a b (fun c s l r _ =>
    let x := vref l
    let y := vref r
    let n := Nat.min x.len y.len
    vecEff c s (x.low || y.ctl != 0) (x.fmt != y.fmt || !ok x.fmt) [x.run n, y.run n, x.dst (runBytes x.fmt n)] fun _ =>
      let d := ((elems c s x n).zip (elems c s y n)).map fun e => g x.fmt e.1 e.2
      vecDone c s x (pack x.fmt d) (completion (x.len != y.len) false false n)) s

/-- A unary vector operation (R217). -/
def vec1 (p : Pred) (a b : Target) (ok : Fmt → Bool) (g : Fmt → Nat → Nat) (s : State) : Out :=
  fireEff p .left a b (fun c s l _ _ =>
    let x := vref l
    vecEff c s x.low (!ok x.fmt) [x.run x.len, x.dst (runBytes x.fmt x.len)] fun _ =>
      vecDone c s x (pack x.fmt ((elems c s x x.len).map (g x.fmt))) (completion false false false x.len)) s

/-- The smaller and larger of two INT32 values. -/
def imin (x y : Int) : Int := if x < y then x else y
def imax (x y : Int) : Int := if x < y then y else x

def execVadd (p : Pred) (a b : Target) (s : State) : Out := vec2 p a b arithFmt (fun f => elem2 f (· + ·) Num.add) s
def execVsub (p : Pred) (a b : Target) (s : State) : Out := vec2 p a b arithFmt (fun f => elem2 f (· - ·) Num.sub) s
def execVmul (p : Pred) (a b : Target) (s : State) : Out := vec2 p a b arithFmt (fun f => elem2 f (· * ·) Num.mul) s
def execVmin (p : Pred) (a b : Target) (s : State) : Out := vec2 p a b arithFmt (fun f => elem2 f imin Num.min) s
def execVmax (p : Pred) (a b : Target) (s : State) : Out := vec2 p a b arithFmt (fun f => elem2 f imax Num.max) s

/-- VFMA (R215, R217): ternary; its third operand is a VREF too. -/
def execVfma (a b : Target) (s : State) : Out :=
  fireEff .always .three a b (fun c s l r t =>
    let x := vref l
    let y := vref r
    let z := vref t
    let n := Nat.min x.len (Nat.min y.len z.len)
    vecEff c s (x.low || y.ctl != 0 || z.ctl != 0) (x.fmt != y.fmt || x.fmt != z.fmt || !arithFmt x.fmt)
      [x.run n, y.run n, z.run n, x.dst (runBytes x.fmt n)] fun _ =>
      let d := ((elems c s x n).zip ((elems c s y n).zip (elems c s z n))).map fun e =>
        if x.fmt.isFloat then
          roundF x.fmt .rne ((decodeF x.fmt e.1).fma (decodeF x.fmt e.2.1) (decodeF x.fmt e.2.2))
        else bitsOf 32 (signedOf 32 e.1 * signedOf 32 e.2.1 + signedOf 32 e.2.2)
      vecDone c s x (pack x.fmt d) (completion (!(x.len == y.len && x.len == z.len)) false false n)) s

def execVabs (p : Pred) (a b : Target) (s : State) : Out :=
  vec1 p a b arithFmt (fun f => elem1 f (fun i => if i < 0 then -i else i) Num.abs) s
def execVneg (p : Pred) (a b : Target) (s : State) : Out := vec1 p a b arithFmt (fun f => elem1 f (fun i => -i) Num.neg) s

/-- VEXP2 (R104, R215): narrower inputs are converted exactly, and the FP32 result is rounded to their format. -/
def execVexp2 (p : Pred) (a b : Target) (s : State) : Out :=
  vec1 p a b (fun f => f == .fp32 || f == .fp16 || f == .bf16)
    (fun f x => roundF f .rne (decodeF .fp32 (exp2 (decodeF f x)))) s

/-- VRCP (R215). -/
def execVrcp (p : Pred) (a b : Target) (s : State) : Out :=
  vec1 p a b Fmt.isFloat (fun f x => roundF f .rne ((Num.fin false 1 0).div (decodeF f x))) s

/-- 1/sqrt(x) with a last bit that is 1 when it is not exact (R215). -/
def Num.rsqrt (x : Num) : Num :=
  match x with
  | .nan => .nan
  | .inf s => if s then .nan else .fin false 0 0
  | .fin s m e =>
    if m = 0 then .inf s
    else if s then .nan
    else
      let odd := e % 2 ≠ 0
      let m' := if odd then 2 * m else m
      let e' := if odd then e - 1 else e
      let q := isqrt (2 ^ 480 / m')
      .fin false (2 * q + (if q * q * m' = 2 ^ 480 then 0 else 1)) (-(e' / 2) - 241)

/-- VRSQ (R215). -/
def execVrsq (p : Pred) (a b : Target) (s : State) : Out :=
  vec1 p a b Fmt.isFloat (fun f x => roundF f .rne (Num.rsqrt (decodeF f x))) s

/-- VCVT (R218). -/
def execVcvt (p : Pred) (a b : Target) (s : State) : Out :=
  fireEff p .both a b (fun c s l r _ =>
    let x := vref l
    let d := Fmt.ofTag (bits r 2 0)
    vecEff c s (x.low || bits r 63 4 != 0) false [x.run x.len, x.dst (runBytes d x.len)] fun _ =>
      vecDone c s x (pack d ((elems c s x x.len).map fun e => cvt d (RM.ofBit (bit r 3)) (decodeElem x.fmt e)))
        (completion false false false x.len)) s

/-- A code as the result of an operation: a NaN is the canonical one of its format (R86, R215). -/
def canonCode (f : Fmt) (v : Nat) : Nat := if f.isFloat && (decodeF f v).isNan then f.nan else v

/-- VSEL (R215, R216): the mask's bit decides between A and B. -/
def execVsel (p : Pred) (a b : Target) (s : State) : Out :=
  fireEff p .both a b (fun c s l r _ =>
    let x := vref l
    let y := vref r
    let n := Nat.min x.len y.len
    let mb := ceilDiv n 8
    vecEff c s (x.low || y.low) (x.fmt != y.fmt)
      [x.run n, y.run n, ⟨y.dbuf, y.dk, mb, mb, false⟩, x.dst (runBytes x.fmt n)] fun _ =>
      let m := readRun c s y.dbuf y.dk mb
      let d := ((List.range n).zip ((elems c s x n).zip (elems c s y n))).map fun e =>
        canonCode x.fmt (if ((m[e.1 / 8]?).getD 0).getLsbD (e.1 % 8) then e.2.1 else e.2.2)
      vecDone c s x (pack x.fmt d) (completion (x.len != y.len) false false n)) s

/-- One comparison of VCMP (R216). -/
def cmpElem (f : Fmt) (op : Nat) (a b : Nat) : Bool :=
  if f.isFloat then
    let x := decodeF f a
    let y := decodeF f b
    match op with
    | 0 => x.eq y
    | 1 => !x.eq y
    | 2 => x.lt y
    | _ => x.le y
  else
    let x := signedOf 32 a
    let y := signedOf 32 b
    match op with
    | 0 => x == y
    | 1 => x != y
    | 2 => x < y
    | 3 => x ≤ y
    | _ => a % 2 ^ 32 < b % 2 ^ 32

/-- Bits packed into mask bytes; the unused high bits of the last byte are clear (R216). -/
def packBits : Nat → List Bool → List Byte
  | 0, _ => []
  | n + 1, l =>
    BitVec.ofNat 8 (((List.range 8).zip (l.take 8)).foldl (fun v x => if x.2 then v + 2 ^ x.1 else v) 0)
      :: packBits n (l.drop 8)

/-- VCMP (R216). -/
def execVcmp (p : Pred) (a b : Target) (s : State) : Out :=
  fireEff p .both a b (fun c s l r _ =>
    let x := vref l
    let y := vref r
    let n := Nat.min x.len y.len
    let mb := ceilDiv n 8
    vecEff c s (x.low || 4 < y.ctl) (x.fmt != y.fmt || !arithFmt x.fmt || (y.ctl == 4 && x.fmt != .int32))
      [x.run n, y.run n, x.dst mb] fun _ =>
      let d := ((elems c s x n).zip (elems c s y n)).map fun e => cmpElem x.fmt y.ctl e.1 e.2
      vecDone c s x (packBits mb d) (completion (x.len != y.len) false false n)) s

def anyFmt (_ : Fmt) : Bool := true

def execVand (p : Pred) (a b : Target) (s : State) : Out := vec2 p a b anyFmt (fun _ x y => x &&& y) s
def execVor (p : Pred) (a b : Target) (s : State) : Out := vec2 p a b anyFmt (fun _ x y => x ||| y) s
def execVxor (p : Pred) (a b : Target) (s : State) : Out := vec2 p a b anyFmt (fun _ x y => x ^^^ y) s

/-- VSHL (R215). -/
def execVshl (p : Pred) (a b : Target) (s : State) : Out :=
  vec2 p a b (· == .int32) (fun _ x y => x <<< (y % 32) % 2 ^ 32) s

/-- VSHR (R215, R216): sign fill when ARITH. -/
def execVshr (p : Pred) (a b : Target) (s : State) : Out :=
  fireEff p .both a b (fun c s l r _ =>
    let x := vref l
    let y := vref r
    let n := Nat.min x.len y.len
    vecEff c s (x.low || 1 < y.ctl) (x.fmt != y.fmt || x.fmt != .int32) [x.run n, y.run n, x.dst (runBytes x.fmt n)] fun _ =>
      let d := ((elems c s x n).zip (elems c s y n)).map fun e =>
        if y.ctl = 1 then bitsOf 32 (signedOf 32 e.1 / (2 ^ (e.2 % 32) : Nat)) else e.1 >>> (e.2 % 32)
      vecDone c s x (pack x.fmt d) (completion (x.len != y.len) false false n)) s

/-- A scalar result placed (R138, R219): INT32 sign-extended. -/
def placeElem (f : Fmt) (v : Nat) : Word := if f.isInt then BitVec.ofInt 64 (signedOf f.width v) else BitVec.ofNat 64 v

/-- A reduction of a run to a scalar (R219). -/
def vred (p : Pred) (a b : Target) (g : Fmt → List Nat → Nat) (s : State) : Out :=
  fireEff p .left a b (fun c s l _ _ =>
    let x := vref l
    vecEff c s x.low (!arithFmt x.fmt) [x.run x.len] fun _ => .val s (placeElem x.fmt (g x.fmt (elems c s x x.len)))) s

/-- VREDSUM (R219). -/
def execVredsum (p : Pred) (a b : Target) (s : State) : Out :=
  vred p a b (fun f l => if f.isFloat then roundF f .rne (decodeF f (treeSum f l)) else l.foldl (· + ·) 0 % 2 ^ 32) s

/-- VREDMAX (R219). -/
def execVredmax (p : Pred) (a b : Target) (s : State) : Out :=
  vred p a b (fun f l =>
    if f.isFloat then roundF f .rne (l.foldl (fun m e => m.max (decodeF f e)) (.inf true))
    else bitsOf 32 (l.foldl (fun m e => imax m (signedOf 32 e)) Fmt.int32.minInt)) s

/-- VREDMIN (R219). -/
def execVredmin (p : Pred) (a b : Target) (s : State) : Out :=
  vred p a b (fun f l =>
    if f.isFloat then roundF f .rne (l.foldl (fun m e => m.min (decodeF f e)) (.inf false))
    else bitsOf 32 (l.foldl (fun m e => imin m (signedOf 32 e)) Fmt.int32.maxInt)) s

/-- Inclusive prefixes with a rounding after each addition (R220). -/
def scanGo (f : Fmt) : Nat → List Nat → List Nat
  | _, [] => []
  | r, a :: t =>
    let v := elem2 f (· + ·) Num.add r a
    v :: scanGo f v t

/-- VSCAN (R220). -/
def execVscan (p : Pred) (a b : Target) (s : State) : Out :=
  fireEff p .left a b (fun c s l _ _ =>
    let x := vref l
    vecEff c s x.low (!arithFmt x.fmt) [x.run x.len, x.dst (runBytes x.fmt x.len)] fun _ =>
      let d := match elems c s x x.len with
        | [] => []
        | h :: t =>
          let h' := if x.fmt.isFloat then roundF x.fmt .rne (decodeF x.fmt h) else h
          h' :: scanGo x.fmt h' t
      vecDone c s x (pack x.fmt d) (completion false false false x.len)) s

/-- The zero of a format (R213, R221). -/
def zeroCode (f : Fmt) : Nat := if f = .ps8 then 0x77 else 0

/-- VPERM (R221): it waits for the index run, and for the slots of A that its in-range indices name. DESIGN CHOICE (log 102): the codes
are copied as they stand, a NaN that is not canonical too; so do VBCAST and VISECT's KEEPA. -/
def execVperm (p : Pred) (a b : Target) (s : State) : Out :=
  fireEff p .both a b (fun c s l r _ =>
    let x := vref l
    let y := vref r
    let n := y.len
    vecEff c s (x.low || y.ctl != 0) (y.fmt != .int32)
      [⟨x.buf, x.k, 0, runBytes x.fmt x.len, false⟩, y.run n, x.dst (runBytes x.fmt n)] fun _ =>
      let idx := (elems c s y n).map (signedOf 32)
      let inRange (i : Int) : Bool := 0 ≤ i && i < x.len
      let last := idx.foldl (fun m i => if inRange i then Nat.max m (i.toNat + 1) else m) 0
      if !(idx.all fun i => !inRange i || runReady c s (x.run (i.toNat + 1))) then .wait
      else if idx.any fun i => inRange i && bytesPoisoned c s x (i.toNat * x.fmt.width / 8) (ceilDiv x.fmt.width 8) then
        .fault { code := .uncorr }
      else
        let es := elems c s x last
        let d := idx.map fun i => if inRange i then (es[i.toNat]?).getD 0 else zeroCode x.fmt
        vecDone c s x (pack x.fmt d) (completion (x.len != y.len) (idx.any fun i => !inRange i) false n)) s

/-- VBCAST (R222). -/
def execVbcast (p : Pred) (a b : Target) (s : State) : Out :=
  fireEff p .both a b (fun c s l r _ =>
    let x := vref l
    vecEff c s (x.low || x.buf != 0 || x.k != 0) false [x.dst (runBytes x.fmt x.len)] fun _ =>
      vecDone c s x (pack x.fmt (List.replicate x.len (r.toNat % 2 ^ x.fmt.width))) (completion false false false x.len)) s

/-- An entry of a coordinate-tagged stream: its 64 bits when its slot is there (R223). -/
def isectEntry (c : Ctx) (s : State) (v : VRef) (i : Nat) : Option Word :=
  if runReady c s ⟨v.buf, v.k, 8 * (i + 1), 0, false⟩ then
    some (BitVec.ofNat 64 (leNat ((readRun c s v.buf v.k (8 * (i + 1))).drop (8 * i))))
  else none

/-- What the walk of VISECT finds: a slot that it reaches is missing, an entry that it reads is poisoned (R425), or the entries
written and ORDER. -/
inductive Isect where
  | wait
  | uncorr
  | done (out : List Word) (order : Bool)
deriving DecidableEq, Repr

/-- The walk of VISECT (R223). -/
def isectGo (c : Ctx) (s : State) (x y : VRef) (prod : Bool) :
    Nat → Nat → Nat → Option Nat → Option Nat → List Word → Isect
  | 0, _, _, _, _, out => .done out false
  | fuel + 1, i, j, pa, pb, out =>
    if x.len ≤ i ∨ y.len ≤ j then .done out false
    else match isectEntry c s x i, isectEntry c s y j with
      | some a, some b =>
        let ca := bits a 63 32
        let cb := bits b 63 32
        let down (p : Option Nat) (v : Nat) : Bool := match p with
          | some q => v ≤ q
          | none => false
        if bytesPoisoned c s x (8 * i) 8 || bytesPoisoned c s y (8 * j) 8 then .uncorr
        else if down pa ca || down pb cb then .done out true
        else if ca < cb then isectGo c s x y prod fuel (i + 1) j (some ca) pb out
        else if cb < ca then isectGo c s x y prod fuel i (j + 1) pa (some cb) out
        else
          let v := if prod then elem2 x.fmt (· * ·) Num.mul (bits a 31 0) (bits b 31 0) else bits a 31 0
          isectGo c s x y prod fuel (i + 1) (j + 1) (some ca) (some cb) (out ++ [BitVec.ofNat 64 (ca * 2 ^ 32 + v)])
      | _, _ => .wait

/-- VISECT (R223). The destination's descriptor is checked at fire; how many slots the result takes is known after the walk. LENMIS is
the flag of R205 (log 19). -/
def execVisect (p : Pred) (a b : Target) (s : State) : Out :=
  fireEff p .both a b (fun c s l r _ =>
    let x := vref l
    let y := vref r
    vecEff c s (x.low || 1 < y.ctl) (x.fmt != y.fmt || !(x.fmt == .int32 || x.fmt == .fp32))
      [⟨x.buf, x.k, 0, 8 * x.len, false⟩, ⟨y.buf, y.k, 0, 8 * y.len, false⟩, x.dst 0] fun _ =>
      match isectGo c s x y (y.ctl == 0) (x.len + y.len + 1) 0 0 none none [] with
      | .wait => .wait
      | .uncorr => .fault { code := .uncorr }
      | .done out order =>
        let d := x.dst (8 * out.length)
        if runBad c s d then .fault { code := .resource }
        else if !runReady c s d then .wait
        else vecDone c s x (out.flatMap fun w => toLe 8 w.toNat) (completion (x.len != y.len) false order out.length)) s

end Sys2Proof.Machine
end

