-- ==== Sys2Proof/Machine/Tiles.lean ====
section
/-! DEFINITION. Tiles, accumulators and TDRAIN (R28, R29, R89 to R101, R224 to R233, R237). -/

namespace Sys2Proof.Machine

/-- A tile token (R28). -/
structure TileTok where
  fmt  : Fmt
  pl   : Bool
  res  : Nat
  fe   : Nat
  buf  : Nat
  slot : Nat
  aux  : Word32

def tileTok (w : Word) : TileTok :=
  ⟨Fmt.ofTag (bits w 63 61), bit w 60, bits w 59 56, bits w 55 52, bits w 51 47, bits w 46 32, w.setWidth 32⟩

def TileTok.word (t : TileTok) : Word :=
  BitVec.ofNat 64 (t.fmt.tag * 2 ^ 61 + (if t.pl then 2 ^ 60 else 0) + t.fe * 2 ^ 52 + t.buf * 2 ^ 47 + t.slot * 2 ^ 32
    + t.aux.toNat)

/-- NOSC and SCADDR of a narrow tile's AUX (R89). -/
def nosc (aux : Word32) : Bool := aux.getLsbD 31
def scaddr (aux : Word32) : Nat := aux.toNat % 2 ^ 16

/-- A narrow tile whose AUX asks for the swizzled layout (R224; DEDUCED for NOSC 1, log 77). -/
def swizBad (f : Fmt) (aux : Word32) : Bool := f.isNarrow && aux.getLsbD 0

/-- An AUX that fails R89 (narrow formats) or R224. -/
def auxBad (f : Fmt) (pl : Bool) (aux : Word32) : Bool :=
  if f.isNarrow then swizBad f aux || aux.toNat / 2 ^ 16 % 2 ^ 15 != 0 || (!nosc aux && scaddr aux % 32 != 0)
  else aux.toNat / 2 != 0 || (aux.getLsbD 0 && pl)

/-- The swizzled layout is selected by AUX[0] of a tile that is not narrow (R224). -/
def swizzled (f : Fmt) (aux : Word32) : Bool := !f.isNarrow && aux.getLsbD 0

/-- Row i's 4-byte words exchanged by u and u xor (i mod Wr) (R224); its own inverse. -/
def swizzle (f : Fmt) (d : List Byte) : List Byte :=
  (List.range 32).flatMap fun i =>
    let row := (d.drop (4 * f.width * i)).take (4 * f.width)
    (List.range f.width).flatMap fun u => (row.drop (4 * (u ^^^ (i % Nat.min 16 f.width)))).take 4

/-- Plane form to element codes (R96). -/
def planesToElems (f : Fmt) (d : List Byte) : List Nat :=
  let planes := (List.range f.width).map fun p => (List.range 32).map fun j =>
    leNat ((d.drop (128 * p + 4 * j)).take 4)
  (List.range 32).flatMap fun i => (List.range 32).map fun j =>
    planes.foldl (fun v pl => 2 * v + ((pl[j]?).getD 0) / 2 ^ i % 2) 0

/-- Element codes to plane form (R96). -/
def elemsToPlanes (f : Fmt) (rows : List (List Nat)) : List Byte :=
  (List.range f.width).flatMap fun p => (List.range 32).flatMap fun j =>
    toLe 4 (((List.range 32).zip rows).foldl (fun v r => v + ((r.2[j]?).getD 0) / 2 ^ (f.width - 1 - p) % 2 * 2 ^ r.1) 0)

/-- A list cut into rows of 32. -/
def toRows (l : List Nat) : List (List Nat) := (List.range 32).map fun i => (l.drop (32 * i)).take 32

/-- The codes of a stored tile, row by row (R95, R96, R224). -/
def readTile (f : Fmt) (pl : Bool) (aux : Word32) (d : List Byte) : List (List Nat) :=
  if pl then toRows (planesToElems f d)
  else toRows (unpack f 1024 (if swizzled f aux then swizzle f d else d))

/-- The bytes of a tile in a form (R95, R96, R224). -/
def writeTile (f : Fmt) (pl : Bool) (aux : Word32) (rows : List (List Nat)) : List Byte :=
  if pl then elemsToPlanes f rows
  else
    let d := pack f rows.flatten
    if swizzled f aux then swizzle f d else d

/-- Rows exchanged with columns. -/
def transpose {α : Type} (z : α) (rows : List (List α)) : List (List α) :=
  (List.range 32).map fun j => rows.map fun r => (r[j]?).getD z

/-- A source tile token is refused with F_FORMAT: reserved bits, or a slot beyond the buffer's count (R28). -/
def tokBad (c : Ctx) (s : State) (t : TileTok) : Bool :=
  t.res != 0 || match s.bufOf c.t t.buf with
  | some (_, b) => b.count ≤ t.slot
  | none => false

/-- F_FORMAT on tile tokens: in a resident block with CV 1 the token goes to the conversion slot (R237). -/
def fmtEff (c : Ctx) (left : Bool) (tok : Word) : Eff :=
  match c.t.kind with
  | .iteration _ => if c.b.ext.getLsbD 31 then .divert left tok else .fault { code := .format }
  | .ordinary => .fault { code := .format }

/-- The stored bytes of a source tile. -/
def tileBytes (c : Ctx) (s : State) (t : TileTok) : List Byte :=
  match s.bufOf c.t t.buf with
  | none => []
  | some (_, b) => s.viewN c.k c.t.pav (b.slotKey t.slot) t.fmt.tileBytes

/-- The stored codes of a source tile. -/
def tileRows (c : Ctx) (s : State) (t : TileTok) : List (List Nat) := readTile t.fmt t.pl t.aux (tileBytes c s t)

/-- A word of a source tile is poisoned (R425). -/
def tilePoisoned (c : Ctx) (s : State) (t : TileTok) : Bool :=
  match s.bufOf c.t t.buf with
  | none => false
  | some (_, b) => s.poisoned (b.slotKey t.slot) t.fmt.tileBytes

/-- The row scales of a narrow tile: scale bytes in the bank of the FE that its token names, 0 with NOSC (R89; the codes stand in the
token's buffer, whatever FE it names: DESIGN CHOICE, log 69). -/
def rowScales (c : Ctx) (s : State) (fe : Nat) (f : Fmt) (aux : Word32) : List Int :=
  if !f.isNarrow || nosc aux then List.replicate 32 0
  else (List.range 32).map fun i => signedOf 8 (s.view c.k c.t.pav (bankKey c.t.pav fe + scaddr aux + i)).toNat

/-- A word of a narrow tile's row scales is poisoned (R425). -/
def scalesPoisoned (c : Ctx) (s : State) (fe : Nat) (f : Fmt) (aux : Word32) : Bool :=
  f.isNarrow && !nosc aux && s.poisoned (bankKey c.t.pav fe + scaddr aux) 32

/-- TLD (R225). -/
def execTld (p : Pred) (a b : Target) (s : State) : Out :=
  fireEff p .left a b (fun c s l _ _ =>
    let t := tileTok l
    match s.bufOf c.t t.buf with
    | none => .fault { code := .resource }
    | some (_, bf) =>
      if bf.count ≤ t.slot then .fault { code := .resource }
      else if t.res ≠ 0 ∨ t.fe ≠ 0 ∨ bf.size < t.fmt.tileBytes ∨ auxBad t.fmt t.pl t.aux then fmtEff c true l
      else if bf.filled ≤ t.slot then .wait
      else .val s { t with fe := bf.fe, slot := bf.cons t.slot }.word) s

/-- A destination spec (R226). -/
structure DstSpec where
  fmt : Fmt
  pl  : Bool
  rm  : Bool
  scauto : Bool
  res : Nat
  buf : Nat
  k   : Nat
  aux : Word32

def dstSpec (w : Word) : DstSpec :=
  ⟨Fmt.ofTag (bits w 63 61), bit w 60, bit w 59, bit w 58, bits w 57 52, bits w 51 47, bits w 46 32, w.setWidth 32⟩

/-- The token of a tile written by a destination spec into a physical slot. -/
def DstSpec.token (d : DstSpec) (b : BufRec) : Word :=
  TileTok.word ⟨d.fmt, d.pl, 0, b.fe, d.buf, b.prod d.k, d.aux⟩

/-- A tile stored into producer-side slot K of the destination. -/
def storeTile (s : State) (d : DstSpec) (b : BufRec) (rows : List (List Nat)) : State :=
  s.writeHome (b.slotKey (b.prod d.k)) (writeTile d.fmt d.pl d.aux rows)

/-- The frame of TST and TLDT (R226). -/
def tileMove (p : Pred) (a b : Target) (scaleBad : TileTok → DstSpec → Bool)
    (f : Ctx → State → TileTok → DstSpec → BufRec → State) (s : State) : Out :=
  fireEff p .both a b (fun c s l r _ =>
    let t := tileTok l
    let d := dstSpec r
    if d.res ≠ 0 then .fault illegal
    else match s.bufOf c.t t.buf, s.bufOf c.t d.buf with
      | some _, some (_, bf) =>
        if bf.count ≤ d.k then .fault { code := .resource }
        else if tokBad c s t || d.fmt != t.fmt || d.rm || d.scauto || bf.size < d.fmt.tileBytes
            || auxBad t.fmt t.pl t.aux || auxBad d.fmt d.pl d.aux || scaleBad t d then fmtEff c true l
        else if bf.room ≤ d.k then .wait
        else if tilePoisoned c s t || scalesPoisoned c s t.fe t.fmt t.aux then .fault { code := .uncorr }
        else .val (f c s t d bf) (d.token bf)
      | _, _ => .fault { code := .resource }) s

/-- TST (R226): a narrow format's 32 scale bytes are copied. -/
def execTst (p : Pred) (a b : Target) (s : State) : Out :=
  tileMove p a b (fun t d => t.fmt.isNarrow && nosc t.aux != nosc d.aux)
    (fun c s t d bf =>
      let rows := tileRows c s t
      let sc := rowScales c s t.fe t.fmt t.aux
      let s := storeTile s d bf rows
      if t.fmt.isNarrow && !nosc t.aux then
        s.writeHome (bankKey c.t.pav bf.fe + scaddr d.aux) (sc.map fun e => BitVec.ofInt 8 e)
      else s) s

/-- TLDT (R226): the transpose; a narrow tile needs NOSC on both sides. -/
def execTldt (p : Pred) (a b : Target) (s : State) : Out :=
  tileMove p a b (fun t d => t.fmt.isNarrow && !(nosc t.aux && nosc d.aux))
    (fun c s t d bf => storeTile s d bf (transpose 0 (tileRows c s t))) s

/-! ### Accumulators -/

/-- An accumulator token (R227). -/
structure AccTok where
  tag  : Nat
  fe   : Nat
  acc  : Nat
  zero : Bool

def accTok (w : Word) : AccTok :=
  ⟨bits w 63 61, bits w 55 52, bits w 51 50, bits w 49 0 == 0 && !bit w 60 && bits w 59 56 == 4⟩

def accWord (tag fe acc : Nat) : Word := BitVec.ofNat 64 (tag * 2 ^ 61 + 4 * 2 ^ 56 + fe * 2 ^ 52 + acc * 2 ^ 50)

/-- F_FORMAT of an accumulator token (R227). -/
def AccTok.fmtBad (t : AccTok) : Bool := 2 < t.tag || (t.tag == 2 && t.acc % 2 == 1)

/-- The accumulators that a token of a format names: one, or an even-odd pair for FP64 (R98). -/
def accIds (pav fe acc : Nat) (fp64 : Bool) : List Nat :=
  if fp64 then [accId pav fe acc, accId pav fe (acc + 1)] else [accId pav fe acc]

/-- The codes of a working accumulator, row by row; an FP64 element takes its low word from the even one (R98). -/
def accRows (s : State) (pav fe acc : Nat) (fp64 : Bool) : List (List Nat) :=
  let w (a i j : Nat) : Nat := leNat (Memory.readN s.accW (accKey (accId pav fe a) + 4 * (32 * i + j)) 4)
  (List.range 32).map fun i => (List.range 32).map fun j =>
    if fp64 then w acc i j + 2 ^ 32 * w (acc + 1) i j else w acc i j

/-- The 4,096 bytes of an accumulator, one 4-byte word for each element. -/
def putAcc (m : List Host.Cell) (id : Nat) (words : List Nat) : List Host.Cell :=
  Memory.writeCells (Memory.clear m (accKey id) 4096)
    (((List.range 4096).zip (words.flatMap fun v => toLe 4 v)).map fun x => (accKey id + x.1, x.2))

/-- A working accumulator written. -/
def State.setAcc (s : State) (pav fe acc : Nat) (fp64 : Bool) (rows : List (List Nat)) : State :=
  if fp64 then
    let low := putAcc s.accW (accId pav fe acc) (rows.flatten.map fun v => v % 2 ^ 32)
    { s with accW := putAcc low (accId pav fe (acc + 1)) (rows.flatten.map fun v => v / 2 ^ 32) }
  else { s with accW := putAcc s.accW (accId pav fe acc) rows.flatten }

/-- Another strand of the task writes one of the accumulators in its current region, or wrote it in a region that this one has
overlapped (R29, R290). -/
def accOverlap (c : Ctx) (s : State) (ids : List Nat) : Bool :=
  (s.task c.t.task).determ && (ids.any c.t.region.rivals.contains || (List.range s.strands.length).any fun k =>
    k != c.k && match s.strand k with
    | some u => u.task == c.t.task && u.state != .ended && ids.any u.region.accs.contains
    | none => false)

/-- The region has written these accumulators (R29). -/
def State.touchAcc (s : State) (k : Nat) (ids : List Nat) : State :=
  s.modStrand k fun t => { t with region := { t.region with
    accs := t.region.accs ++ ids.filter fun i => !t.region.accs.contains i } }

/-- Sticky overflow bits of working accumulators (R101). -/
def State.clearSticky (s : State) (ids : List Nat) : State := { s with stickyW := s.stickyW.filter fun i => !ids.contains i }
def State.setSticky (s : State) (id : Nat) : State :=
  if s.stickyW.contains id then s else { s with stickyW := s.stickyW ++ [id] }

/-- A zero tile. -/
def zeroRows : List (List Nat) := List.replicate 32 (List.replicate 32 0)

/-- TZERO (R227). -/
def execTzero (p : Pred) (a b : Target) (s : State) : Out :=
  fireEff p .left a b (fun c s l _ _ =>
    let t := accTok l
    let f64 := t.tag == 2
    let ids := accIds c.t.pav t.fe t.acc f64
    if !t.zero then .fault illegal
    else if t.fmtBad then .fault { code := .format }
    else if accOverlap c s ids then .fault { code := .overlap }
    else .val (((s.setAcc c.t.pav t.fe t.acc f64 zeroRows).clearSticky ids).touchAcc c.k ids) l) s

/-- The accumulator format of an operand pair (R98): none for a pair that is not accepted. -/
def pairAcc (x y : Fmt) (scale : Bool) : Option Fmt :=
  if x = y ∧ x.isFloat then (if scale then none else if x = .fp64 then some .fp64 else some .fp32)
  else
    let small (f : Fmt) : Bool := f == .int8 || f == .int4
    if small x && small y then some (if scale then .fp32 else .int32)
    else if (x == .ps8 && small y) || (small x && y == .ps8) then some .fp32
    else none

/-- What a TMMA operand is (R229). -/
inductive MmaOp where
  | tile (t : TileTok)
  | gen (g : Gen) (row0 col0 : Nat)

def MmaOp.fmt : MmaOp → Fmt
  | .tile t => t.fmt
  | .gen g _ _ => g.fmt

/-- An operand decoded; its fault otherwise (R202, R229). -/
def mmaOperand (c : Ctx) (s : State) (w : Word) : Except FaultCode MmaOp :=
  match bits w 59 56 with
  | 0 =>
    let t := tileTok w
    match s.bufOf c.t t.buf with
    | none => .error .resource
    | some (_, b) => if b.count ≤ t.slot then .error .format else .ok (.tile t)
  | 8 =>
    match s.gen c.t (bits w 63 60) with
    | none => .error .resource
    | some g =>
      if bits w 3 0 ≠ 0 then .error .format else .ok (.gen g (32 * bits w 55 30) (32 * bits w 29 4))
  | _ => .error .format

/-- The exact elements of an operand as it is stored or generated, truncated to p planes, with row scales where they apply
(R97, R98, R99, R111). `tr` exchanges the two coordinates before a generator's origin is added: the transpose of the same matrix
(R111, R294). -/
def mmaElems (c : Ctx) (s : State) (o : MmaOp) (p : Nat) (scaled tr : Bool) : List (List Num) :=
  match o with
  | .tile t =>
    let sc := if scaled then rowScales c s t.fe t.fmt t.aux else List.replicate 32 0
    let rows := ((tileRows c s t).zip sc).map fun r => r.1.map fun v => (truncPlanes t.fmt p v).scale r.2
    if tr then transpose (.fin false 0 0) rows else rows
  | .gen g row0 col0 =>
    (List.range 32).map fun i => (List.range 32).map fun j =>
      truncPlanes g.fmt p (if tr then g.at (row0 + j) (col0 + i) else g.at (row0 + i) (col0 + j))

/-- A finite number as an integer. -/
def Num.toInt : Num → Int
  | .fin s m e => floorInt s m e
  | _ => 0

/-- The AUX of an operand whose layout or scales the TMMA reads is refused (R89, R224). -/
def MmaOp.auxBad (scaled : Bool) : MmaOp → Bool
  | .tile t => if t.fmt.isNarrow && !scaled then swizBad t.fmt t.aux else Machine.auxBad t.fmt t.pl t.aux
  | .gen .. => false

/-- A poisoned source tile, or poisoned row scales where they are read. -/
def MmaOp.poisoned (c : Ctx) (s : State) (scaled : Bool) : MmaOp → Bool
  | .tile t => tilePoisoned c s t || (scaled && scalesPoisoned c s t.fe t.fmt t.aux)
  | .gen .. => false

def MmaOp.isTile : MmaOp → Bool
  | .tile _ => true
  | .gen .. => false

/-- A product of stored codes without a sign of zero: the integers and PS8 have no −0 (R84, R90, R100). -/
def Num.unsignZero (x : Num) : Num := if x.isZero then .fin false 0 0 else x

/-- The new working values, and whether an INT32 element left its range (R99 to R101); `narrow`: the operands' formats have no −0. -/
def mmaResult (acc : Fmt) (base : List (List Nat)) (ra cb : List (List Num)) (accum : Bool) (narrow : Bool) : List (List (Nat × Bool)) :=
  (base.zip ra).map fun r => (r.1.zip cb).map fun x =>
    if acc = .int32 then
      mmaInt (if accum then signedOf 32 x.1 else 0) ((r.2.zip x.2).map fun q => (q.1.mul q.2).toInt)
    else
      (mmaFloat acc (if accum then decodeF acc x.1 else .fin false 0 0)
        ((r.2.zip x.2).map fun q => if narrow then (q.1.mul q.2).unsignZero else q.1.mul q.2), false)

/-- TMMA (R97 to R101, R228 to R230). -/
def execTmma (a b : Target) (s : State) : Out :=
  fireEff .always .three a b (fun c s l r ctl =>
    let fe := bits ctl 63 60
    let acc := bits ctl 59 58
    let scale := bit ctl 54
    let pa := bits ctl 53 47 + 1
    let pb := bits ctl 46 40 + 1
    if bits ctl 39 0 ≠ 0 then .fault illegal
    else match mmaOperand c s l, mmaOperand c s r with
      | .error .resource, _ => .fault { code := .resource }
      | _, .error .resource => .fault { code := .resource }
      | .error _, .ok y => if bits l 59 56 = 0 then fmtEff c true l else
          if y.isTile then fmtEff c false r else .fault { code := .format }
      | .error _, .error _ => if bits l 59 56 = 0 then fmtEff c true l else
          if bits r 59 56 = 0 then fmtEff c false r else .fault { code := .format }
      | .ok x, .error _ => if x.isTile then fmtEff c true l else
          if bits r 59 56 = 0 then fmtEff c false r else .fault { code := .format }
      | .ok x, .ok y =>
        let bad : Eff := if x.isTile then fmtEff c true l else if y.isTile then fmtEff c false r
          else .fault { code := .format }
        match pairAcc x.fmt y.fmt scale with
        | none => bad
        | some f =>
          let scaled := f == .fp32 && !x.fmt.isFloat
          let f64 := f == .fp64
          let ids := accIds c.t.pav fe acc f64
          if x.fmt.sig < pa || y.fmt.sig < pb || (f64 && acc % 2 == 1) || x.auxBad scaled || y.auxBad scaled then bad
          else if x.poisoned c s scaled || y.poisoned c s scaled then .fault { code := .uncorr }
          else if accOverlap c s ids then .fault { code := .overlap }
          else
            let accum := bit ctl 57
            let ra := mmaElems c s x pa scaled (bit ctl 56)
            let cb := transpose (.fin false 0 0) (mmaElems c s y pb scaled (bit ctl 55))
            let res := mmaResult f (accRows s c.t.pav fe acc f64) ra cb accum (!x.fmt.isFloat)
            let spilled := f == .int32 && res.any fun row => row.any fun e => e.2
            let s := if accum then s else s.clearSticky ids
            let s := if spilled then s.setSticky (accId c.t.pav fe acc) else s
            let s := s.setAcc c.t.pav fe acc f64 (res.map fun row => row.map fun e => e.1)
            .val (s.touchAcc c.k ids) (accWord f.tag fe acc)) s

/-- The source of TCVT: exact rows, or why it is refused. -/
def tcvtSource (c : Ctx) (s : State) (l : Word) : Except FaultCode (List (List Num)) :=
  if bits l 59 56 = 4 then
    let t := accTok l
    if !t.zero then .error .illegal
    else if t.fmtBad then .error .format
    else
      let f := Fmt.ofTag t.tag
      .ok ((accRows s c.t.pav t.fe t.acc (t.tag == 2)).map fun r => r.map (decodeElem f))
  else
    let t := tileTok l
    match s.bufOf c.t t.buf with
    | none => .error .resource
    | some _ =>
      if tokBad c s t || auxBad t.fmt t.pl t.aux then .error .format
      else if tilePoisoned c s t || scalesPoisoned c s t.fe t.fmt t.aux then .error .uncorr
      else .ok (((tileRows c s t).zip (rowScales c s t.fe t.fmt t.aux)).map fun r =>
        r.1.map fun v => (decodeElem t.fmt v).scale r.2)

/-- The overflow token (R94). An |x| above the largest finite FP32 value that RNE rounds down to it is taken not to exceed the FP32 range:
the token holds that value (log 85, DESIGN CHOICE). -/
def overflowTok (sat : List Num) : Word :=
  let mag : Nat := if sat.any Num.isNan then Fmt.fp32.nan
    else roundF .fp32 .rne (sat.foldl (fun m x => if m.lt x.abs then x.abs else m) (.fin false 0 0))
  BitVec.ofNat 64 (sat.length * 2 ^ 32 + mag)

/-- TCVT (R231). F_UNCORR of a poisoned source goes before F_FORMAT of the destination's spec, which R427 does not order (log 89, DESIGN
CHOICE). -/
def execTcvt (p : Pred) (a b : Target) (s : State) : Out :=
  fireEff p .both a b (fun c s l r _ =>
    let d := dstSpec r
    let isTile := bits l 59 56 != 4
    let bad : Eff := if isTile then fmtEff c true l else .fault { code := .format }
    if d.res ≠ 0 then .fault illegal
    else match tcvtSource c s l, s.bufOf c.t d.buf with
      | .error .illegal, _ => .fault illegal
      | .error .resource, _ => .fault { code := .resource }
      | _, none => .fault { code := .resource }
      | src, some (_, bf) =>
        if bf.count ≤ d.k then .fault { code := .resource }
        else match src with
          | .error .uncorr => .fault { code := .uncorr }
          | .error _ => bad
          | .ok rows =>
            if (d.scauto && (!d.fmt.isNarrow || nosc d.aux)) || bf.size < d.fmt.tileBytes || auxBad d.fmt d.pl d.aux then bad
            else if bf.room ≤ d.k then .wait
            else if !d.scauto && scalesPoisoned c s bf.fe d.fmt d.aux then .fault { code := .uncorr }
            else
              let rm := RM.ofBit d.rm
              let given := rowScales c s bf.fe d.fmt d.aux
              let scales := if d.scauto then rows.map (chooseScale d.fmt rm) else given
              let res := (rows.zip scales).map fun x => x.1.map fun e => (cvtSat d.fmt rm x.2 e, e)
              let sat := res.flatten.filterMap fun e => if e.1.2 then some e.2 else none
              let s := storeTile s d bf (res.map fun row => row.map fun e => e.1.1)
              let s := if d.scauto then
                  s.writeHome (bankKey c.t.pav bf.fe + scaddr d.aux) (scales.map fun e => BitVec.ofInt 8 e)
                else s
              let s := if b = .none then s.addPerf c.t.pav (16 + bf.fe) sat.length else s
              .ok s (some (.value (d.token bf))) (if sat.isEmpty then none else some (.value (overflowTok sat)))) s

/-- TDRAIN (R233). The staging is the deferred entry's tile; the entry that it takes to its destination is the one checked here. That
s[63] also clears the sticky bit is R233's; R101 names only TZERO and an overwriting TMMA (log 68). -/
def execTdrain (p : Pred) (a b : Target) (s : State) : Out :=
  fireDef p .both a b (fun c s l st _ =>
    let t := accTok l
    let f64 := t.tag == 2
    let f := Fmt.ofTag t.tag
    let ids := accIds c.t.pav t.fe t.acc f64
    let rtbase := c.b.ext.toNat / 2 ^ 8 % 256
    let rtlen := c.b.ext.toNat % 256
    let n := if rtlen = 0 then 256 - rtbase else rtlen
    let idx := rtbase + bits st 62 0 % n
    let e := ((s.sysFor c.t).routes[idx]?).getD 0
    let here := s.stagings.filter fun d => d.srcPav == c.t.pav && d.srcFe == t.fe
    let mine := here.filter fun d => d.strand == c.k && !d.kept
    if !t.zero then .fault illegal
    else if !bit e 63 || bits e 62 60 != 0 || bits e 8 0 != 0 then .fault { code := .resource }
    else if t.fmtBad then .fault { code := .format }
    else if 2 ≤ mine.length then .fault { code := .regionOverflow }
    else if 2 ≤ here.length then .wait
    else if bit st 63 && accOverlap c s ids then .fault { code := .overlap }
    else
      let sticky := ids.any s.stickyW.contains
      let d : Drain := { task := c.t.task, srcPav := c.t.pav, srcFe := t.fe, idx := idx, entry := e, strand := c.k,
                         block := c.b.addr, slot := c.j, tag := c.t.tag, sticky := sticky,
                         data := pack f (accRows s c.t.pav t.fe t.acc f64).flatten }
      let s := { s with stagings := s.stagings ++ [d] }
      let s := if bit st 63 then ((s.setAcc c.t.pav t.fe t.acc f64 zeroRows).clearSticky ids).touchAcc c.k ids else s
      deferEff c s { kind := .tdrain, x := idx } (some (BitVec.ofNat 64 ((if sticky then 256 else 0) + idx)))) s

end Sys2Proof.Machine
end

