-- ==== Sys2Proof/Machine/Matching.lean ====
section
/-! DEFINITION. Matching, selection and indirection at fire (R241 to R266). What arbiters then do stands in
Orangery.lean and EngineEvents.lean. -/

namespace Sys2Proof.Machine

/-! ### Keys and scores -/

/-- An element of an INT8 or UINT8 key (R106). -/
def keyInt (uns : Bool) (b : Byte) : Int := if uns then (b.toNat : Int) else signedOf 8 b.toNat

/-- An integer score (R106). -/
def intScore (uns nl2 : Bool) (q k : List Byte) : Int :=
  (q.zip k).foldl (fun acc x =>
    let a := keyInt uns x.1
    let b := keyInt uns x.2
    if nl2 then acc - (a - b) * (a - b) else acc + a * b) 0

/-- A BF16 score: the tree sum of the exact FP32 products (R106). -/
def floatScore (q k : List Byte) : Nat :=
  let n := Nat.min (q.length / 2) (k.length / 2)
  treeSum .fp32 (((unpack .bf16 n q).zip (unpack .bf16 n k)).map fun x =>
    roundF .fp32 .rne ((decodeF .bf16 x.1).mul (decodeF .bf16 x.2)))

/-- The 32 bits of a score (R106). -/
def Geom.score (g : Geom) (q k : List Byte) : Nat :=
  if g.kfmt = 2 then floatScore q k else bitsOf 32 (intScore (g.kfmt == 1) (g.metric == 1) q k)

/-- A score's value: INT32, or FP32 for BF16 keys (R251). -/
def Geom.scoreNum (g : Geom) (bits : Nat) : Num :=
  if g.kfmt = 2 then decodeF .fp32 bits else Num.ofInt (signedOf 32 bits)

/-- score >= THRESH (R251): a NaN fails. -/
def Geom.passes (g : Geom) (score thresh : Nat) : Bool :=
  !(g.scoreNum score).isNan && !(g.scoreNum thresh).isNan && (g.scoreNum thresh).le (g.scoreNum score)

/-- A list kept in an order and cut to k. -/
def insertBy {α : Type} (before : α → α → Bool) (x : α) : List α → List α
  | [] => [x]
  | y :: t => if before x y then x :: y :: t else y :: insertBy before x t

/-- The first k of a list in an order (R108). -/
def firstK {α : Type} (before : α → α → Bool) (k : Nat) (l : List α) : List α :=
  l.foldl (fun acc x => (insertBy before x acc).take k) []

/-! ### Stores and queries -/

/-- The DOM field names a domain of the task's table (R246, R250). -/
def domBad (c : Ctx) (s : State) (dom : Nat) : Bool := bits (s.sysFor c.t).mdt 8 0 ≤ dom

/-- The checks of a store control (R246); `kdel`: STORE must be zero. -/
def controlChecks (c : Ctx) (s : State) (r : Word) (kdel : Bool) : List (Bool × FaultInfo) :=
  [(bits r 35 0 != 0 || (kdel && bits r 55 44 != 0), illegal), (domBad c s (bits r 63 56), { code := .resource }),
   (bit r 43 && (s.task c.t.task).desc.regs ≤ bits r 42 36, { code := .resource })]

/-- KPUT (R246, R247): the record's physical slots are fixed at fire: x is the first one, and the buffer as it stands. -/
def execKput (p : Pred) (s : State) : Out :=
  fireDef p .both .none .none (fun c s l r _ =>
    let v := vref l
    let run := v.run v.len
    checked ((v.low, illegal) :: controlChecks c s r false ++
        [(runBad c s run, { code := .resource }), (v.fmt != .int8, { code := .format })])
      (match s.bufOf c.t v.buf with
        | none => .fault { code := .resource }
        | some (id, b) =>
          if runReady c s run then deferEff c s { kind := .kput, l := l, r := r, x := b.cons v.k, y := id, buf := some b }
          else .wait)) s

/-- KDEL (R246, R247). -/
def execKdel (p : Pred) (s : State) : Out :=
  fireDef p .both .none .none (fun c s l r _ =>
    checked ((bits l 63 40 != 0, illegal) :: controlChecks c s r true)
      (deferEff c s { kind := .kdel, l := l, r := r })) s

/-- TEMP is negative, −0 excepted, or not finite (R250). -/
def tempBad (temp : Nat) : Bool := match decodeF .fp32 temp with
  | .fin s m _ => s && m != 0
  | _ => true

/-- MATCH and MATCHC at fire (R250): the checks that do not need the domain's geometry; the query's bytes are read. -/
def queryFire (consume : Bool) (a b : Target) (s : State) : Out :=
  fireEff .always .three a b (fun c s l r t =>
    let v := vref l
    let run := v.run v.len
    checked [(v.low || bits r 27 0 != 0 || bits r 49 48 == 3, illegal), (domBad c s (bits r 63 56), { code := .resource }),
             (runBad c s run || (s.bufOf c.t (bits r 47 43)).isNone, { code := .resource }),
             (tempBad (bits t 63 32), { code := .matchF })]
      (if !runReady c s run || (consume && !boundaryReady c s) then .wait
       else if runPoisoned c s run then .fault { code := .uncorr }
       else
         let q : Query := { task := c.t.task, strand := c.k, slot := c.j, block := c.b.addr, tag := c.t.region.tag,
                            consume := consume, r := r, third := t, fmt := v.fmt.tag, len := v.len,
                            bytes := readRun c s v.buf v.k (runBytes v.fmt v.len) }
         let id := s.queries.fresh
         .sent ({ s with queries := s.queries.put id q }.push (.domainGrant id)))) s

/-- MATCH (R250 to R252). -/
def execMatchQ (a b : Target) (s : State) : Out := queryFire false a b s
/-- MATCHC (R250 to R254). -/
def execMatchc (a b : Target) (s : State) : Out := queryFire true a b s

/-- bound(q, page) (R107). -/
def pageBound (uns : Bool) (q lo hi : List Byte) : Int :=
  (q.zip (lo.zip hi)).foldl (fun acc x =>
    acc + imax (keyInt uns x.1 * keyInt uns x.2.1) (keyInt uns x.1 * keyInt uns x.2.2)) 0

/-- MATCHB (R260). -/
def execMatchb (p : Pred) (a b : Target) (s : State) : Out :=
  fireEff p .both a b (fun c s l r _ =>
    let x := vref l
    let y := vref r
    let dim := y.ctl % 256 + 1
    let uns := y.ctl / 256 % 2 == 1
    let kr := roundUp dim 16
    let pages := x.len / (2 * kr)
    vecEff c s (x.low || 512 ≤ y.ctl || x.len % (2 * kr) != 0 || y.len != dim) (x.fmt != .int8 || y.fmt != .int8)
      [x.run x.len, y.run y.len, x.dst (4 * pages)] fun _ =>
        let d := readRun c s x.buf x.k x.len
        let q := readRun c s y.buf y.k y.len
        let out := (List.range pages).flatMap fun j =>
          toLe 4 (bitsOf 32 (pageBound uns q (d.drop (2 * kr * j)) (d.drop (2 * kr * j + kr))))
        vecDone c s x out (completion (x.len != y.len) false false pages)) s

/-- The checks of MDOM (R244). -/
def mdomChecks (c : Ctx) (s : State) (l r : Word) : List (Bool × FaultInfo) :=
  let opc := bits l 63 60
  let g : Geom := ⟨bits l 39 38, bits l 37 37, bits l 36 30 + 1, bits l 21 21, bits l 20 11 + 1⟩
  [(4 < opc || bits l 10 0 != 0 || (opc != 0 && (bits l 39 11 != 0 || r != 0)) || ((opc == 2 || opc == 3) && bits l 51 40 != 0)
     || (opc == 0 && (bits l 39 38 == 3 || (bits l 39 38 == 2 && 64 < g.dim) || (!bit l 21 && bits l 20 11 != 0)
        || bits r 63 61 != 0 || bits r 31 16 != 0)), illegal),
   (opc == 0 && (bits r 5 0 != 0 || 65536 < bits r 15 0 + (bits l 29 22 + 1) * g.e), illegal 8),
   (domBad c s (bits l 59 52), { code := .resource }),
   (opc == 0 && bit l 37 && bits l 39 38 == 2, { code := .matchF })]

/-- MDOM (R244, R245). -/
def execMdom (p : Pred) (s : State) : Out :=
  fireDef p .both .none .none (fun c s l r _ => checked (mdomChecks c s l r) (deferEff c s { kind := .mdom, l := l, r := r })) s

/-! ### Selection (R261) -/

/-- The value of an element for ranking. -/
def rankNum (f : Fmt) (v : Nat) : Num := if f.isFloat then decodeF f v else Num.ofInt (signedOf f.width v)

/-- The first k elements by rank_before, as (index, stored bits). -/
def topElems (f : Fmt) (k : Nat) (l : List Nat) : List (Nat × Nat) :=
  firstK (fun x y => rankBefore (rankNum f x.2) x.1 (rankNum f y.2) y.1) k ((List.range l.length).zip l)

/-- TOPK (R261). -/
def execTopk (p : Pred) (a b : Target) (s : State) : Out :=
  fireEff p .both a b (fun c s l r _ =>
    let x := vref l
    let k := bits r 8 0
    let m := Nat.min k x.len
    vecEff c s (x.low || bits r 63 9 != 0 || k == 0 || 256 < k || 262144 < x.len)
      (!(x.fmt == .int32 || x.fmt == .fp32 || x.fmt == .fp16 || x.fmt == .bf16)) [x.run x.len, x.dst (8 * m)] fun _ =>
        let top := topElems x.fmt k (elems c s x x.len)
        vecDone c s x (top.flatMap fun e => toLe 4 e.2 ++ toLe 4 e.1) (completion false false false m)) s

/-! ### Indirection (R262 to R264) -/

/-- The checks of a table handle (R262). -/
def tableChecks (c : Ctx) (s : State) (l : Word) (more : Bool) : List (Bool × FaultInfo) :=
  [(bits l 63 18 != 0 || more, illegal), (bits (s.sysFor c.t).itb 8 0 ≤ bits l 17 10, { code := .resource })]

/-- ITBL (R263): the bits of the entry that R262 requires to be zero; x is ITB as the region uses it (R269). -/
def execItbl (p : Pred) (s : State) : Out :=
  fireDef p .both .none .none (fun c s l r _ =>
    checked (tableChecks c s l (bits r 62 57 != 0 || (!bit r 63 && bits r 56 0 != 0)))
      (deferEff c s { kind := .itbl, l := l, r := r, x := (s.sysFor c.t).itb.toNat })) s

/-- ITPERM at fire (R264): a boundary instruction. -/
def execItperm (p : Pred) (a b : Target) (s : State) : Out :=
  fireEff p .both a b (fun c s l r _ =>
    checked (tableChecks c s l false ++ s.accessChecks c.t r 2)
      (match s.fireCheck c.t r 2 with
        | some code => .fault { code := code, addr := r }
        | none => if boundaryReady c s then .sent (s.push (.itpermPerform c.k c.j)) else .wait)) s

end Sys2Proof.Machine
end

