-- ==== Sys2Proof/Machine/Blocks.lean ====
section
/-! DEFINITION. The events of a block: a strand placed (R9, R10), a block fetched and checked (R131 to R133), its commit (R17,
R134), a load's return (R165, R167) and the atomics performed at their homes (R174, R175). -/

namespace Sys2Proof.Machine

/-! ### The load check (R131) -/

/-- The consumer in a slot takes the operand of a target (LC10). -/
def takesOperand (i : Instr) : Target → Bool
  | .none => true
  | .left _ => i.uses != .none
  | .right _ => i.uses == .both || i.uses == .three || i.uses == .merge
  | .pred _ => i.pr != .always || i.uses == .three

/-- The instruction of a word, whatever load check it fails. -/
def instrOf (w : Word32) : Option Instr := build w

/-- The instruction that a word's OP and XOP name, whatever its predicate and targets are. -/
def shapeOf (w : Word32) : Option Instr := match formatOf (fOp w).toNat with
  | some .t2 => build (w &&& 0xFCFC0000)
  | some .t1i => build (w &&& 0xFCFFFE00)
  | some .m => build (w &&& 0xFCFFFE00)
  | _ => build w

def isRgn : Instr → Bool
  | .rgn .. => true
  | _ => false

/-- An M word (R122). -/
def isM (w : Word32) : Bool := formatOf (fOp w).toNat == some .m

/-- The first slot whose word fails a check. -/
def firstSlot (words : List Word32) (bad : Nat → Word32 → Bool) : Option Nat :=
  (List.range words.length).find? fun j => bad j ((words[j]?).getD 0)

def Cls.ofWord (w : Word32) : Cls := match instrOf w with
  | some i => i.cls
  | none => .plain

/-- Fields of a header (R129). -/
def hCnt (h : Word32) : Nat := h.toNat / 2 ^ 26
def hRes (h : Word32) : Bool := h.getLsbD 25
def hFent (h : Word32) : Bool := h.getLsbD 24
def hNin (h : Word32) : Nat := h.toNat / 2 ^ 20 % 16
def hBnd (h : Word32) : Bool := h.getLsbD 19
def hNst (h : Word32) : Nat := h.toNat / 2 ^ 13 % 64
def hNwr (h : Word32) : Nat := h.toNat / 2 ^ 7 % 64
def hTerm (h : Word32) : Bool := h.getLsbD 6

/-- LC1. -/
def lc1 (h : Word32) : Bool := h.toNat % 64 != 0 || (!hFent h && hNin h != 0) || (hFent h && hNin h == 0)

/-- LC2 (R130): a word that names no instruction takes no left operand. -/
def lc2 (h ext : Word32) (words : List Word32) : Bool :=
  hRes h &&
    (hFent h || hBnd h || hTerm h || hNwr h != 0 || ext.toNat / 2 ^ 16 % 512 != 0
      || (!ext.getLsbD 31 && ext.toNat / 2 ^ 25 % 64 != 0) || hCnt h < ext.toNat / 2 ^ 25 % 64
      || 256 < ext.toNat / 256 % 256 + ext.toNat % 256
      || (ext.getLsbD 31 && match (words[ext.toNat / 2 ^ 25 % 64]?).bind shapeOf with
          | some i => i.uses == .none
          | none => true))

/-- LC12: the slot that a block's branch-class words, or the want of one, fail at. -/
def lc12 (h : Word32) (words : List Word32) : Option Nat :=
  let br := firstSlot words fun _ w => Cls.ofWord w == .branch
  if hRes h then
    firstSlot words fun _ w => Cls.ofWord w == .branch || Cls.ofWord w == .write
  else if hTerm h then br
  else if br.isNone then some 63 else none

/-- LC13: RGN outside s0, or an s0 that must be RGN. -/
def lc13 (h : Word32) (words : List Word32) : Option Nat :=
  let rgn0 := (instrOf ((words[0]?).getD 0)).any isRgn
  if (hBnd h || hRes h) && !rgn0 then some 0
  else firstSlot words fun j w => j != 0 && (instrOf w).any isRgn

/-- LC14: a boundary instruction outside a boundary block, or a second one in it. DESIGN CHOICE (log 63): of two in a boundary block the
second is the one reported. -/
def lc14 (h : Word32) (words : List Word32) : Option Nat :=
  match (List.range words.length).filter fun j => Cls.ofWord ((words[j]?).getD 0) == .boundary with
  | [] => none
  | [j] => if hBnd h then none else some j
  | j :: j2 :: _ => if hBnd h then some j2 else some j

/-- LC17: a register at or beyond the declared count, or a pair that runs past it. -/
def lc17 (regs : Nat) (w : Word32) : Bool :=
  match instrOf w with
  | some (.read r _ _) => regs ≤ r.toNat
  | some (.write r) => regs ≤ r.toNat
  | some (.readp r _ _) => regs ≤ r.toNat + 1
  | some (.writep r) => regs ≤ r.toNat + 1
  | _ => false

/-- The first of several checks that fails: its code and slot. -/
def firstCheck : List (Nat × Option Nat) → Option (Nat × Nat)
  | [] => none
  | (n, some j) :: _ => some (n, j)
  | (_, none) :: t => firstCheck t

/-- The load check of R131: the first failing check in table order and its slot. DESIGN CHOICE (log 63): LC11, and LC12's want of a
branch, count as header checks and report slot 63. -/
def loadCheck (regs : Nat) (h ext : Word32) (words : List Word32) : Option (Nat × Nat) :=
  let cnt := hCnt h
  let at63 (b : Bool) : Option Nat := if b then some 63 else none
  firstCheck
    [(1, at63 (lc1 h)), (2, at63 (lc2 h ext words)), (3, firstSlot words fun _ w => lc3 w), (4, firstSlot words fun _ w => lc4 w),
     (5, firstSlot words fun _ w => lc5 w), (6, firstSlot words fun _ w => lc6 w), (7, firstSlot words fun _ w => lc7 w),
     (8, firstSlot words fun _ w => lc8 w),
     (9, firstSlot words fun j w => (wordTargets w).any fun t => cnt < t.slot || t.slot == j),
     (10, firstSlot words fun _ w => (wordTargets w).any fun t =>
        !((words[t.slot]?).bind instrOf).any fun i => takesOperand i t),
     (11, at63 ((words.filter fun w => Cls.ofWord w == .store).length != hNst h
        || (words.filter fun w => Cls.ofWord w == .write).length != hNwr h)),
     (12, lc12 h words), (13, lc13 h words), (14, lc14 h words),
     (15, firstSlot words fun j w => isM w && (words.take j).any fun v => isM v && fXop v == fXop w),
     (16, firstSlot words fun _ w => lc16 w), (17, firstSlot words fun _ w => lc17 regs w)]

/-- The fault of a load check (R131, R320). -/
def lcFault (n : Nat) : FaultInfo :=
  { code := if 3 ≤ n ∧ n ≤ 7 then .illegal else if n = 17 then .resource else .blockFormat, sub := 15 + n }

/-! ### Placing a strand (R9, R10) -/

/-- A strand that holds a place. -/
def Strand.resident (t : Strand) : Bool := t.kind == .ordinary && t.state != .waiting && t.state != .ended

/-- A free place of a pavilion, the lowest first. -/
def State.freePlace (s : State) (pav : Nat) : Option Nat :=
  (List.range 16).find? fun p => !s.strands.any fun t => t.resident && t.pav == pav && t.place == p

/-- The pavilions that may take a waiting strand: in the strand's pavilion or its grove (R277, R279, R281). -/
def State.mayPlace (s : State) (t : Strand) (pav : Nat) : Bool :=
  s.usable pav && (s.task t.task).groves.contains (groveOf pav) && (s.task t.task).status == .running &&
  (match t.reach with
    | .pavilion => pav == t.pav
    | .grove => groveOf pav == groveOf t.pav)

/-- A strand's record (R364). -/
def strandImage (t : Strand) (logPav : Nat) : List Byte :=
  let w (x : Word) : List Byte := toLe 8 x.toNat
  let bar : Nat × Nat := match t.barrier with
    | some b => ((if b.scope = 4 then b.home * 2 ^ 48 else 0) + b.nm1 * 2 ^ 16 + b.scope * 2 ^ 8 + b.bar, b.gen.toNat)
    | none => (0, 0)
  w t.fp ++ w t.region.ip ++ w t.tag
    ++ toLe 8 (t.rcnt.toNat + t.place * 2 ^ 8 + logPav / 16 * 2 ^ 12 + logPav % 16 * 2 ^ 20 + (if t.yieldMark then 2 ^ 24 else 0)
        + (if t.barrier.isSome then 2 ^ 25 else 0))
    ++ w t.poolBase ++ w t.poolPtr ++ toLe 8 bar.1 ++ toLe 8 bar.2 ++ List.replicate 192 (0 : Byte)
    ++ t.regs.toList.flatMap w
    ++ ((List.range 32).flatMap fun i => toLe 8 (((t.bufs.find i).map fun b => 2 ^ 63 + b).getD 0))
    ++ ((List.range 16).flatMap fun i => match t.gens.find i with
        | some (g : Word × Word) => w g.1 ++ w g.2
        | none => List.replicate 16 0)
    ++ List.replicate 256 (0 : Byte)

/-- The strand section of a task's save area, and the strand records that it holds (R363). -/
def Desc.strandBase (d : Desc) : Nat := d.save + 2 ^ 20 + d.groves * 21299200
def Desc.strandRoom (d : Desc) : Nat := (d.saveMb * 2 ^ 20 - (2 ^ 20 + d.groves * 21299200)) / 2048

/-- Strands of a task that its token store holds (R363). -/
def State.stored (s : State) (task : Nat) : List Strand :=
  s.strands.filter fun t => t.task == task && t.kind == .ordinary && t.state == .waiting

/-- A strand begins to wait for a place: it is kept in the token store, in the lowest place that is free there (R9, R363). -/
def State.storeToken (s : State) (k : Nat) : State :=
  match s.strand k with
  | none => s
  | some t =>
    let d := (s.task t.task).desc
    let used := (s.stored t.task).map (·.record)
    match if d.saveMb = 0 then none else (List.range d.strandRoom).find? fun n => !used.contains n with
    | none => s.setStrand k { t with state := .waiting }
    | some n => (s.setStrand k { t with state := .waiting, record := n }).unitWrite (d.strandBase + 2048 * n)
        (strandImage t ((s.task t.task).logPav t.pav))

/-- STRAND_PLACE (R9, R10). -/
def execStrandPlace (k pav : Nat) (s : State) : Out :=
  .next (match s.strand k with
    | none => s
    | some t => match s.freePlace pav with
      | none => s
      | some p =>
        if t.kind == .ordinary && t.state == .waiting && s.mayPlace t pav then
          let g := (s.placeGen.find (pav * 16 + p)).getD 0 + 1
          { s.setStrand k { t with pav := pav, place := p, gen := g, state := .ready, reach := .grove } with
            placeGen := s.placeGen.put (pav * 16 + p) g }
        else s)

/-! ### Fetching a block -/

/-- The fault that stands for the start of a region, as its record is filled (R40, R429). -/
def Strand.startFault (t : Strand) : Option RaisedFault :=
  t.pendFault.map fun f => if t.pendHere then ⟨f.info, t.region.ip, 0⟩ else f

/-- A strand waits in memory for a place in a pavilion whose places are all taken (R147). -/
def State.placeWanted (s : State) (pav : Nat) : Bool :=
  (s.freePlace pav).isNone && s.strands.any fun t => t.kind == .ordinary && t.state == .waiting && s.mayPlace t pav

/-- What a word at a flat address gives a fetch. -/
inductive FetchRes where
  | ok (w : Word32)
  | miss (badpte : Bool) (va : Word)
  | fault (f : FaultInfo)
  | wait

/-- One word of a fetch, translated on its own page (R132), at its page's owner (R326). -/
def State.fetchWord (s : State) (k : Nat) (t : Strand) (va : Word) : FetchRes :=
  match s.flat t.pav t.task (mod57 va).toNat .fetch with
  | .miss b => .miss b va
  | .fault c => .fault { code := c, addr := va }
  | .ok named => match s.serve named 4 with
    | .wait => .wait
    | .lost => .fault { code := .uncorr, addr := va }
    | .key key => .ok (BitVec.ofNat 32 (leNat (s.viewN k t.pav key 4)))

/-- What a fetch finds. -/
inductive Fetched where
  | block (h ext : Word32) (words : List Word32)
  | miss (badpte : Bool) (va : Word)
  | fault (f : FaultInfo)
  | wait

/-- n words from an address on. DESIGN CHOICE (log 105): past the top of the flat space the words go on at address 0. -/
def State.fetchWords (s : State) (k : Nat) (t : Strand) : Nat → Word → List Word32 → Except FetchRes (List Word32)
  | 0, _, acc => .ok acc.reverse
  | n + 1, va, acc =>
    match s.fetchWord k t va with
    | .ok w => s.fetchWords k t n (mod57 (va + 4)) (w :: acc)
    | r => .error r

/-- The block at an address, from memory. -/
def State.fetchBlock (s : State) (k : Nat) (t : Strand) (addr : Word) : Fetched :=
  let fail (r : FetchRes) : Fetched := match r with
    | .miss b va => .miss b va
    | .fault f => .fault f
    | _ => .wait
  match s.fetchWord k t addr with
  | .ok h =>
    match s.fetchWords k t (hCnt h + 1 + (if hRes h then 1 else 0)) (mod57 (addr + 4)) [] with
    | .ok ws => if hRes h then .block h ((ws[0]?).getD 0) (ws.drop 1) else .block h 0 ws
    | .error r => fail r
  | r => fail r

/-- The block of a window, or of memory. -/
def State.blockAt (s : State) (k : Nat) (t : Strand) : Fetched :=
  match s.windows.find? fun w => w.pav == t.pav && w.task == t.task && w.addr == t.ip with
  | some w => .block w.hdr 0 w.words
  | none => s.fetchBlock k t t.ip

/-- A fabric page stands on a pavilion. -/
def State.holdsPage (s : State) (pav : Nat) : Bool := s.tasks.any fun t => t.pages.any fun n => s.physPav t n == some pav

/-- The block windows that ordinary strands of a pavilion use: 8 of the 32 where a fabric page takes the others (R301, R352). -/
def State.windowRoom (s : State) (pav : Nat) : Nat := if s.holdsPage pav then 8 else 32

/-- The windows with room for n more of a pavilion. DESIGN CHOICE (log 75): those kept longest make room. -/
def State.makeWindows (s : State) (pav n : Nat) : State :=
  let extra := (s.windows.filter fun x => x.pav == pav).length + n - s.windowRoom pav
  { s with windows := ((s.windows.filter fun x => x.pav == pav).take extra).foldl List.erase s.windows }

/-- A checked block kept in its pavilion's windows (R133, R301, R352). -/
def State.keepWindow (s : State) (w : Window) : State :=
  let s := s.makeWindows w.pav 1
  { s with windows := s.windows ++ [w] }

/-- The windows of the pavilions on which a task's pages stand, as far as they are left to strands (R352). -/
def State.pageWindows (s : State) (task : Nat) : State :=
  (s.task task).pages.foldl (fun s n => match s.physPav (s.task task) n with
    | some pav => s.makeWindows pav 0
    | none => s) s

/-- The scope, class and flags of the RGN in slot 0 (R171). -/
def rgnOf (words : List Word32) : Option (Nat × Nat × Bool × Bool) :=
  match instrOf ((words[0]?).getD 0) with
  | some (.rgn sc c d e) => some (sc.toNat, c.toNat, d, e)
  | _ => none

/-- The region that a block opens (R171, R39): class 15 and no flags without RGN. A region that is entered again keeps its age (log 60)
and the task registers that it uses (R269). -/
def openRegion (t : Strand) (age : Nat) (sys : SysRegs) (b : BlockRun) : Region :=
  let r : Region := { ip := b.addr, fp := t.fp, tag := t.tag, poolPtr := t.poolPtr, bnd := hBnd b.hdr, young := t.yieldMark,
                      age := if t.region.entered then t.region.age else t.nextAge.getD age,
                      sys := if t.region.entered then t.region.sys else sys, entered := true }
  match rgnOf b.words with
  | some (_, c, d, e) => { r with cls := c, drainPref := d, efence := e }
  | none => r

/-- The strand's publishes and logged lines are all performed. -/
def State.publishesDone (s : State) (k : Nat) (t : Strand) : Bool := t.queue.isEmpty && !(s.sideLog.any fun e => e.strand == k)

/-- A region may open with a block: a boundary block begins only once the earlier publishes are complete (R40, R324), and a strand that
YIELD sends back to WAITING first has all of its lines performed (R276). -/
def State.mayOpen (s : State) (k : Nat) (t : Strand) (h : Word32) : Bool :=
  (!hBnd h || s.publishesDone k t) && (!(t.yieldMark && s.placeWanted t.pav) || s.publishesDone k t)

/-- A region opens with a fetched block: a fault that stands for its start is raised, and a discard that an earlier publish put off is
made (R46); YIELD's mark acts (R147). DESIGN CHOICE (log 107): a marked strand that goes back to WAITING loses the mark, and the region it
begins once it is placed again keeps the age of this fetch. -/
def State.startRegion (s : State) (k : Nat) (b : BlockRun) : State :=
  match s.strand k with
  | none => s
  | some t =>
    let marked := t.yieldMark
    let r := openRegion t s.ages (s.sysNow t.task) b
    let s := { s with ages := s.ages + 1 }.setStrand k
      { t with region := r, block := some b, phase := .run, state := .ready, yieldMark := false, bndBegun := false, nextAge := none,
               owed := none, liveIn := 0, written := 0 }
    match ({ t with region := r } : Strand).startFault with
    | some f => (s.modStrand k fun t => { t with pendFault := none, pendHere := false }).takeFault k f
    | none =>
      match t.owed with
      | some noted => if noted then s.softDiscard k else s.discardReenter k
      | none =>
      if marked && s.placeWanted t.pav then
        (s.modStrand k fun t =>
          { t with state := .ready, block := none, phase := .fetch, region := { t.region with young := false } }).storeToken k
      else s

/-- A fetched block opens the strand's region once it may; a strand that YIELD sends back to WAITING has its lines carried to device
scope first (R276). -/
def State.openWith (s : State) (k : Nat) (t : Strand) (b : BlockRun) : State :=
  if !s.mayOpen k t b.hdr then s
  else if t.yieldMark && s.placeWanted t.pav && !(s.narrower k 3).isEmpty then s.widen k 3
  else s.startRegion k b

/-- BLOCK_FETCH (R34, R39, R131, R132, R171, R172). DESIGN CHOICE (log 104): a strand that comes to a block with RES 1 fires it outside
any iteration; no window keeps it and, as R136 gives it no commit condition, it ends in a block stall. -/
def execBlockFetch (k : Nat) (s : State) : Out :=
  .next (match s.strand k with
    | none => s
    | some t =>
      if t.kind != .ordinary || t.state != .ready || t.phase != .fetch || t.block.isSome
          || (t.region.first && (s.task t.task).status != .running) then s
      else if bits t.ip 1 0 != 0 then s.takeFault k ⟨{ code := .align, addr := t.ip }, t.ip, 63⟩
      else match if t.region.first then t.startFault else none with
      | some f => (s.setStrand k { t with pendFault := none, pendHere := false }).takeFault k f
      | none =>
        let closeBnd (s : State) : State := s.modStrand k fun t => { t with phase := .close 4 }
        let ends := t.region.bnd && !t.region.first
        let kept := ends && t.region.kept
        match s.blockAt k t with
        | .wait => s
        | .miss b va => if kept then closeBnd s else s.parkPage k va b t.ip 63
        | .fault f => if kept then closeBnd s else s.takeFault k ⟨f, t.ip, 63⟩
        | .block h ext words =>
          match loadCheck (s.task t.task).desc.regs h ext words with
          | some (n, j) => if kept then closeBnd s else s.takeFault k ⟨lcFault n, t.ip, j⟩
          | none =>
            let s := (List.range (words.length + 1)).foldl (fun s i =>
              s.cache t.pav t.task (mod57 (t.ip + BitVec.ofNat 64 (4 * i))).toNat) s
            let w : Window := ⟨t.pav, t.task, t.ip, h, words⟩
            let s := if hRes h || s.windows.contains w then s else s.keepWindow w
            let b : BlockRun := { addr := t.ip, hdr := h, ext := ext, words := words, slots := List.replicate words.length {} }
            match rgnOf words with
            | some (sc, _) =>
              if t.region.first then s.openWith k t b
              else
                { s with ages := s.ages + 1 }.modStrand k fun t =>
                  { t with block := some b, bndBegun := true, nextAge := some s.ages, phase := .close sc }
            | none =>
              if t.region.first then s.openWith k t b
              else if ends then
                { s with ages := s.ages + 1 }.modStrand k fun t =>
                  { t with block := some b, bndBegun := true, nextAge := some s.ages, phase := .close 4 }
              else s.modStrand k fun t => { t with block := some b, phase := .run })

/-! ### Commit -/

/-- Two ranges of a line overlap. -/
def overlaps (a n b m : Nat) : Bool := a < b + m && b < a + n

/-- Some later line is a reduction of a byte among those at `off` (R176). -/
def redAfter (va : Word) (off n : Nat) (l : List SbLine) : Bool :=
  l.any fun x => x.va == va && match x.kind with
    | .red _ w o _ => overlaps o (wBytes w) off n
    | _ => false

/-- A line holds bytes of an address's line. -/
def SbLine.bytesOf (x : SbLine) (va : Word) : Bool := x.va == va && match x.kind with
  | .bytes _ => true
  | .red .. => false

/-- Bytes taken into a region store buffer: into the line that already holds that address, the latest of them, unless a reduction of one
of the bytes was created after it (R32, R166, R176). -/
def sbPut (a : Word) (d : List Byte) : List SbLine → List SbLine
  | [] => [{ va := lineOf a, kind := .bytes (cells a d) }]
  | x :: t =>
    match x.kind with
    | .bytes cs =>
      if x.va = lineOf a ∧ !t.any (·.bytesOf (lineOf a)) ∧ !redAfter (lineOf a) (bits a 5 0) d.length t then
        { x with kind := .bytes ((cells a d).foldl (fun m c => m.put c.1 c.2) cs) } :: t
      else x :: sbPut a d t
    | .red .. => x :: sbPut a d t
where
  cells (a : Word) (d : List Byte) : Tab Byte := (List.range d.length).zip d |>.map fun c => (bits a 5 0 + c.1, c.2)

/-- A block's stores in LSID order. -/
def storesInOrder (l : List StoreRes) : List StoreRes := firstK (fun a b => a.lsid < b.lsid) 64 l

/-- The region store buffer after a block's stores, its link stores and its reductions (R145, R166, R176). DESIGN CHOICE (log 62): the
return address is taken modulo 2^57, as every block address is. DESIGN CHOICE (log 106): the link stores stand behind the block's own
stores, so a link word that both write holds the link. -/
def commitLines (b : BlockRun) (fp : Word) (lines : List SbLine) : List SbLine :=
  let l := (storesInOrder b.stores).foldl (fun l st => match st.data with
    | some d => sbPut st.addr d l
    | none => l) lines
  let l := match b.branch with
    | some (_, .call _ f) =>
      if f = 0 then l
      else sbPut (f - 32) (toLe 8 (mod57 (b.addr + BitVec.ofNat 64 (4 * (hCnt b.hdr + 2)))).toNat) (sbPut (f - 40) (toLe 8 fp.toNat) l)
    | _ => l
  let reds := firstK (fun (a b : RedRes) => a.slot < b.slot) 64 b.reds
  l ++ reds.map fun r => { va := lineOf r.addr, kind := .red r.op r.w (bits r.addr 5 0) r.val }

/-- Every declared write and store and every deferred instruction of the block is resolved (R17, R134). -/
def BlockRun.resolved (b : BlockRun) : Bool :=
  (List.range b.words.length).all fun j =>
    match Cls.ofWord ((b.words[j]?).getD 0) with
    | .write | .store | .deferred => ((b.slots[j]?).getD {}).status == .done
    | _ => true

/-- The commit condition (R17): resolved, and exactly one branch or TERM. -/
def BlockRun.complete (b : BlockRun) : Bool := b.resolved && (hTerm b.hdr || b.branch.isSome)

/-- The gate of a slot. -/
def BlockRun.gateAt (b : BlockRun) (j : Nat) : Gate :=
  match b.instr j, b.slots[j]? with
  | some i, some o => gate i.pr i.uses i.cls.early o
  | _, _ => .notReady

/-- A branch of the block has its operands and fires before the block can commit (R15, R18; log 18). -/
def BlockRun.branchDue (b : BlockRun) : Bool :=
  (b.slotsOf .branch).any fun x => match b.gateAt x.1 with
    | .go .. => true
    | _ => false

/-- Nothing of the block can fire and nothing of it is outstanding (R18): a load that waits for a store has not been sent, and a
boundary instruction that waits for such a load cannot be performed. -/
def BlockRun.still (b : BlockRun) : Bool :=
  let loadsDone := (b.slotsOf .load).all fun x => x.2.status == .done
  (List.range b.words.length).all fun j =>
    match ((b.slots[j]?).getD {}).status with
    | .done => true
    | .sent => false
    | .idle => b.gateAt j == .notReady
    | .waiting => match Cls.ofWord ((b.words[j]?).getD 0) with
      | .load => !b.olderStoresDone (lsidOf ((b.words[j]?).getD 0))
      | .boundary => !loadsDone
      | _ => false

/-- A boundary instruction of the block is on its way (R40). -/
def BlockRun.boundaryOut (b : BlockRun) : Bool :=
  (b.slotsOf .boundary).any fun x => x.2.status == .sent || (x.2.status == .waiting && !b.still)

/-- The entry launches an engine operation (R170, R189). -/
def DefKind.launches : DefKind → Bool
  | .cpy | .cpyt | .coll | .wsld | .sload | .sstore | .kappend | .kmerge | .mscan | .ksum | .igather | .walk | .tlbi => true
  | _ => false

/-- The first block of a region with EFENCE fires nothing while an engine operation that the strand launched in earlier regions is
unfinished, one that a queued publish has still to launch among them (R170, R171, R324). -/
def State.fenced (s : State) (k : Nat) (t : Strand) : Bool :=
  t.region.efence && t.region.first &&
    ((s.engines.any fun (x : Nat × Engine) => x.2.strand == k) || t.queue.any fun p => p.deferred.any fun d => d.kind.launches)

/-- The block that fires in a strand's window. -/
def State.firing (s : State) (k : Nat) : Option (Strand × BlockRun) :=
  match s.strand k with
  | none => none
  | some t => match t.block with
    | none => none
    | some b =>
      if t.phase == .run && (t.state == .ready || t.state == .running || t.state == .blocked) && !s.fenced k t then some (t, b) else none

/-- A register write applied: the pending completion's marks go (R22). -/
def Strand.putReg (t : Strand) (n : Nat) (v : Word) : Strand :=
  { t with regs := t.regs.setIfInBounds n v, poison := t.poison &&& ~~~(BitVec.twoPow 128 n),
           trapErr := t.trapErr &&& ~~~(BitVec.twoPow 128 n) }

/-- The registers a block writes, in slot order (R141). -/
def BlockRun.writesInOrder (b : BlockRun) : List (Nat × Nat × Option Word) := firstK (fun x y => x.1 < y.1 || (x.1 == y.1 && x.2.1 < y.2.1)) 128 b.writes

/-- Writes, live-in bookkeeping and the branch of a committing block, on the strand (R17, R35, R144 to R147). A boundary block
that stops its strand with a fault recorded leaves it without a next region, as one whose branch did not fire (R40; DEDUCED,
log 21). -/
def Strand.afterCommit (t : Strand) (b : BlockRun) : Strand :=
  let t := b.writesInOrder.foldl (fun t w =>
    let t : Strand := match w.2.2 with
      | some v => t.putReg w.2.1 v
      | none => t
    { t with written := t.written ||| BitVec.twoPow 128 w.2.1 }) t
  let t := { t with block := none, yieldMark := t.yieldMark || b.yields,
                    region := { t.region with first := false, kept := t.region.kept || b.performed },
                    pendFault := b.bfault.or t.pendFault, pendHere := if b.bfault.isSome then false else t.pendHere }
  let last : Strand := { t with exiting := b.bfault.isNone, noNext := b.bfault.isSome, phase := .close 4, state := .ready }
  if hTerm b.hdr then last
  else match b.branch with
    | some (_, .stop) => last
    | some (_, .goto n) => { t with ip := n, phase := .fetch, state := .ready }
    | some (_, .call n f) => { t with ip := n, fp := f, phase := .fetch, state := .ready }
    | some (_, .ret n f) => { t with ip := n, fp := f, phase := .fetch, state := .ready }
    | none => { t with noNext := true, phase := .close 4, state := .ready }

/-- The commit itself, once its checks have passed. -/
def State.commitBlock (s : State) (k : Nat) (t : Strand) (b : BlockRun) (lines : List SbLine) : State :=
  let s := s.setStrand k { t.afterCommit b with region := { (t.afterCommit b).region with store := lines } }
  { s with queries := s.queries.filter fun (q : Nat × Query) => q.2.strand != k || q.2.consume }.addPerf t.pav 1 1

/-- BLOCK_COMMIT (R17, R18, R33, R35, R40, R134). -/
def execBlockCommit (k : Nat) (s : State) : Out :=
  .next (match s.strand k with
    | none => s
    | some t => match t.block with
      | none => s
      | some b =>
        if t.kind != .ordinary || t.phase != .run then s
        else if !b.complete && !b.still then s
        else if b.boundaryOut || b.branchDue then s
        else if !b.complete && !b.performed then s.takeFault k ⟨{ code := .illegal, sub := 3 }, b.addr, 63⟩
        else if b.writes.any fun w => t.pending.getLsbD w.2.1 then s
        else
          let b := if b.complete then b else b.note ⟨{ code := .illegal, sub := 3 }, b.addr, 63⟩
          match if b.performed then none else b.writesInOrder.find? fun w => t.liveIn.getLsbD w.2.1 with
          | some w => s.takeFault k ⟨{ code := .regionLivein }, b.addr, w.1⟩
          | none =>
            let lines := commitLines b t.fp t.region.store
            let need := lines.length - t.region.store.length
            if 64 < lines.length then
              if b.performed then
                s.commitBlock k t (b.note ⟨{ code := .regionOverflow }, b.addr, 63⟩) t.region.store
              else s.takeFault k ⟨{ code := .regionOverflow }, b.addr, 63⟩
            else if need = 0 then s.commitBlock k t b lines
            else match s.makeRoom k t.pav (s.poolLines t.pav) 256 need Strand.poolHolder with
              | .wait => s
              | .room s' =>
                if s'.poolLines t.pav + need ≤ 256 then s'.commitBlock k t b lines else s')

/-! ### Loads and atomics at memory -/

/-- The pinned line of a named line: pinned under its name, under the name of the same page before it moved, or under its address (R302,
R339). -/
def State.pinned (s : State) (t : Strand) (named : Nat) (addr : Word) : Option Pin :=
  t.region.pins.find? fun p => p.key == named || s.ownerKey p.key == s.ownerKey named || p.va == lineOf addr

/-- The line that a load pins: as it is visible at the strand's pavilion, under what the strand's earlier regions wrote and has not been
performed yet (R32, R165), with its words that are poisoned (R425). -/
def State.pinLine (s : State) (k : Nat) (t : Strand) (named : Nat) (addr : Word) : Pin :=
  let key := s.ownerKey named
  let base := s.asOwn t.task t.pav (lineOf addr)
  { key := named, va := lineOf addr,
    bytes := (List.range 64).map fun i => (s.sentByte k t (base + BitVec.ofNat 64 i)).getD (s.view k t.pav (key + i))
    bad := (List.range 8).filter fun i => s.poisoned (key + 8 * i) 8 }

/-- An access to w bytes at an address meets a word that was poisoned when the line was pinned (R425). -/
def Pin.poisonedAt (p : Pin) (addr : Word) (w : Nat) : Bool :=
  p.bad.any fun i => bits addr 5 0 / 8 ≤ i && i ≤ (bits addr 5 0 + w - 1) / 8

/-- The access of a load that is not served by the strand's own bytes (R165, R167): the pinned line, or memory, which it then pins. -/
def loadAccess (c : Ctx) (s : State) (addr : Word) (w : Nat) (lsid : Nat) (sgn : Bool) : Eff :=
  match s.access c.t addr w .load with
  | .miss b => .park addr b
  | .fault code => .fault { code := code, addr := addr }
  | .ok key =>
    let named := key / 64 * 64
    let finish (s : State) (line : List Byte) : Eff :=
      let d := (List.range w).map fun i =>
        (s.ownByte c.k c.t c.b lsid (s.asOwn c.t.task c.t.pav addr + BitVec.ofNat 64 i)).getD ((line.drop (bits addr 5 0 + i)).head?.getD 0)
      .ok (if isWindow addr then s else s.cache c.t.pav c.t.task addr.toNat) (some (.value (loadValue sgn w d))) none
    match s.pinned c.t named addr with
    | some p => if p.poisonedAt addr w then .fault { code := .uncorr, addr := addr } else finish s p.bytes
    | none =>
      match s.serve key w with
      | .wait => .wait
      | .lost => .fault { code := .uncorr, addr := addr }
      | .key _ =>
        if 256 ≤ c.t.region.pins.length then .fault { code := .regionOverflow }
        else match s.makeRoom c.k c.t.pav (s.pinCount c.t.pav) 1024 1 (fun u => !u.region.pins.isEmpty) with
          | .wait => .wait
          | .room s =>
            let p := s.pinLine c.k c.t named addr
            finish (s.modStrand c.k fun t => { t with region := { t.region with pins := t.region.pins ++ [p] } }) p.bytes

/-- What a load returns (R165). -/
def loadEff (c : Ctx) (s : State) (off : BitVec 9) (w : Nat) (lsid : Nat) (sgn : Bool) : Eff :=
  let addr := accessAddr (opVal c.o.l) off w
  let mine := s.asOwn c.t.task c.t.pav addr
  let own := (List.range w).map fun i => s.ownByte c.k c.t c.b lsid (mine + BitVec.ofNat 64 i)
  if s.loggedRed c.k mine w then .wait
  else if own.all Option.isSome then
    .ok s (some (.value (loadValue sgn w (own.map fun b => b.getD 0)))) none
  else loadAccess c s addr w lsid sgn

/-- LOAD_RETURN (R165, R167). -/
def execLoadReturn (k slot : Nat) (s : State) : Out :=
  .next (match s.ctxAt k slot with
    | none => s
    | some c =>
      if c.o.status != .sent then s
      else match c.b.instr slot with
        | none => s
        | some i => match loadForm i with
          | none => s
          | some (w, off, sgn, a) =>
            answerEff c a .none (.loadReturn k slot) (loadEff c s off w (lsidOf ((c.b.words[slot]?).getD 0)) sgn) s)

/-- The block's boundary instruction has been performed (R40). -/
def State.setPerformed (s : State) (k : Nat) : State := s.modBlock k fun b => { b with performed := true }

/-- A returning atomic at its home (R174, R175): F_PROTECT, F_XLATE_LOAD and F_UNCORR in this order. -/
def atomicEff (c : Ctx) (s : State) (op : AOp) (w : Bool) : Eff :=
  let a := opVal c.o.l
  let n := wBytes w
  match s.access c.t a n .atomic with
  | .fault code => .fault { code := code, addr := a }
  | .miss b => .park a b
  | .ok named => match s.serve named n with
    | .wait => .wait
    | .lost => .fault { code := .uncorr, addr := a }
    | .key key =>
      let s := s.reachHome key n
      let m := 2 ^ (8 * n)
      let old := s.home key n
      let new := atomicNew op (8 * n) old ((opVal c.o.r).toNat % m) ((opVal c.o.p).toNat % m)
      let s := if op = .cas && old ≠ (opVal c.o.r).toNat % m then s else s.writeHome key (toLe n new)
      .val (s.setPerformed c.k) (BitVec.ofNat 64 old)

/-- HOME_ATOMIC_PERFORM (R174, R175). -/
def execHomeAtomicPerform (k slot : Nat) (s : State) : Out :=
  .next (match s.ctxAt k slot with
    | none => s
    | some c =>
      if c.o.status != .sent then s
      else match (c.b.instr slot).bind atomicForm with
        | none => s
        | some (op, w, a, b) => answerEff c a b (.homeAtomicPerform k slot) (atomicEff c s op w) s)

end Sys2Proof.Machine
end

