-- ==== Sys2Proof/Machine/Orangery.lean ====
section
/-! DEFINITION. The arbiters of the Orangery: domains and their table, stores and their entries, queries and their merge
(R244 to R254, R367 to R377). -/

namespace Sys2Proof

open Machine (Geom bits)

/-- Fields of a domain command (R244). -/
def MdomMsg.dom (m : MdomMsg) : Nat := bits m.cmd 59 52
def MdomMsg.store (m : MdomMsg) : Nat := bits m.cmd 51 40
def MdomMsg.geom (m : MdomMsg) : Geom :=
  ⟨bits m.cmd 39 38, bits m.cmd 37 37, bits m.cmd 36 30 + 1, bits m.cmd 21 21, bits m.cmd 20 11 + 1⟩

end Sys2Proof

namespace Sys2Proof.Machine

/-! ### Completions and records -/

/-- A completion value written to its register (R22, R189, R190): the pending bit is cleared. -/
def Strand.complete (t : Strand) (n : Nat) (v : Word) (trapErr : Bool) : Strand :=
  let t := { t.putReg n v with pending := t.pending &&& ~~~(BitVec.twoPow 128 n) }
  if trapErr && bits v 63 60 != 0 then { t with trapErr := t.trapErr ||| BitVec.twoPow 128 n } else t

def State.complete (s : State) (k n : Nat) (v : Word) (trapErr : Bool := false) : State :=
  s.modStrand k fun t => t.complete n v trapErr

/-- A completion register becomes pending at launch (R22). -/
def State.setPending (s : State) (k n : Nat) : State :=
  s.modStrand k fun t => { t with pending := t.pending ||| BitVec.twoPow 128 n }

/-- A register is pending: a launch that names it waits (R22). -/
def State.isPending (s : State) (k n : Nat) : Bool := match s.strand k with
  | some t => t.pending.getLsbD n
  | none => false

/-! ### Stores and entries -/

/-- The store of an index of a domain, of a task of this chip (none) or of a peer (R369). -/
def Store.isOf (st : Store) (owner : Option Nat) (task dom store : Nat) : Bool :=
  st.owner == owner && st.task == task && st.dom == dom && st.store == store

def Store.isAt (st : Store) (task dom store : Nat) : Bool := st.isOf none task dom store

/-- The stores of a task of this chip. -/
def Store.ofTask (st : Store) (task : Nat) : Bool := st.owner.isNone && st.task == task

def State.storeOf (s : State) (owner : Option Nat) (task dom store : Nat) : Option Store :=
  s.stores.find? fun st => st.isOf owner task dom store

def State.store (s : State) (task dom store : Nat) : Option Store := s.storeOf none task dom store

def State.modStoreOf (s : State) (owner : Option Nat) (task dom store : Nat) (f : Store → Store) : State :=
  { s with stores := s.stores.map fun (st : Store) => (if st.isOf owner task dom store then f st else st) }

def State.modStore (s : State) (task dom store : Nat) (f : Store → Store) : State := s.modStoreOf none task dom store f

/-- The registers of a store changed. -/
def State.setStore (s : State) (st : Store) (f : Store → Store) : State := s.modStoreOf st.owner st.task st.dom st.store f

def State.domain (s : State) (task dom : Nat) : Option Domain := s.domains.find? fun d => d.task == task && d.dom == dom

/-- An entry of a store, as its bytes stand (R367). -/
structure Entry where
  place : Nat
  ctr   : Nat
  val   : Word
  attr  : Nat
  life  : Nat
  lvl   : Nat
  bound : Nat
  resv  : Nat
  key   : List Byte
  vec   : List Byte
deriving DecidableEq, Repr

/-- Bytes of a present entry that break R367 or R246. -/
def entryBroken (g : Geom) (d : List Byte) : Bool :=
  let n (i k : Nat) := leNat ((d.drop i).take k)
  1 < n 15 1 || 5 < n 14 1 || 4096 ≤ n 16 2 || n 21 3 != 0 || n 26 6 != 0 || (g.vkind == 1 && n 0 8 != 0)

/-- The entry at a place; none when it is absent, broken or cannot be read (R367, R368, R425). -/
def State.entry (s : State) (st : Store) (x : Nat) : Option Entry :=
  if s.entryLost st x then none else
  let d := Memory.readN s.mem (st.key x) st.geom.e
  let n (i k : Nat) := leNat ((d.drop i).take k)
  if n 15 1 % 2 = 0 || entryBroken st.geom d then none
  else some { place := x, ctr := n 18 3, val := BitVec.ofNat 64 (n 0 8), attr := n 8 4, life := n 12 2, lvl := n 14 1,
              bound := n 16 2, resv := n 24 2, key := (d.drop 32).take st.geom.kb,
              vec := (d.drop (32 + st.geom.keyBytes)).take (4 * st.geom.vlen * st.geom.vkind) }

/-- The entries of a store. -/
def State.entries (s : State) (st : Store) : List Entry := (List.range st.cap).filterMap fun x => s.entry st x

/-- Every grant writes STATE 0 into entries with VALID 1 whose bytes break the layout (R368). -/
def State.scrub (s : State) (st : Store) : State :=
  (List.range st.cap).foldl (fun s x =>
    if (Memory.read s.mem (st.key x + 15)).toNat % 2 == 1 && (s.entry st x).isNone && !s.entryLost st x then s.writeHome (st.key x + 15) [0] else s) s

/-- STATE 0 is written: the entry is absent (R367). -/
def State.removeEntry (s : State) (st : Store) (x : Nat) : State := s.writeHome (st.key x + 15) [0]

def State.setLife (s : State) (st : Store) (x v : Nat) : State := s.writeHome (st.key x + 12) (toLe 2 v)

/-- The expiry test of R249; a field above the tag's depth is zero, as a well-formed tag holds it (R12). -/
def Entry.timely (e : Entry) (tag : Word) : Bool :=
  e.lvl == 0 || (e.bound + 4096 - tagField tag e.lvl) % 4096 < 2048

/-- An entry is live for a query of a tag (R249). -/
def Entry.live (e : Entry) (tag : Word) : Bool := (e.life == 0 || e.resv < e.life) && e.timely tag

/-! ### Queries -/

def State.modQuery (s : State) (q : Nat) (f : Query → Query) : State :=
  match s.queries.find q with
  | some x => { s with queries := s.queries.put q (f x) }
  | none => s

def Query.km (q : Query) : Nat := bits q.r 55 50 + 1
def Query.mode (q : Query) : Nat := bits q.r 49 48

/-- The order of two candidates (R108): index is the id. -/
def Cand.before (g : Geom) (a b : Cand) : Bool :=
  rankBefore (g.scoreNum a.score) (a.store * 2 ^ 24 + a.ctr) (g.scoreNum b.score) (b.store * 2 ^ 24 + b.ctr)

/-- What a store's arbiter uses of a query (R251, R372). -/
structure Asked where
  tag     : Word
  consume : Bool
  r       : Word
  third   : Word
  bytes   : List Byte
deriving DecidableEq, Repr

def Query.asked (q : Query) : Asked := ⟨q.tag, q.consume, q.r, q.third, q.bytes⟩
def peerAsked (m : PeerQuery) : Asked := ⟨m.tag, m.consume, m.r, m.third, m.bytes⟩

/-- cand(s) (R251, R373). -/
def State.candsOf (s : State) (a : Asked) (st : Store) : List Cand :=
  let all := (s.entries st).filterMap fun e =>
    let sc := st.geom.score a.bytes e.key
    if e.live a.tag && st.geom.passes sc (bits a.third 31 0) then
      some { score := sc, store := st.store, ctr := e.ctr, val := e.val, attr := e.attr, life := e.life != 0,
             vec := if bits a.r 49 48 == 2 then e.vec else [] }
    else none
  firstK (Cand.before st.geom) (bits a.r 55 50 + 1) all

def State.cands (s : State) (q : Query) (st : Store) : List Cand := s.candsOf q.asked st

/-- The task that owns a pavilion is saved: requests wait there (R362, R376). -/
def State.savedAt (s : State) (task : Nat) : Bool := match (s.task task).status with
  | .saved _ => true
  | _ => false

/-- A store stands on a pavilion whose task is saved (R362, R376): its own task's, or for a peer's store the task that held it. -/
def State.storeSaved (s : State) (st : Store) : Bool := match st.owner with
  | none => s.savedAt st.task
  | some _ => (st.host.map s.savedAt).getD false

/-- The membership of a domain, in store-index order (R245, R374). -/
def State.members (s : State) (task dom : Nat) : List Nat :=
  firstK (· < ·) 4096 ((s.stores.filter fun st => st.ofTask task && st.dom == dom).map (·.store))

/-- The geometry checks of R250, made at the domain's grant. -/
def queryFault (q : Query) (g : Geom) : Option FaultInfo :=
  if q.fmt != (if g.kfmt = 2 then 3 else 5) then some { code := .format }
  else if q.len != g.dim || (q.mode == 2 && g.vkind == 0) then some { code := .matchF }
  else none

/-- Targets of a query's word. -/
def queryTargets (b : BlockRun) (slot : Nat) : Target × Target := match b.instr slot with
  | some (.matchQ a b) => (a, b)
  | some (.matchc a b) => (a, b)
  | _ => (.none, .none)

/-- The read of a domain from the table is held until the Lodge answers: requests to the domain wait behind it (R370). -/
def State.tableHeld (s : State) (task dom : Nat) : Bool :=
  s.engines.any fun (x : Nat × Engine) => x.2.kind == .table && x.2.task == task && x.2.done == 1 && x.2.aux == dom

/-- DOMAIN_GRANT (R250, R251, R372): the membership as it stands; an earlier query of the strand goes first (R376), and so does a read of
the domain that is held (R370). -/
def execDomainGrant (q : Nat) (s : State) : Out :=
  s.powered (match s.queries.find q with
    | none => s
    | some x =>
      if x.granted then s
      else if (s.queries.any fun y => y.1 < q && y.2.strand == x.strand) || s.tableHeld x.task (bits x.r 63 56) then s.hold (.domainGrant q)
      else match s.domain x.task (bits x.r 63 56) with
      | none =>
        let s := s.modQuery q fun x => { x with granted := true, performed := x.consume }
        (if x.consume then s.setPerformed x.strand else s).push (.matchMerge q)
      | some d =>
        match queryFault x d.geom with
        | some f =>
          let s' := { s with queries := s.queries.drop q }
          match s.ctxAt x.strand x.slot with
          | none => s'
          | some c =>
            let t := queryTargets c.b x.slot
            applyEff c t.1 t.2 noResolve (.fault f) s'
        | none =>
          let mem := s.members x.task d.dom
          let s := s.modQuery q fun x => { x with granted := true, geom := some d.geom, stores := mem }
          mem.foldl (fun s st => s.push (.storeQueryGrant (.own q) st)) s)

/-- An answer taken by the match unit; when every store has answered, a MATCHC is performed (R254, R375) and the merge
follows. -/
def State.answer (s : State) (q store : Nat) (c : List Cand) : State :=
  let s := s.modQuery q fun x => { x with answers := x.answers ++ [(store, c)] }
  match s.queries.find q with
  | none => s
  | some x =>
    if x.answers.length < x.stores.length then s
    else
      let s := if x.consume then (s.modQuery q fun x => { x with performed := true }).setPerformed x.strand else s
      s.push (.matchMerge q)

/-- A store on a peer answers: candidates of its own that pass the query's threshold (R251, log 10). -/
def peerCands (q : Query) (st : Store) (n : Nat) : List Cand :=
  let all := (Config.peerAnswer n).map fun (sc, ctr, v, a, life, vec) =>
    ({ score := sc % 2 ^ 32, store := st.store, ctr := ctr % 2 ^ 24, val := v, attr := a % 2 ^ 32, life := life,
       vec := if q.mode == 2 then vec else [] } : Cand)
  firstK (Cand.before st.geom) q.km (all.filter fun c => st.geom.passes c.score (bits q.third 31 0))

/-- One grant of a query at a store here (R251, R368, R372): its candidates, with a MATCHC's reservations made; none while too few
reservation entries are free. -/
def State.grantAt (s : State) (st : Store) (key : ResvKey) (a : Asked) : Option (List Cand × State) :=
  let s := s.scrub st
  let c := s.candsOf a st
  let need := c.filter (·.life)
  if a.consume && 256 < st.resv.length + need.length then none
  else
    let s := s.addPerf st.pav 7 1
    some (c, if a.consume then
      let s := (s.entries st).foldl (fun s e =>
        if need.any fun y => y.ctr == e.ctr then s.setResv st e.place (e.resv + 1) else s) s
      s.setStore st fun st => { st with blocked := none, resv := st.resv ++ need.map fun y => (key, y.ctr) }
    else s)

/-- A query that waits at a store: behind a MATCHC that waits for reservations, or for a saved task (R372, R376). -/
def State.queryWaits (s : State) (st : Store) (key : ResvKey) : Bool := st.blocked.any (· != key) || s.storeSaved st

/-- A query that meets an entry that cannot be read raises F_UNCORR at its slot: nothing is reserved there, and what other stores have
reserved for it goes with its region (R254, R425; log 84, DESIGN CHOICE). -/
def State.loseQuery (s : State) (q : Nat) (x : Query) : State :=
  let s := match s.ctxAt x.strand x.slot with
    | none => s
    | some c =>
      let t := queryTargets c.b x.slot
      applyEff c t.1 t.2 noResolve (.fault { code := .uncorr }) s
  { s with queries := s.queries.drop q }

/-- STORE_QUERY_GRANT of a query of this chip. -/
def State.ownQuery (s : State) (q store : Nat) : State :=
  match s.queries.find q with
  | none => s
  | some x =>
    if !x.stores.contains store || x.answers.any fun a => a.1 == store then s
    else match s.store x.task (bits x.r 63 56) store with
    | none => s.answer q store []
    | some st =>
      if st.chip ≠ s.chip then
        (s.tick.send (.query st.chip store (x.message s.chip q []))).answer q store (peerCands x st s.ticks)
      else if s.queryWaits st (.own q) then s.hold (.storeQueryGrant (.own q) store)
      else if s.entriesLost st then s.loseQuery q x
      else match s.grantAt st (.own q) x.asked with
      | none => (s.setStore st fun st => { st with blocked := some (.own q) }).hold (.storeQueryGrant (.own q) store)
      | some (c, s) => s.answer q store c

/-- STORE_QUERY_GRANT of a peer's query at its store here: the answer goes back (R372, R373). -/
def State.peerQuery (s : State) (m : PeerQuery) (store : Nat) : State :=
  let key := ResvKey.peer m.chip m.number
  match s.storeOf (some m.chip) m.task m.dom store with
  | none => s.send (.answerQuery m.chip m.number store [])
  | some st =>
    if s.queryWaits st key then s.hold (.storeQueryGrant (.peer m) store)
    else if s.entriesLost st then s.send (.queryLost m.chip m.number store)
    else match s.grantAt st key (peerAsked m) with
    | none => (s.setStore st fun st => { st with blocked := some key }).hold (.storeQueryGrant (.peer m) store)
    | some (c, s) => s.send (.answerQuery m.chip m.number store c)

/-- STORE_QUERY_GRANT (R248, R251, R368, R372, R376). -/
def execStoreQueryGrant (q : QueryAt) (store : Nat) (s : State) : Out :=
  s.powered (match q with
    | .own q => s.ownQuery q store
    | .peer m => s.peerQuery m store)

/-! ### Weights and results (R105, R252) -/

/-- w(i) of R105: scores as numbers; T. -/
def weight (g : Geom) (s0 si : Nat) (t : Num) : Nat :=
  let d := decodeF .fp32 (roundF .fp32 .rne ((g.scoreNum si).sub (g.scoreNum s0)))
  exp2 (decodeF .fp32 (roundF .fp32 .rne (d.mul t)))

/-- The words of the delivered weights: raw or softmax, by winner. -/
def weightsOf (g : Geom) (mode : Nat) (w : List Cand) (t : Num) : List Nat :=
  let s0 := ((w[0]?).map (·.score)).getD 0
  if mode = 0 then w.map fun c => roundF .fp32 .rne (g.scoreNum c.score)
  else
    let ws := w.map fun c => weight g s0 c.score t
    let sum := decodeF .fp32 (treeSum .fp32 ws)
    ws.map fun x => roundF .fp32 .rne ((decodeF .fp32 x).div sum)

/-- An EACH record (R252). -/
def eachRecord (c : Cand) (weight : Nat) : List Byte :=
  toLe 8 c.val.toNat ++ toLe 4 weight ++ toLe 4 c.score ++ toLe 5 (c.store * 2 ^ 24 + c.ctr) ++ toLe 3 0 ++ toLe 4 c.attr ++ toLe 4 0

/-- The blend, then W (R105). -/
def blendBytes (g : Geom) (w : List Cand) (t : Num) : List Byte :=
  let s0 := ((w[0]?).map (·.score)).getD 0
  let ws := w.map fun c => weight g s0 c.score t
  let vs := w.map fun c => unpack .fp32 g.vlen c.vec
  ((List.range g.vlen).flatMap fun e =>
    toLe 4 (treeSum .fp32 ((ws.zip vs).map fun x =>
      roundF .fp32 .rne ((decodeF .fp32 x.1).mul (decodeF .fp32 ((x.2[e]?).getD 0))))))
  ++ toLe 4 (treeSum .fp32 ws)

/-- The bytes that a query delivers (R252). -/
def resultBytes (q : Query) (w : List Cand) : List Byte :=
  match q.geom with
  | none => []
  | some g =>
    let t := decodeF .fp32 (bits q.third 63 32)
    if q.mode = 2 then (if w.isEmpty then List.replicate (4 * (g.vlen + 1)) 0 else blendBytes g w t)
    else (w.zip (weightsOf g q.mode w t)).flatMap fun x => eachRecord x.1 x.2

/-- The result token (R252). -/
def resultToken (w : List Cand) : Word :=
  BitVec.ofNat 64 (w.length * 2 ^ 32 + ((w[0]?).map (·.score)).getD 0)

/-- W: the first k of the union of the answers (R251, R374). -/
def Query.merge (q : Query) : List Cand := match q.geom with
  | none => []
  | some g => firstK (Cand.before g) q.km (q.answers.flatMap (·.2))

/-- The result of a query delivered to its slot, or not yet while its destination is not free (R252, R204). -/
def deliverQuery (c : Ctx) (s : State) (x : Query) (w : List Cand) : Eff :=
  let d := resultBytes x w
  let run : Run := ⟨bits x.r 47 43, bits x.r 42 28, d.length, d.length, true⟩
  if runBad c s run then .fault { code := .resource }
  else if !runReady c s run then .wait
  else .ok (writeRun c s run.buf run.k d) (some (.value (resultToken w))) (some (.value (boolWord (!w.isEmpty))))

/-- The query has no more to do for its strand; a MATCHC sends its decisions (R372). -/
def State.afterMerge (s : State) (q : Nat) (x : Query) (w : List Cand) : State :=
  if x.consume && !x.stores.isEmpty then
    x.stores.foldl (fun s st => s.push (.storeDecisions (.own q) st))
      (s.modQuery q fun x => { x with merged := true, winners := w, decide := x.stores })
  else { s with queries := s.queries.drop q }

/-- MATCH_MERGE (R251, R252, R374). -/
def execMatchMerge (q : Nat) (s : State) : Out :=
  s.powered (match s.queries.find q with
    | none => s
    | some x =>
      if !x.granted || x.merged || x.answers.length < x.stores.length then s
      else
        let w := x.merge
        match s.ctxAt x.strand x.slot with
        | none => s.afterMerge q x w
        | some c =>
          match deliverQuery c s x w with
          | .wait => s.hold (.matchMerge q)
          | e =>
            let t := queryTargets c.b x.slot
            (applyEff c t.1 t.2 noResolve e s).afterMerge q x w)

/-- A reservation decided at a store (R251, R253): released, and for a winner LIFE is decremented; an entry whose LIFE reaches
0 is removed. -/
def State.decideOne (s : State) (st : Store) (win : Bool) (ctr : Nat) : State :=
  match (s.entries st).find? fun e => e.ctr == ctr with
  | none => s
  | some e =>
    let s := s.setResv st e.place (e.resv - 1)
    if win then
      let s := s.setLife st e.place (e.life - 1)
      if e.life = 1 then s.removeEntry st e.place else s
    else s

/-- A query's reservations at a store decided, as one grant (R372). -/
def State.decideAt (s : State) (st : Store) (key : ResvKey) (wins : Nat → Bool) : State :=
  let s := (st.resv.filter fun (r : ResvKey × Nat) => r.1 == key).foldl (fun (s : State) (r : ResvKey × Nat) =>
    s.decideOne st (wins r.2) r.2) (s.scrub st)
  s.setStore st fun st => { st with resv := st.resv.filter fun r => r.1 != key }

/-- A reservation of a query stands at a store of which an entry cannot be read any more: its decision leaves that entry as it is, and
F_UNCORR is raised (R425, log 84). -/
def State.decisionLost (s : State) (st : Store) (key : ResvKey) : Bool := s.entriesLost st && st.resv.any fun r => r.1 == key

/-- CTRs of the winners of a store whose LIFE is decremented (R251). -/
def Query.winnersAt (x : Query) (store : Nat) : List Nat := (x.winners.filter fun w => w.store == store && w.life).map (·.ctr)

/-- STORE_DECISIONS of a query of this chip: decided here, or sent to the store's peer; with the last acknowledgement the query is
done. -/
def State.ownDecisions (s : State) (q store : Nat) : State :=
  match s.queries.find q with
  | none => s
  | some x =>
    if !x.decide.contains store then s
    else
      let s := match s.store x.task (bits x.r 63 56) store with
        | none => s
        | some st =>
          if st.chip ≠ s.chip then s.send (.decisions st.chip store (x.message s.chip q (x.winnersAt store)))
          else
            let s := if s.decisionLost st (.own q) then s.regionFault x.strand { code := .uncorr } else s
            s.decideAt st (.own q) (x.winnersAt store).contains
      if x.decide.length ≤ 1 then { s with queries := s.queries.drop q }
      else s.modQuery q fun x => { x with decide := x.decide.filter (· != store) }

/-- STORE_DECISIONS of a peer's query at its store here, acknowledged (R372). -/
def State.peerDecisions (s : State) (m : PeerQuery) (store : Nat) : State :=
  let s := match s.storeOf (some m.chip) m.task m.dom store with
    | none => s
    | some st =>
      let key := ResvKey.peer m.chip m.number
      (if s.decisionLost st key then s.send (.queryLost m.chip m.number store) else s).decideAt st key m.winners.contains
  s.send (.decided m.chip m.number store)

/-- STORE_DECISIONS (R251, R372, R375). -/
def execStoreDecisions (q : QueryAt) (store : Nat) (s : State) : Out :=
  s.powered (match q with
    | .own q => s.ownDecisions q store
    | .peer m => s.peerDecisions m store)

/-! ### KPUT and KDEL at a store (R246, R247) -/

/-- A KPUT's record breaks R246 for a store's geometry: BADREC (R247). -/
def kputBad (m : KputMsg) (g : Geom) : Bool :=
  let n (i k : Nat) := leNat ((m.data.drop i).take k)
  m.len ≠ g.e || n 15 1 != 0 || n 18 14 != 0 || 4096 ≤ n 16 2 || 5 < n 14 1 || (g.vkind == 1 && n 0 8 != 0)

/-- The insertion of R247: the status, the id, and the state. -/
def State.insertEntry (s : State) (st : Store) (m : KputMsg) : Nat × Nat × State :=
  let d := m.data
  if kputBad m st.geom then (4, 0, s)
  else if st.counter = 2 ^ 24 then (2, 0, s)
  else
    let es := s.entries st
    let free := (List.range st.cap).find? fun x => (s.entry st x).isNone && !s.entryLost st x
    let dead := firstK (fun (a b : Entry) => a.ctr < b.ctr) 1 (es.filter fun e => !e.timely m.tag && e.resv == 0)
    match free.or (dead.head?.map (·.place)) with
    | none => (1, 0, s)
    | some x =>
      let rec0 := d.take 15 ++ [1] ++ (d.drop 16).take 2 ++ toLe 3 st.counter ++ List.replicate 11 0 ++ d.drop 32
      let s := s.writeHome (st.key x) rec0
      (0, st.store * 2 ^ 24 + st.counter, s.setStore st fun st => { st with counter := st.counter + 1 })

/-- The completion of a KPUT or KDEL, or its record (R246). -/
def State.storeReply (s : State) (k : Nat) (cv : Bool) (creg : Nat) (block : Word) (slot : Nat) (tag : Word) (status id : Nat) : State :=
  let v := BitVec.ofNat 64 (status * 2 ^ 60 + id)
  if cv then s.complete k creg v
  else if status = 0 then s else s.unitRecord k 12 block slot tag status 0 v

/-- A request that waits at a store: behind a MATCHC that waits for reservations, or for a saved task (R372, R376). -/
def State.storeBusy (s : State) (st : Store) : Bool := st.blocked.isSome || s.storeSaved st

/-- What a KPUT's or KDEL's requester receives: its completion here, or a message to its chip (R246). -/
def State.replyTo (s : State) (owner : Option Nat) (k : Nat) (cv : Bool) (creg : Nat) (block : Word) (slot : Nat) (tag : Word)
    (status id : Nat) : State :=
  match owner with
  | none => s.storeReply k cv creg block slot tag status id
  | some c => s.send (.storeReply c k cv creg status id)

/-- A KPUT at a store on a peer: the message goes there; what can be told here is BADREC and IDWRAP, and whether the store is full is
the peer's; the counter that a DONE advances is the store's (R247, R369, log 10). -/
def State.peerKput (s : State) (st : Store) (m : KputMsg) : Nat × Nat × State :=
  let s' := s.tick.send (.kput st.chip m)
  if kputBad m st.geom then (4, 0, s')
  else if st.counter = 2 ^ 24 then (2, 0, s')
  else if (Config.freeWord s.ticks).getLsbD 0 then (1, 0, s')
  else (0, st.store * 2 ^ 24 + st.counter, s'.setStore st fun st => { st with counter := st.counter + 1 })

/-- A KPUT or KDEL at a store of which an entry cannot be read passes it by, and F_UNCORR is raised in its strand (R425; log 84, DESIGN
CHOICE). -/
def State.tellLost (s : State) (st : Store) (owner : Option Nat) (k : Nat) : State :=
  if !s.entriesLost st then s
  else match owner with
    | none => s.regionFault k { code := .uncorr }
    | some c => s.send (.entryLost c k)

/-- STORE_KPUT_INSERT (R247, R368). -/
def execStoreKputInsert (m : KputMsg) (s : State) : Out :=
  let reply (r : Nat × Nat × State) : State := r.2.2.replyTo m.owner m.strand m.cv m.creg m.block m.slot m.tag r.1 r.2.1
  s.powered (if m.owner.isNone && s.tableHeld m.task m.dom then s.hold (.storeKputInsert m) else match s.storeOf m.owner m.task m.dom m.store with
    | none => reply (3, 0, s)
    | some st =>
      if st.chip ≠ s.chip then reply (s.peerKput st m)
      else if s.storeBusy st then s.hold (.storeKputInsert m)
      else reply (((s.tellLost st m.owner m.strand).scrub st).insertEntry st m))

/-- STORE_KDEL (R247, R253). -/
def execStoreKdel (m : KdelMsg) (s : State) : Out :=
  let reply (s : State) (status : Nat) : State := s.replyTo m.owner m.strand m.cv m.creg m.block m.slot m.tag status m.id
  s.powered (if m.owner.isNone && s.tableHeld m.task m.dom then s.hold (.storeKdel m) else match s.storeOf m.owner m.task m.dom (m.id / 2 ^ 24) with
    | none => reply s 3
    | some st =>
      if st.chip ≠ s.chip then reply (s.tick.send (.kdel st.chip m)) (if (Config.freeWord s.ticks).getLsbD 0 then 5 else 0)
      else if s.storeBusy st then s.hold (.storeKdel m)
      else
        let s := (s.tellLost st m.owner m.strand).scrub st
        match (s.entries st).find? fun e => e.ctr == m.id % 2 ^ 24 with
        | none => reply s 5
        | some e =>
          reply ((s.removeEntry st e.place).setStore st fun st => { st with resv := st.resv.filter fun r => r.2 != e.ctr }) 0)

/-! ### The domain table (R244, R370, R371) -/

/-- The pavilion number under which the domain arbiter walks: no pavilion's cache holds its translations. -/
def tablePav : Nat := 4096

/-- The Terrace whose ring takes a record of a task's own units: that of its first grove. -/
def State.taskTerrace (s : State) (task : Nat) : Nat := ((((s.task task).groves ++ (s.task task).homes).find? fun g => g < 256).getD 0) / 32

/-- MDOM_REFUSED for a table access that did not succeed (R370). -/
def State.tableRefused (s : State) (task : Nat) (va : Nat) : State :=
  s.record (s.taskTerrace task) { kind := 11, addr := BitVec.ofNat 64 va, task := (s.task task).number } (s.task task).faulth

/-- A table access that waits for the Lodge's answer about its page (R370). A write-back's bytes stand one to a word in `cmd`. -/
def State.tableQueue (s : State) (task va : Nat) (cmd : List Word) (read : Bool) (dom : Nat) : State :=
  let e : Engine := { kind := .table, task := task, strand := 0, pav := tablePav, queue := 0, l := BitVec.ofNat 64 va, r := 0,
                      cv := false, creg := 0, trapErr := false, cmd := cmd, done := if read then 1 else 0, aux := dom,
                      state := .held (BitVec.ofNat 64 va) }
  { s with engines := s.engines.put s.engines.fresh e }

/-- ENGINE_XLATE for a table access that meets a miss: it is held until the Lodge answers (R192, R370). -/
def State.tableHold (s : State) (task va : Nat) (cmd : List Word) (read : Bool) (dom : Nat) : State :=
  (s.record (s.taskTerrace task) { kind := 4, addr := BitVec.ofNat 64 va, task := (s.task task).number } (s.task task).faulth).tableQueue
    task va cmd read dom

/-- A write-back of a task's table, to a given page or to any, is held (R370). -/
def State.backHeld (s : State) (task : Nat) (page : Option Nat) : Bool :=
  s.engines.any fun (x : Nat × Engine) => x.2.kind == .table && x.2.task == task && x.2.done == 0 &&
    page.all fun p => x.2.l.toNat / 4096 == p

/-- Words of a list of bytes. -/
def toWords : Nat → List Byte → List Word
  | 0, _ => []
  | n + 1, d => BitVec.ofNat 64 (leNat (d.take 8)) :: toWords n (d.drop 8)

/-- A write-back of the domain arbiter (R370): performed, held on a miss or for a page in FINAL (R330), or dropped with a record. -/
def State.tableWriteNow (s : State) (task va : Nat) (d : List Byte) : State :=
  match s.flat tablePav task va .store with
  | .ok key => if s.keyOk key then s.unitWrite key d else s.tableRefused task va
  | .miss _ => s.tableHold task va (d.map fun b => b.setWidth 64) false 0
  | .fault _ => s.tableRefused task va

/-- A write-back behind those of its page that are held: they are performed in order. -/
def State.tableWrite (s : State) (task va : Nat) (d : List Byte) : State :=
  if s.backHeld task (some (va / 4096)) then s.tableQueue task va (d.map fun b => b.setWidth 64) false 0 else s.tableWriteNow task va d

/-- Address of domain d's header, and of a store's entry (R370). -/
def domBase (mdt : Word) (d : Nat) : Nat := bits mdt 56 12 * 4096 + 131072 * d
def entryVa (mdt : Word) (d st : Nat) : Nat := domBase mdt d + 64 + 16 * st

/-- The header of a domain as the arbiter holds it. -/
def State.headerBytes (s : State) (task d : Nat) : List Byte :=
  match s.domain task d with
  | none => List.replicate 64 0
  | some x =>
    let n := (s.members task d).length
    toLe 1 (if x.serve then 1 else 2) ++ toLe 1 x.geom.kfmt ++ toLe 1 x.geom.metric ++ toLe 1 (x.geom.dim - 1) ++ toLe 1 x.geom.vkind
      ++ toLe 1 0 ++ toLe 2 (if x.geom.vkind = 1 then x.geom.vlen - 1 else 0) ++ toLe 2 n ++ List.replicate 54 0

/-- The header written back. -/
def State.writeHeader (s : State) (task d : Nat) : State :=
  s.tableWrite task (domBase (s.task task).mdt d) (s.headerBytes task d)

/-- The geometry of a header is one that R244 allows. -/
def Geom.ok (g : Geom) : Bool :=
  g.kfmt ≤ 2 && g.metric ≤ 1 && !(g.kfmt == 2 && g.metric == 1) && 1 ≤ g.dim && g.dim ≤ (if g.kfmt = 2 then 64 else 128)
    && g.vkind ≤ 1 && 1 ≤ g.vlen && g.vlen ≤ 1024 && (g.vkind == 1 || g.vlen == 1)

/-- The registers of a store at an FE of this chip, when the FE admits one more (R244, R245, R369). -/
def State.takeStore (s : State) (st : Store) : Option State :=
  let full := 4 ≤ (s.stores.filter fun x => x.chip == st.chip && x.pav == st.pav && x.fe == st.fe).length
  if full || st.base % 64 != 0 || 65536 < st.base + st.cap * st.geom.e || !st.geom.ok then none
  else some { s with stores := s.stores ++ [st] }

/-- Where a store location leads (R244, R350): the pavilion, for this chip the physical one of the task's logical number, which a
harvested one does not have. A peer's pavilion stands when the peer takes the store (log 10). -/
def State.locPav (s : State) (task : Nat) (loc : Word) : Option Nat :=
  let chip := bits loc 60 48
  if chip = s.chip then s.physPav (s.task task) (bits loc 47 36)
  else if s.isPeer chip && Config.peerTakes chip (bits loc 47 36) (bits loc 35 32) s.ticks then
    some (bits loc 47 36)
  else none

/-- A store attached, when its location admits it (R244, R245, R369). -/
def State.attach (s : State) (task d st : Nat) (g : Geom) (loc : Word) (cap counter : Nat) : Option State :=
  match s.locPav task loc with
  | none => none
  | some p =>
    if (s.store task d st).isSome || bits loc 62 61 != 0 || bits loc 31 16 != 0 then none
    else s.takeStore { task := task, dom := d, store := st, chip := bits loc 60 48, pav := p, fe := bits loc 35 32,
                       base := bits loc 15 0, cap := cap, geom := g, counter := counter }

/-- A location on a peer draws a free value (log 6). -/
def State.tickFor (s : State) (loc : Word) : State := if bits loc 60 48 = s.chip then s else s.tick

/-- A store as a domain command and its location name it (R244). -/
def Store.command (st : Store) (opc : Nat) : Word :=
  BitVec.ofNat 64 (opc * 2 ^ 60 + st.dom * 2 ^ 52 + st.store * 2 ^ 40 +
    if opc = 0 then st.geom.kfmt * 2 ^ 38 + st.geom.metric * 2 ^ 37 + (st.geom.dim - 1) * 2 ^ 30 + (st.cap - 1) * 2 ^ 22
      + st.geom.vkind * 2 ^ 21 + (st.geom.vlen - 1) * 2 ^ 11
    else 0)
def Store.loc (st : Store) : Word := BitVec.ofNat 64 (st.chip * 2 ^ 48 + st.pav * 2 ^ 36 + st.fe * 2 ^ 32 + st.base)

/-- The peer that holds a store learns that its arbiter here has read it from the table (OPC 0), or takes it out of service (1): its FE's
registers are taken or freed (R369, R370; log 10). -/
def State.tellStore (s : State) (st : Store) (opc : Nat) : State :=
  if st.chip = s.chip then s
  else s.send (.mdom st.chip { task := st.task, strand := 0, cmd := st.command opc, loc := st.loc, block := 0, slot := 0, tag := 0,
                               read := if opc = 0 then some st.counter else none })

/-- What the arbiter reads from a domain of the table: each entry with V attached, or written back with V 0 and a record where its
header says EMPTY or breaks R244, or its location does not admit it (R370); the header then follows the stores that are attached
(DEDUCED, log 20). -/
def State.attachRead (s : State) (task d : Nat) (hdr : List Byte) (e : Nat → List Byte) : State :=
  let n (i k : Nat) := leNat ((hdr.drop i).take k)
  let g : Geom := ⟨n 1 1, n 2 1, n 3 1 + 1, n 4 1, n 6 2 + 1⟩
  let valid : Bool := n 0 1 == 1 || n 0 1 == 2
  let r := (List.range 4096).foldl (fun (r : State × Bool) st =>
    let s := r.1
    let b := e st
    let loc := BitVec.ofNat 64 (leNat (b.take 8))
    if !bit loc 63 then r
    else match if valid then s.attach task d st g loc (leNat ((b.drop 8).take 1) + 1) (leNat ((b.drop 9).take 3)) else none with
      | some s' => (match s'.store task d st with
          | some x => (s'.tickFor loc).tellStore x 0
          | none => s', r.2)
      | none =>
        let va := entryVa (s.task task).mdt d st
        (((s.tickFor loc).tableWrite task va (toLe 8 (loc.toNat % 2 ^ 63))).tableRefused task va, true)) (s, false)
  let s := r.1
  let s := if (s.members task d).isEmpty then s
    else { s with domains := s.domains ++ [{ task := task, dom := d, serve := n 0 1 == 1, geom := g }] }
  if r.2 then s.writeHeader task d else s

/-- The parts of a domain in the table, page by page: a header and 4,096 entries, 65,600 bytes (R370). -/
def domPages (mdt : Word) (d : Nat) : List (Nat × Nat) :=
  (List.range 17).map fun i => (domBase mdt d + 4096 * i, if i < 16 then 4096 else 64)

/-- The first poisoned word's address among the n bytes of a page that stand from a key on. -/
def State.firstPoison (s : State) (va key n : Nat) : Nat :=
  match ((s.poison.filter fun w => key / 8 ≤ w && w ≤ (key + n - 1) / 8).map fun w => va + (8 * w - key)).min? with
  | some a => a
  | none => va

/-- The first address of a domain that cannot be read, and whether the Lodge must answer. -/
def State.tableBad (s : State) (task d : Nat) : Option (Nat × Bool) :=
  (domPages (s.task task).mdt d).findSome? fun p => match s.flat tablePav task p.1 .load with
    | .ok key => if s.keyOk key && !s.poisoned (s.ownerKey key) p.2 then none
      else some (s.firstPoison p.1 (s.ownerKey key) p.2, false)
    | .miss _ => some (p.1, true)
    | .fault _ => some (p.1, false)

/-- Bytes of the table through the task's translation. -/
def State.tableBytes (s : State) (task va n : Nat) : List Byte :=
  match s.flat tablePav task va .load with
  | .ok key => Memory.readN s.mem (s.ownerKey key) n
  | _ => []

/-- A domain read from the table (R370): attached, held on a miss, or held EMPTY with a record. -/
def State.readDomain (s : State) (task d : Nat) : State :=
  match s.tableBad task d with
  | some (va, true) => s.tableHold task va [] true d
  | some (va, false) => s.tableRefused task va
  | none =>
    let mdt := (s.task task).mdt
    s.attachRead task d (s.tableBytes task (domBase mdt d) 64) fun st => s.tableBytes task (entryVa mdt d st) 16

/-- The whole table read: at launch, at resumption and when MDT is written (R370). -/
def State.readTable (s : State) (task : Nat) : State :=
  (List.range (bits (s.task task).mdt 8 0)).foldl (fun s d => s.readDomain task d) s

/-- The counters of a task's stores written back into their entries: COUNTER alone (R369, R370). -/
def State.writeCounters (s : State) (task : Nat) : State :=
  (s.stores.filter fun st => st.ofTask task).foldl (fun s st =>
    s.tableWrite task (entryVa (s.task task).mdt st.dom st.store + 9) (toLe 3 st.counter)) s

/-- The task's stores and domains out of service. -/
def State.dropStores (s : State) (task : Nat) : State :=
  { s with stores := s.stores.filter fun st => !st.ofTask task, domains := s.domains.filter fun d => d.task != task }

/-- The counters of a task's stores as its arbiter holds them. -/
def State.tally (s : State) (task : Nat) : List (Nat × Nat × Nat) :=
  (s.stores.filter fun st => st.ofTask task).map fun st => (st.dom, st.store, st.counter)

/-- The task's stores out of service, their counters written back and their registers freed (R369, R370). -/
def State.retireStores (s : State) (task : Nat) : State :=
  ((s.stores.filter fun st => st.ofTask task).foldl (fun s st => s.tellStore st 1) (s.writeCounters task)).dropStores task

/-- A query of the task that a store has not answered, or reservations that are not decided. -/
def State.queriesOut (s : State) (task : Nat) : Bool := s.queries.any fun q => q.2.task == task && q.2.granted

/-! ### MDOM at the domain arbiter (R245, R371) -/

/-- A refused MDOM changes nothing and writes a record (R245). -/
def State.mdomRefuse (s : State) (m : MdomMsg) : State :=
  s.unitRecord m.strand 11 m.block m.slot m.tag 0 (BitVec.ofNat 64 (m.dom * 4096 + m.store))

/-- STATE 0 in every entry of a store here (R367). -/
def State.emptyStore (s : State) (st : Store) : State := (List.range st.cap).foldl (fun s x => s.removeEntry st x) s

/-- ATTACH (R245, R367, R369, R371): the entries are emptied here, or by the peer that the message reaches. -/
def State.mdomAttach (s : State) (m : MdomMsg) : State :=
  let d := s.domain m.task m.dom
  let same : Bool := match d with
    | some x => x.geom == m.geom
    | none => true
  let cap := bits m.cmd 29 22 + 1
  match if same then s.attach m.task m.dom m.store m.geom m.loc cap 0 else none with
  | none => (s.tickFor m.loc).mdomRefuse m
  | some s =>
    let s := match s.store m.task m.dom m.store with
      | some st => if st.chip ≠ s.chip then s.tick.send (.mdom st.chip m) else s.emptyStore st
      | none => s
    let s := if d.isSome then s
      else { s with domains := s.domains ++ [{ task := m.task, dom := m.dom, geom := m.geom }] }
    (s.tableWrite m.task (entryVa (s.task m.task).mdt m.dom m.store)
      (toLe 8 (2 ^ 63 + bits m.loc 60 0) ++ toLe 1 (cap - 1) ++ toLe 7 0)).writeHeader m.task m.dom

/-- A query granted at the domain that a store has not answered. -/
def State.unanswered (s : State) (m : MdomMsg) : Bool :=
  s.queries.any fun q => q.2.task == m.task && q.2.granted && bits q.2.r 63 56 == m.dom && q.2.stores.contains m.store
    && !(q.2.answers.any fun a => a.1 == m.store)

/-- A MATCHC that a store on a peer has granted is not decided there yet: its reservations stand at the peer (R376). -/
def State.undecided (s : State) (m : MdomMsg) : Bool :=
  s.queries.any fun q => q.2.task == m.task && q.2.granted && q.2.consume && bits q.2.r 63 56 == m.dom && q.2.stores.contains m.store
    && (!q.2.merged || q.2.decide.contains m.store)

/-- DETACH (R245, R371, R376): none while the store has queries to answer or reservations to decide. -/
def State.mdomDetach (s : State) (m : MdomMsg) : Option State :=
  match s.store m.task m.dom m.store with
  | none => some (s.mdomRefuse m)
  | some st =>
    if s.storeBusy st || !st.resv.isEmpty || s.unanswered m || (st.chip != s.chip && s.undecided m) then none
    else
      let s := { s with stores := s.stores.filter fun x => !x.isAt m.task m.dom m.store }
      let s := if st.chip ≠ s.chip then s.send (.mdom st.chip m) else s
      let s := if s.stores.any fun x => x.ofTask m.task && x.dom == m.dom then s
        else { s with domains := s.domains.filter fun d => !(d.task == m.task && d.dom == m.dom) }
      some ((s.tableWrite m.task (entryVa (s.task m.task).mdt m.dom m.store)
        (toLe 8 0 ++ toLe 1 (st.cap - 1) ++ toLe 3 st.counter ++ toLe 4 0)).writeHeader m.task m.dom)

/-- A domain's state set (R371). -/
def State.setServe (s : State) (m : MdomMsg) (v : Bool) : State :=
  match s.domain m.task m.dom with
  | none => s.mdomRefuse m
  | some _ =>
    { s with domains := s.domains.map fun (d : Domain) => (if d.task == m.task && d.dom == m.dom then { d with serve := v } else d) }.writeHeader
      m.task m.dom

/-- CLEAR (R245, R253): none while the store cannot take a grant. -/
def State.mdomClear (s : State) (m : MdomMsg) : Option State :=
  match s.store m.task m.dom m.store with
  | none => some (s.mdomRefuse m)
  | some st =>
    if st.chip = s.chip && s.storeBusy st then none
    else
      let s := if st.chip ≠ s.chip then s.send (.mdom st.chip m) else s.emptyStore st
      let s := s.modStore m.task m.dom m.store fun st => { st with counter := 0, resv := [] }
      some (s.tableWrite m.task (entryVa (s.task m.task).mdt m.dom m.store + 9) (toLe 3 0))

/-- The task here that holds a pavilion. -/
def State.holder (s : State) (pav : Nat) : Option Nat := s.tasks.findIdx? fun t => t.groves.contains (groveOf pav)

/-- A peer's command at a store's place here (R245, R350, R369): its domain arbiter has admitted it, and the FE's arbiter takes the
store's registers, empties it or frees them, and answers; an ATTACH that its arbiter makes from its table empties nothing, and finds the
store of a task that is resumed still attached (R370); none while the store cannot take it. SERVE and REBUILD reach no store. -/
def State.peerMdom (s : State) (m : MdomMsg) (c : Nat) : Option State :=
  let reply (s : State) (ok : Bool) (n : Nat) : State := s.send (.mdomAnswer c m.task m.dom m.store ok n)
  let pav := bits m.loc 47 36
  match bits m.cmd 63 60, s.storeOf (some c) m.task m.dom m.store with
  | 0, none =>
    let st : Store := { task := m.task, dom := m.dom, store := m.store, chip := s.chip, pav := pav, fe := bits m.loc 35 32,
                        base := bits m.loc 15 0, cap := bits m.cmd 29 22 + 1, geom := m.geom, owner := some c, host := s.holder pav }
    match if s.usable pav then s.takeStore { st with counter := m.read.getD 0 } else none with
    | none => some (reply s false 0)
    | some s' => some (reply (if m.read.isSome then s' else s'.emptyStore st) true (m.read.getD 0))
  | 0, some st => some (reply s m.read.isSome st.counter)
  | 1, some st =>
    if s.storeBusy st || !st.resv.isEmpty then none
    else some (reply { s with stores := s.stores.filter fun x => !x.isOf (some c) m.task m.dom m.store } true st.counter)
  | 4, some st =>
    if s.storeBusy st then none
    else some (reply ((s.emptyStore st).setStore st fun st => { st with counter := 0, resv := [] }) true 0)
  | _, _ => some (reply s false 0)

/-- MDOM at the domain arbiter, by its OPC; none while it must wait, as for a read of its domain that is held (R370). -/
def State.mdom (s : State) (m : MdomMsg) : Option State :=
  if s.tableHeld m.task m.dom then none
  else match bits m.cmd 63 60 with
  | 0 => some (s.mdomAttach m)
  | 1 => s.mdomDetach m
  | 2 => some (s.setServe m true)
  | 3 => some (s.setServe m false)
  | _ => s.mdomClear m

/-- A command of this chip's own domain, or a peer's at a store here. -/
def State.mdomEvent (s : State) (m : MdomMsg) (own : Option State) : Out :=
  s.powered ((match m.owner with
    | none => if s.tableHeld m.task m.dom then none else own
    | some c => s.peerMdom m c).getD s)

/-- MDOM_ATTACH (R245, R371). -/
def execMdomAttach (m : MdomMsg) (s : State) : Out := s.mdomEvent m (some (s.mdomAttach m))
/-- MDOM_DETACH (R245, R371, R376). -/
def execMdomDetach (m : MdomMsg) (s : State) : Out := s.mdomEvent m (s.mdomDetach m)
/-- MDOM_SERVE (R371). -/
def execMdomServe (m : MdomMsg) (s : State) : Out := s.mdomEvent m (some (s.setServe m true))
/-- MDOM_REBUILD (R371). -/
def execMdomRebuild (m : MdomMsg) (s : State) : Out := s.mdomEvent m (some (s.setServe m false))
/-- MDOM_CLEAR (R245, R253). -/
def execMdomClear (m : MdomMsg) (s : State) : Out := s.mdomEvent m (s.mdomClear m)

end Sys2Proof.Machine
end

