-- ==== Sys2Proof/Machine/EngineOps.lean ====
section
/-! DEFINITION. What the engines share (R189 to R193): their commands, their reads and writes of memory and of buffer slots,
the tile tables of streams (R315, R316), and the heat that their accesses count (R327). -/

namespace Sys2Proof.Machine

/-- The party as which an engine reads: its pavilion, and no strand (R282). -/
def engineParty : Nat := 2 ^ 40

/-- What an access of an engine gives: a value, a translation miss, the status that ends the operation, or a wait. -/
inductive Got (α : Type) where
  | ok (s : State) (v : α)
  | hold (addr : Word) (badpte : Bool)
  | stop (status : Nat) (addr : Word)
  | wait

/-- One access after the other. -/
def Got.bind {α β : Type} (x : Got α) (f : State → α → Got β) : Got β :=
  match x with
  | .ok s v => f s v
  | .hold a b => .hold a b
  | .stop n a => .stop n a
  | .wait => .wait

/-- An access for each element of a list, the values in order. -/
def Got.each {α β : Type} (f : State → α → Got β) : List α → State → Got (List β)
  | [], s => .ok s []
  | x :: t, s => (f s x).bind fun s v => (Got.each f t s).bind fun s vs => .ok s (v :: vs)

/-- Bytes off to off + n − 1 of a command, as a number. -/
def cmdField (cmd : List Word) (off n : Nat) : Nat :=
  (cmd.foldr (fun w acc => w.toNat + 2 ^ 64 * acc) 0) / 2 ^ (8 * off) % 2 ^ (8 * n)

def cmdAddr (cmd : List Word) (off : Nat) : Word := BitVec.ofNat 64 (cmdField cmd off 8)

/-! ### Heat -/

/-- An entry with n elements more; STALL counts cycles, which are free values (log 6). -/
def Heat.add (h : Heat) (n stall : Nat) : Heat :=
  { h with elems := Nat.min (h.elems + n) (2 ^ 32 - 1), stall := Nat.min (h.stall + stall) (2 ^ 32 - 1) }

def Heat.heat (h : Heat) : Nat := Nat.min (h.elems + 8 * h.stall) (2 ^ 32 - 1)

/-- The index of the entry of least heat, the lowest among equals. -/
def coldest : List Heat → Nat
  | [] => 0
  | [_] => 0
  | h :: t => let i := coldest t; if ((t[i]?).map Heat.heat).getD 0 < h.heat then i + 1 else 0

/-- n elements of a frame, as the access addressed it, are counted while HEATCTL.EN is 1 (R327, R328). -/
def State.touch (s : State) (key n : Nat) : State :=
  if !bit s.heatctl 0 || 2 ^ 55 ≤ key then s
  else
    let f := frameOf key
    let stall := (Config.freeCycles s.ticks).toNat
    match s.heat.findIdx? (·.frame == f) with
    | some i => { s.tick with heat := s.heat.set i (((s.heat[i]?).getD { frame := f }).add n stall) }
    | none =>
      let h : Heat := Heat.add { frame := f } n stall
      if s.heat.length < 1024 then { s.tick with heat := s.heat ++ [h] } else { s.tick with heat := s.heat.set (coldest s.heat) h }

/-! ### Memory -/

/-- A key that an engine accesses, at its page's owner (R192, R306, R330). -/
def State.engineHome (s : State) (key n : Nat) (va : Word) (need : Need) : Got Nat :=
  match s.serve key (if need == .load then n else 0) with
  | .key k => .ok s k
  | .wait => .wait
  | .lost => .stop 5 va

/-- The key of n bytes at an address that lie in one page or one bank. -/
def State.engineKey (s : State) (e : Engine) (va : Word) (n : Nat) (need : Need) : Got Nat :=
  if isWindow va then
    match s.bankWindow e.task e.pav va with
    | none => .stop 2 va
    | some (p, fe, off) =>
      if 65536 < off + n || !s.purposed e.task p fe off n then .stop 4 va
      else s.engineHome (bankKey p fe + off) n va need
  else if !isFlat va then .stop 2 va
  else match s.flat e.pav e.task va.toNat need with
    | .miss b => .hold va b
    | .fault .uncorr => .stop 5 va
    | .fault _ => .stop 2 va
    | .ok key =>
      match s.engineHome key n va need with
      | .ok s' k => .ok ((s'.cache e.pav e.task va.toNat).touch key (ceilDiv n 64)) k
      | r => r

/-- The parts of a range, page by page: address and bytes. -/
def pageParts (va : Word) (n : Nat) : List (Word × Nat) :=
  if isWindow va then [(va, n)]
  else
    let o := va.toNat % 4096
    (List.range ((o + n + 4095) / 4096)).map fun i =>
      let lo := 4096 * i - o
      (va + BitVec.ofNat 64 lo, Nat.min n (4096 * (i + 1) - o) - lo)

/-- n bytes from an address on, as the engine's pavilion sees them. -/
def State.engineRead (s : State) (e : Engine) (va : Word) (n : Nat) : Got (List Byte) :=
  (Got.each (fun s (p : Word × Nat) => (s.engineKey e p.1 p.2 .load).bind fun s key =>
    .ok s (s.viewN engineParty e.pav key p.2)) (pageParts va n) s).bind fun s ps => .ok s ps.flatten

/-- Bytes written from an address on, once every page of the range admits them, behind this chip's earlier stores to them (R287). -/
def State.engineWrite (s : State) (e : Engine) (va : Word) (d : List Byte) : Got Unit :=
  (Got.each (fun s (p : Word × Nat) => (s.engineKey e p.1 p.2 .store).bind fun s key => .ok s (key, p.2))
    (pageParts va d.length) s).bind fun s ks =>
      .ok ((ks.foldl (fun (st : State × List Byte) k => ((st.1.reachHome k.1 k.2).writeHome k.1 (st.2.take k.2), st.2.drop k.2)) (s, d)).1) ()

/-! ### Buffer slots -/

/-- The descriptors of a strand as they stand at a launch. -/
def State.snapshot (s : State) (t : Strand) : List BufSnap :=
  t.bufs.filterMap fun (b : Nat × Nat) => (s.buffers.find b.2).map fun r => ⟨b.1, b.2, r.p, r.c, r.filled⟩

/-- The buffer that a descriptor named at launch, when the descriptor lies below the declared count and the buffer still is. -/
def State.snapBuf (s : State) (e : Engine) (d : Nat) : Option (BufSnap × BufRec) :=
  if (s.task e.task).desc.buffers ≤ d then none
  else match e.snap.find? fun x => x.desc == d with
    | none => none
    | some x => (s.buffers.find x.buf).map fun r => (x, r)

/-- Producer-side slot k, counted from P at launch, lies below free as it stands (R214). -/
def BufSnap.freeNow (x : BufSnap) (r : BufRec) (k : Nat) : Bool := (x.p + k + r.modulus - r.p) % r.modulus < r.room

/-- Producer-side slot k, counted from P at launch, was free at launch, or has become free since (R195). -/
def BufSnap.free (x : BufSnap) (r : BufRec) (k : Nat) : Bool := k < r.count - x.filled || x.freeNow r k

/-- Consumer-side slot k, counted from C at launch, lies below filled as it stands (R214). -/
def BufSnap.full (x : BufSnap) (r : BufRec) (k : Nat) : Bool := (x.c + k + r.modulus - r.c) % r.modulus < r.filled

/-- Key of byte off of a slot counted from the counts at launch. -/
def BufSnap.prodKey (x : BufSnap) (r : BufRec) (k off : Nat) : Nat := r.slotKey ((x.p + k) % r.count) + off
def BufSnap.consKey (x : BufSnap) (r : BufRec) (k off : Nat) : Nat := r.slotKey ((x.c + k) % r.count) + off

/-! ### Tile tables (R316) -/

/-- The tensor directory's entry, read at its home: the table's address, the tile count and BOFF (R306, R316). -/
def State.tensorDir (s : State) (task n : Nat) : Got (Nat × Nat × Nat) :=
  let a := (s.task task).desc.tdir + 16 * n
  match s.serve a 16 with
  | .key k => .ok s (s.home k 8, s.home (k + 8) 4, s.home (k + 12) 2)
  | .wait => .wait
  | .lost => .stop 5 (BitVec.ofNat 64 a)

/-- The address that a stream's record carries (R316). -/
def tileRef (tensor tile : Nat) : Word := BitVec.ofNat 64 (tensor % 4096 * 2 ^ 32 + tile % 2 ^ 32)

/-- A tile table entry that R316 allows. -/
def tileOk (e : Word) : Bool := bit e 63 && bits e 61 55 == 0 && bits e 11 0 == 0

/-- The tile table's entry of a tile: cached, or read from the table at its home (R306, R316). -/
def State.tileEntry (s : State) (task tensor tile : Nat) (dir : Nat × Nat × Nat) : Got Word :=
  let ref := tileRef tensor tile
  match s.tiles.find? fun x => x.task == task && x.tensor == tensor && x.tile == tile with
  | some x => .ok s x.entry
  | none =>
    if dir.2.1 ≤ tile then .hold ref false
    else match s.serve (dir.1 + 8 * tile) 8 with
      | .wait => .wait
      | .lost => .stop 5 ref
      | .key k =>
        let w := BitVec.ofNat 64 (s.home k 8)
        if tileOk w then .ok s w else .hold ref false

/-- A valid entry is cached until a TLBI drops it. -/
def State.cacheTile (s : State) (task tensor tile : Nat) (w : Word) : State :=
  if s.tiles.any fun x => x.task == task && x.tensor == tensor && x.tile == tile then s
  else { s with tiles := s.tiles ++ [⟨task, tensor, tile, w⟩] }

/-- The key of the byte at an offset from the tensor's base (R315); its tile must be there, and allow writes for SSTORE. The element
counts as heat of the frame that the tile names (R327, R328). -/
def State.tileKey (s : State) (e : Engine) (tensor off n : Nat) (need : Need) : Got Nat :=
  (s.tensorDir e.task tensor).bind fun s dir =>
  let o := dir.2.2 + off
  let ref := tileRef tensor (o / 4096)
  (s.tileEntry e.task tensor (o / 4096) dir).bind fun s w =>
    if need == .store && !bit w 62 then .stop 2 ref
    else
      let named := bits w 54 12 * 4096 + o % 4096
      (s.engineHome named n ref need).bind fun s key => .ok ((s.cacheTile e.task tensor (o / 4096) w).touch named 1) key

/-! ### Collection headers -/

/-- A collection header (R255). -/
structure Coll where
  va      : Word
  keys    : Word
  vals    : Word
  attrs   : Word
  side    : Word
  tomb    : Word
  sums    : Word
  n       : Nat
  sidelen : Nat
  sidecap : Nat
  geom    : Geom
  logPage : Nat
  cid     : Nat
  res     : Nat

def collOf (va : Word) (d : List Byte) : Coll :=
  let f (o n : Nat) := leNat ((d.drop o).take n)
  let a (o : Nat) : Word := BitVec.ofNat 64 (f o 8)
  { va := va, keys := a 0, vals := a 8, attrs := a 16, side := a 24, tomb := a 32, sums := a 40, n := f 48 4, sidelen := f 52 2,
    sidecap := f 54 2, geom := ⟨f 56 1, f 58 1, f 57 1 + 1, 0, 1⟩, logPage := f 59 1, cid := f 60 2, res := f 62 2 }

/-- A header that breaks the limits of R255. -/
def Coll.bad (c : Coll) : Bool :=
  !c.geom.ok || c.res != 0 || c.logPage < 6 || 12 < c.logPage || c.sidecap == 0 || c.sidecap < c.sidelen || 2 ^ 24 < c.n + c.sidecap

/-- Bytes of a side record. -/
def Coll.recBytes (c : Coll) : Nat := 32 + c.geom.keyBytes
def Coll.sideVa (c : Coll) (i : Nat) : Word := c.side + BitVec.ofNat 64 (i * c.recBytes)
def Coll.keyVa (c : Coll) (i : Nat) : Word := c.keys + BitVec.ofNat 64 (i * c.geom.keyBytes)

/-! ### Launching -/

/-- Two ranges of the space that destinations are compared in overlap. -/
def rangesMeet (a b : Nat × Nat) : Bool := a.1 < b.1 + b.2 && b.1 < a.1 + a.2

/-- Where the slots of banks stand in the space in which destinations are compared: above every flat address. -/
def slotSpace : Nat := 2 ^ 57

/-- The slots of a snapshot buffer from index k on, as ranges of that space. -/
def State.slotRanges (s : State) (e : Engine) (d k n : Nat) : List (Nat × Nat) :=
  match s.snapBuf e d with
  | none => []
  | some (x, r) => (List.range (Nat.min n r.count)).map fun i => (slotSpace + x.prodKey r (k + i) 0, r.size)

/-- The words of an operation's command (R194 to R196, R256 to R259, R265, R266). -/
def EngKind.cmdWords : EngKind → Nat
  | .cpy | .cpyt | .coll | .kappend | .kmerge | .ksum | .igather | .walk => 4
  | .mscan => 8
  | .wsld | .sload | .sstore | .tlbi | .table => 0

/-- The command as it was read, or as it stands when it can be read now. -/
def State.peekCmd (s : State) (e : Engine) : Option (List Word) :=
  if e.cmd.length < e.kind.cmdWords then
    match s.engineRead e e.l (8 * e.kind.cmdWords) with
    | .ok _ d => some (toWords e.kind.cmdWords d)
    | _ => none
  else some e.cmd

/-- The ranges that an operation on a collection writes, as its header stands (R256, R257, R259); none while that cannot be read. -/
def State.collDst (s : State) (e : Engine) (c : List Word) : Option (List (Nat × Nat)) :=
  let va := cmdAddr c 0
  match s.engineRead e va 64 with
  | .ok _ d =>
    let h := collOf va d
    let a (base : Word) (w i : Nat) := base.toNat + w * i
    some (if isWindow va || va.toNat % 64 ≠ 0 || h.bad then [] else match e.kind with
      | .kappend => [(a h.side h.recBytes h.sidelen, h.recBytes), (va.toNat + 52, 2)]
      | .kmerge => [(a h.keys h.geom.keyBytes h.n, h.geom.keyBytes * h.sidelen), (a h.vals 8 h.n, 8 * h.sidelen),
                    (a h.attrs 4 h.n, 4 * h.sidelen), (h.tomb.toNat, ceilDiv (h.n + h.sidelen) 8), (va.toNat + 48, 6)]
      | _ => [(a h.sums (2 * h.geom.keyBytes) (cmdField c 8 4), 2 * h.geom.keyBytes * cmdField c 12 4)])
  | _ => none

/-- The rows of a box of a tensor, as ranges of flat addresses: nothing outside the tensor is written (R213). -/
def TensorInfo.boxRanges (i : TensorInfo) (row col rows cols : Nat) : List (Nat × Nat) :=
  (List.range (Nat.min rows (i.rows - row))).filterMap fun r =>
    let first := (row + r) * i.cols + col
    let last := first + Nat.min cols (i.cols - col)
    if i.cols ≤ col then none
    else some (i.base + first * i.fmt.width / 8, ceilDiv (last * i.fmt.width) 8 - first * i.fmt.width / 8)

/-- The destination of a launch, none while it cannot be told (R193, R214): flat ranges by flat address, a tensor's by the flat
address that its port table entry gives it, slots by the keys of their banks (log 45). -/
def State.engineDst (s : State) (e : Engine) : Option (List (Nat × Nat)) :=
  (s.peekCmd e).bind fun c =>
  let f (o n : Nat) := cmdField c o n
  match e.kind with
  | .cpy => some [(f 8 8, f 16 4)]
  | .cpyt => some (s.slotRanges e (f 15 1) (f 16 2) 1)
  | .coll => some [(f 8 8, (if f 28 1 = 2 then 8 else 4) * f 24 4)]
  | .mscan => some [(f 44 8, 32 + 32 * (f 32 1 + 1))]
  | .kappend | .kmerge | .ksum => s.collDst e c
  | .igather => some (match s.snapBuf e (f 20 1) with
    | none => []
    | some (_, r) => s.slotRanges e (f 20 1) (f 22 2) ((f 4 2 + 1) * ceilDiv (f 16 4) r.size))
  | .walk => some (match s.snapBuf e (f 23 1) with
    | none => []
    | some (_, r) => s.slotRanges e (f 23 1) (f 24 2) ((f 20 2 + 1) * ceilDiv (f 16 4) r.size))
  | .wsld => some (s.slotRanges e (bits e.r 49 45) (bits e.r 44 30) 1)
  | .sload => some (match s.tensor e.task (bits e.l 63 52), s.snapBuf e (bits e.l 51 47) with
    | some i, some (_, r) =>
      let box := (bits e.l 31 26 + 1) * (bits e.l 25 16 + 1)
      s.slotRanges e (bits e.l 51 47) (bits e.l 46 32) (if bit e.l 15 then box / 1024 else ceilDiv (box * i.fmt.width / 8) r.size)
    | _, _ => [])
  | .sstore => some (match s.tensor e.task (bits e.l 63 52) with
    | some i => i.boxRanges (bits e.r 63 32) (bits e.r 31 0) (bits e.l 31 26 + 1) (bits e.l 25 16 + 1)
    | none => [])
  | .tlbi | .table => some []

/-- An engine operation of the task, in another queue, whose destination meets this one's (R193); a WSLD is in no queue. -/
def State.dstOverlap (s : State) (e : Engine) (dst : List (Nat × Nat)) : Bool :=
  s.engines.any fun (x : Nat × Engine) => x.2.task == e.task && !(e.queue < 8 && x.2.pav == e.pav && x.2.queue == e.queue)
    && dst.any fun a => x.2.dst.any fun b => rangesMeet a b

/-- The first destination address of a launch: a slot's is its KIND 0 bank window address (R164, R429). -/
def firstDst (e : Engine) (dst : List (Nat × Nat)) : Word :=
  let a := (dst.head?.map (·.1)).getD 0
  if a < 2 ^ 57 then BitVec.ofNat 64 a else BitVec.ofNat 64 (0xFF * 2 ^ 56 + (a - slotSpace - bankKey e.pav 0))

/-- A completion value (R190). -/
def completionValue (status : Nat) (detail : Word) : Word := BitVec.ofNat 64 (status % 16 * 2 ^ 60 + bits detail 56 0)

/-- A completion written, or with CV 0 an ENGINE_ERROR record for one that is not DONE (R190). -/
def State.engineReport (s : State) (e : Engine) (status : Nat) (detail : Word) : State :=
  let v := completionValue status detail
  if e.cv then s.complete e.strand e.creg v e.trapErr
  else if status = 0 then s
  else s.unitRecord e.strand 5 e.block e.slot e.tag status detail v

/-- An operation that DETERM stops before any byte is written: it completes with OVERLAP in its queue's order, and its strand raises
F_OVERLAP (R191, R193, R429). -/
def State.stopOverlap (s : State) (i : Nat) (e : Engine) (dst : List (Nat × Nat)) : State :=
  let first := firstDst e dst
  State.regionFault { s with engines := s.engines.put i { e with state := .finished 6 first } } e.strand
    { code := .overlap, addr := first, detail := completionValue 6 first }

/-- An engine operation launched at publish step 2 (R189, R193): under DETERM a launch whose destination meets another's in flight is
stopped. -/
def State.launchEngine (s : State) (t : Strand) (e : Engine) : State :=
  let e := { e with snap := s.snapshot t }
  let dst := if (s.task e.task).determ then s.engineDst e else some []
  let s := if e.cv then s.setPending e.strand e.creg else s
  let i := s.engines.fresh
  if s.dstOverlap e (dst.getD []) then s.stopOverlap i e (dst.getD [])
  else { s with engines := s.engines.put i { e with dst := dst.getD [], untold := dst.isNone } }

end Sys2Proof.Machine
end

