-- ==== Sys2Proof/Machine/EngineEvents.lean ====
section
/-! DEFINITION. The engines at work (R189 to R199, R213, R255 to R266, R271): an operation starts, moves its units one by
one, and completes in order. -/

namespace Sys2Proof

/-- Bytes of an element. -/
def CollKey.width (k : CollKey) : Nat := if k.fmt = 2 then 8 else 4

/-- The command's values are ones that R196 allows. -/
def CollKey.ok (k : CollKey) : Bool :=
  k.chip0 < 4608 && 1 ≤ k.parts && k.parts ≤ 4608 && k.stride < 8192 && 1 ≤ k.len && k.len ≤ 2 ^ 20 && k.fmt ≤ 2 && k.op ≤ 2
    && (List.range k.parts).all fun r => (k.chip0 + r * k.stride) % 8192 < 4608

/-- The rank is one of the collective, on this chip. DESIGN CHOICE (log 112): a launch whose RANK lies by CHIP0 and STRIDE on another chip,
for which R196 names no outcome, is a mismatch and ends every matching launch with BADCMD. -/
def CollKey.rankOk (k : CollKey) (rank chip : Nat) : Bool := rank < k.parts && (k.chip0 + rank * k.stride) % 8192 == chip

end Sys2Proof

namespace Sys2Proof.Machine

def State.engine (s : State) (i : Nat) : Option Engine := s.engines.find i

def State.setEngine (s : State) (i : Nat) (e : Engine) : State := { s with engines := s.engines.put i e }

/-- What the next unit of an operation does. -/
inductive Unit1 where
  | moved (s : State) (n : Nat)                 -- n units more are done
  | cmd (s : State) (c : List Word)             -- more words stand behind the command
  | finish (s : State) (status : Nat) (detail : Word)
  | hold (addr : Word) (badpte : Bool)
  | slots
  | refresh (seg : Nat)
  | wait
  | to (s : State) (st : EngState)              -- it waits at another unit

/-- An access whose failure ends or holds the unit. -/
def Got.unit {α : Type} (s0 : State) (x : Got α) (f : State → α → Unit1) : Unit1 :=
  match x with
  | .ok s v => f s v
  | .hold a b => .hold a b
  | .stop n a => .finish s0 n a
  | .wait => .wait

/-- The status BADCMD (log 30: DETAIL names the command's address). -/
def badCmd (s : State) (e : Engine) : Unit1 := .finish s 4 e.l

/-- A number that a command holds, as bytes off to off + n − 1. -/
def Engine.f (e : Engine) (off n : Nat) : Nat := cmdField e.cmd off n
def Engine.addr (e : Engine) (off : Nat) : Word := cmdAddr e.cmd off

/-! ### Copies -/

/-- CPY (R194). -/
def cpyUnit (s : State) (e : Engine) : Unit1 :=
  let src := e.addr 0
  let dst := e.addr 8
  let len := e.f 16 4
  if isWindow dst || len == 0 || e.f 20 12 != 0 then badCmd s e
  else if isWindow src && (match s.bankWindow e.task e.pav src with
      | none => false
      | some (p, fe, off) => 65536 < off + len || !s.purposed e.task p fe off len) then badCmd s e
  else if !isWindow src && rangesMeet (src.toNat, len) (dst.toNat, len) then .finish s 6 dst
  else if e.done = len then .finish s 0 (BitVec.ofNat 64 len)
  else
    let a := src + BitVec.ofNat 64 e.done
    let b := dst + BitVec.ofNat 64 e.done
    let n := Nat.min (len - e.done) (4096 - b.toNat % 4096)
    let n := if isWindow src then n else Nat.min n (4096 - a.toNat % 4096)
    (s.engineRead e a n).unit s fun s' d => (s'.engineWrite e b d).unit s fun s' _ => .moved s' n

/-- Bytes written to a slot of the launching strand's pavilion. -/
def slotWrite (s : State) (key : Nat) (d : List Byte) : State := s.writeHome key d

/-- CPYT (R195). DESIGN CHOICE (log 111): nonzero reserved bytes and bits of ROWS above 4, which the rule's list of BADCMD does not name,
end the operation with BADCMD. -/
def cpytUnit (s : State) (e : Engine) : Unit1 :=
  let rowB := e.f 12 2 + 1
  let rows := e.f 14 1 + 1
  match s.snapBuf e (e.f 15 1) with
  | none => badCmd s e
  | some (x, r) =>
    let k := e.f 16 2
    if 32 < rows || e.f 18 14 != 0 || r.size < rows * rowB || r.count ≤ k || isWindow (e.addr 0) then badCmd s e
    else if !x.free r k then .slots
    else if e.done = rows * rowB then .finish s 0 (BitVec.ofNat 64 e.done)
    else
      let off := e.done % rowB
      let a := e.addr 0 + BitVec.ofNat 64 (e.done / rowB * e.f 8 4 + off)
      let n := Nat.min (rowB - off) (4096 - a.toNat % 4096)
      (s.engineRead e a n).unit s fun s' d => .moved (slotWrite s' (x.prodKey r k e.done) d) n

/-- A gather's next piece: from an address into slot k of the strand's buffer at an offset. -/
def gatherUnit (s : State) (e : Engine) (x : BufSnap) (r : BufRec) (src : Word) (k off rest : Nat) : Unit1 :=
  if !x.free r k then .slots
  else
    let n := Nat.min (Nat.min rest (r.size - off)) (if isWindow src then rest else 4096 - src.toNat % 4096)
    (s.engineRead e src n).unit s fun s' d => .moved (slotWrite s' (x.prodKey r k off) d) n

/-- IGATHER (R265): aux is ITB as its region used it; the entries are read in one grant and then stand behind the command. -/
def igatherUnit (s : State) (e : Engine) : Unit1 :=
  let cnt := e.f 4 2 + 1
  let n := e.f 16 4
  match s.snapBuf e (e.f 20 1) with
  | none => badCmd s e
  | some (x, r) =>
    let per := ceilDiv n r.size
    let itb := BitVec.ofNat 64 e.aux
    if bits itb 8 0 ≤ e.f 0 1 || e.f 1 1 != 0 || 1024 < e.f 2 2 + cnt || e.f 6 2 != 0 || n == 0 || e.f 21 1 != 0
        || e.f 24 8 != 0 || r.count < e.f 22 2 + cnt * per then badCmd s e
    else if e.cmd.length = 4 then
      let a := BitVec.ofNat 64 (bits itb 56 13 * 8192 + 8192 * e.f 0 1 + 8 * e.f 2 2)
      (s.engineRead e a (8 * cnt)).unit s fun s' d =>
        let es := toWords cnt d
        if es.all fun w => bit w 63 then .cmd s' (e.cmd ++ es) else badCmd s e
    else if e.done = cnt * n then .finish s 0 (BitVec.ofNat 64 e.done)
    else
      let j := e.done / n
      let o := e.done % n
      let page := (e.cmd[4 + j]?).getD 0 &&& 0x01FFFFFFFFFFFFFF
      gatherUnit s e x r (page + e.addr 8 + BitVec.ofNat 64 o) (e.f 22 2 + j * per + o / r.size) (o % r.size) (n - o)

/-- WALK (R266). -/
def walkUnit (s : State) (e : Engine) : Unit1 :=
  let n := e.f 16 4
  let cnt := e.f 20 2 + 1
  let esz := if e.f 22 1 = 0 then 4 else 8
  let idx := e.addr 0
  match s.snapBuf e (e.f 23 1) with
  | none => badCmd s e
  | some (x, r) =>
    let per := ceilDiv n r.size
    let badIdx : Bool := isWindow idx && (match s.bankWindow e.task e.pav idx with
      | none => false
      | some (p, fe, off) => 65536 < off + esz * cnt || !s.purposed e.task p fe off (esz * cnt))
    if n == 0 || n % 64 != 0 || 1024 < cnt || 1 < e.f 22 1 || r.count < e.f 24 2 + cnt * per || e.f 26 6 != 0 || badIdx
        || isWindow (e.addr 8) then badCmd s e
    else if e.done = cnt * n then .finish s 0 (BitVec.ofNat 64 e.done)
    else
      let j := e.done / n
      let o := e.done % n
      (s.engineRead e (idx + BitVec.ofNat 64 (esz * j + esz - 4)) 4).unit s fun s d =>
        gatherUnit s e x r (e.addr 8 + BitVec.ofNat 64 (leNat d * n + o)) (e.f 24 2 + j * per + o / r.size) (o % r.size) (n - o)

/-- WSLD (R198, R304): one 64-byte unit; it waits for its own segment's refresh window, and for the slot; a
poisoned source ends it (R192). -/
def wsldUnit (s : State) (e : Engine) : Unit1 :=
  let len := bits e.r 10 0
  let te := terraceOf e.pav
  let k := bits e.r 44 30
  match s.snapBuf e (bits e.r 49 45) with
  | none => badCmd s e
  | some (x, r) =>
    if r.count ≤ k then badCmd s e
    else if e.done = len then .finish s 0 (BitVec.ofNat 64 (64 * len))
    else
      let off := e.l.toNat + 64 * e.done
      if !x.free r k then .slots
      else if off / 2 ^ 25 = (s.terrace te).seg then .refresh (off / 2 ^ 25)
      else if s.poisoned (weightKey te + off) 64 then .finish s 5 (BitVec.ofNat 64 off)
      else .moved (slotWrite s (x.prodKey r k (64 * e.done)) (Memory.readN s.mem (weightKey te + off) 64)) 1

/-! ### Streams (R213 to R216) -/

/-- An element outside the tensor (R213). -/
def zeroElem (f : Fmt) : Nat := zeroCode f

/-- The fields of a stream (R212). -/
structure Box where
  tensor : Nat
  fmt    : Fmt
  trows  : Nat
  tcols  : Nat
  k      : Nat
  rows   : Nat
  cols   : Nat
  tile   : Bool
  pl     : Bool
  aux    : Word32
  row0   : Nat
  col0   : Nat

def streamBox (i : TensorInfo) (e : Engine) : Box :=
  { tensor := bits e.l 63 52, fmt := i.fmt, trows := i.rows, tcols := i.cols, k := bits e.l 46 32, rows := bits e.l 31 26 + 1,
    cols := bits e.l 25 16 + 1, tile := bit e.l 15, pl := bit e.l 14, aux := if bit e.l 13 then 1 else 0,
    row0 := bits e.r 63 32, col0 := bits e.r 31 0 }

/-- Bytes of one row of the box in the run, and of the whole run (R213). -/
def Box.rowBytes (b : Box) : Nat := b.cols * b.fmt.width / 8
def Box.bytes (b : Box) : Nat := b.rows * b.rowBytes

/-- Slots that the box takes of a buffer. -/
def Box.slots (b : Box) (size : Nat) : Nat := if b.tile then b.rows / 32 * (b.cols / 32) else ceilDiv b.bytes size

/-- The stored bits of a tensor element (R213, R315); an element outside the tensor is zero. -/
def loadElem (e : Engine) (b : Box) (s : State) (rc : Nat × Nat) : Got Nat :=
  if b.trows ≤ b.row0 + rc.1 || b.tcols ≤ b.col0 + rc.2 then .ok s (zeroElem b.fmt)
  else
    let i := (b.row0 + rc.1) * b.tcols + (b.col0 + rc.2)
    let n := Nat.max 1 (b.fmt.width / 8)
    (s.tileKey e b.tensor (i * b.fmt.width / 8) n .load).bind fun s key =>
      let v := leNat (s.viewN engineParty e.pav key n)
      .ok s (if b.fmt.width = 4 then v / 16 ^ (i % 2) % 16 else v)

/-- Where a tensor element is stored: its key; none when it lies outside the tensor. -/
def storeElem (e : Engine) (b : Box) (s : State) (rc : Nat × Nat) : Got (Option (Nat × Nat)) :=
  if b.trows ≤ b.row0 + rc.1 || b.tcols ≤ b.col0 + rc.2 then .ok s none
  else
    let i := (b.row0 + rc.1) * b.tcols + (b.col0 + rc.2)
    (s.tileKey e b.tensor (i * b.fmt.width / 8) (Nat.max 1 (b.fmt.width / 8)) .store).bind fun s key => .ok s (some (key, i % 2))

/-- One element written at its key, behind this chip's earlier stores there (R287); INT4 keeps the other half of its byte. -/
def writeElem (b : Box) (s : State) (kv : Option (Nat × Nat) × Nat) : State :=
  match kv.1 with
  | none => s
  | some (key, half) =>
    let s := s.reachHome key (Nat.max 1 (b.fmt.width / 8))
    if b.fmt.width = 4 then
      let old := (Memory.read s.mem key).toNat
      let v := if half = 0 then old / 16 * 16 + kv.2 else old % 16 + 16 * kv.2
      s.writeHome key (toLe 1 v)
    else s.writeHome key (toLe (b.fmt.width / 8) kv.2)

/-- The coordinates of a 32 × 32 tile of the box, row by row. -/
def Box.tileCoords (b : Box) (n : Nat) : List (Nat × Nat) :=
  let tc := b.cols / 32
  (List.range 1024).map fun i => (n / tc * 32 + i / 32, n % tc * 32 + i % 32)

/-- The piece of the run at byte `pos`: coordinates of its elements and its bytes; a piece ends with its row, its slot, or 64
bytes. -/
def Box.piece (b : Box) (size pos : Nat) : List (Nat × Nat) × Nat :=
  let off := pos % b.rowBytes
  let n := Nat.min (Nat.min (b.rowBytes - off) (size - pos % size)) 64
  ((List.range (n * 8 / b.fmt.width)).map fun i => (pos / b.rowBytes, off * 8 / b.fmt.width + i), n)

/-- What ends a stream before any byte moves (R214, R316). -/
def streamBad (b : Box) (r : BufRec) (dir : Nat × Nat × Nat) : Bool :=
  dir.2.1 == 0 || r.count < b.k + b.slots r.size || (b.tile && r.size < b.fmt.tileBytes)

/-- SLOAD's next tile or piece (R213, R214). -/
def sloadUnit (s : State) (e : Engine) : Unit1 :=
  if s.tensorLost e.task (bits e.l 63 52) then .finish s 5 0 else
  match s.tensor e.task (bits e.l 63 52), s.snapBuf e (bits e.l 51 47) with
  | some i, some (x, r) =>
    let b := streamBox i e
    let total := if b.tile then b.slots r.size else b.bytes
    (s.tensorDir e.task b.tensor).unit s fun s dir =>
    if streamBad b r dir then .finish s 4 0
    else if e.done = total then .finish s 0 (BitVec.ofNat 64 b.bytes)
    else
      let slot := b.k + (if b.tile then e.done else e.done / r.size)
      if !x.freeNow r slot then .slots
      else
        let p := if b.tile then (b.tileCoords e.done, 1) else b.piece r.size e.done
        (Got.each (loadElem e b) p.1 s).unit s fun s' vs =>
          let d := if b.tile then writeTile b.fmt b.pl b.aux (toRows vs) else pack b.fmt vs
          .moved (slotWrite s' (x.prodKey r slot (if b.tile then 0 else e.done % r.size)) d) p.2
  | _, _ => .finish s 4 0

/-- SSTORE's next tile or piece (R213, R214). -/
def sstoreUnit (s : State) (e : Engine) : Unit1 :=
  if s.tensorLost e.task (bits e.l 63 52) then .finish s 5 0 else
  match s.tensor e.task (bits e.l 63 52), s.snapBuf e (bits e.l 51 47) with
  | some i, some (x, r) =>
    let b := streamBox i e
    let total := if b.tile then b.slots r.size else b.bytes
    (s.tensorDir e.task b.tensor).unit s fun s dir =>
    if streamBad b r dir then .finish s 4 0
    else if e.done = total then .finish s 0 (BitVec.ofNat 64 b.bytes)
    else
      let slot := b.k + (if b.tile then e.done else e.done / r.size)
      if !x.full r slot then .slots
      else
        let p := if b.tile then (b.tileCoords e.done, 1) else b.piece r.size e.done
        let n := if b.tile then b.fmt.tileBytes else p.2
        let key := x.consKey r slot (if b.tile then 0 else e.done % r.size)
        if s.poisoned key n then .finish s 5 0
        else
          let d := s.viewN engineParty e.pav key n
          let vs := if b.tile then (readTile b.fmt b.pl b.aux d).flatten else unpack b.fmt p.1.length d
          (Got.each (storeElem e b) p.1 s).unit s fun s' ks => .moved ((ks.zip vs).foldl (writeElem b) s') p.2
  | _, _ => .finish s 4 0

/-! ### Collectives (R196, R197, R408) -/

def Engine.collKey (e : Engine) : CollKey :=
  ⟨e.f 30 2, e.f 16 2, e.f 18 2, e.f 22 2, e.f 24 4, e.f 28 1, e.f 29 1, bits e.r 12 12⟩

/-- A list of bytes as elements of w bytes. -/
def elemsOf (w : Nat) : Nat → List Byte → List Word
  | 0, _ => []
  | n + 1, d => BitVec.ofNat 64 (leNat (d.take w)) :: elemsOf w n (d.drop w)

/-- A chip of the load-store domain (R401). -/
def State.inDomain (s : State) (c : Nat) : Bool := c == s.chip || s.isPeer c

/-- Every rank of a collective lies on a chip of the domain, and its values are ones that R196 allows. -/
def State.collOk (s : State) (k : CollKey) : Bool :=
  k.ok && (List.range k.parts).all fun r => s.inDomain ((k.chip0 + r * k.stride) % 8192)

/-- COLL (R196, R408): a launch whose values R196 refuses sends a contribution without elements, which ends every matching launch; one
whose CHIP0 lies outside the domain ends by itself. The contribution is read and sent; once the results are there (aux = 1) they are
written to DST. -/
def collUnit (i : Nat) (s : State) (e : Engine) : Unit1 :=
  let k := e.collKey
  if e.aux = 1 then
    let w := k.width
    if e.done = k.len * w then .finish s 0 (BitVec.ofNat 64 e.done)
    else
      let a := e.addr 8 + BitVec.ofNat 64 e.done
      let n := Nat.min (k.len * w - e.done) (4096 - a.toNat % 4096)
      let d := ((e.cmd.drop 4).drop (e.done / w)).take (n / w + 2) |>.flatMap fun v => toLe w v.toNat
      (s.engineWrite e a ((d.drop (e.done % w)).take n)).unit s fun s' _ => .moved s' n
  else
    let send (s : State) (vals : List Word) : Unit1 :=
      let m : CollMsg := { key := k, rank := e.f 20 2, vals := vals, engine := some i, chip := s.chip }
      if k.chip0 % 8192 = s.chip then .to (s.push (.collContributionArrive m)) .coll
      else if s.reached (k.chip0 % 8192) then .to (s.send (.coll (k.chip0 % 8192) m)) .coll
      else .finish s 5 e.l
    if !s.inDomain (k.chip0 % 8192) then badCmd s e
    else if s.collOk k && k.rankOk (e.f 20 2) s.chip && !isWindow (e.addr 0) && !isWindow (e.addr 8) then
      (s.engineRead e (e.addr 0) (k.len * k.width)).unit s fun s' d => send s' (elemsOf k.width k.len d)
    else send s []

/-! ### Collections (R255 to R259, R378) -/

/-- The header of an operation's collection, read by its home; ALIGN when it is not 64-byte aligned, BADCMD when it is broken. -/
def State.readColl (s : State) (e : Engine) : Got Coll :=
  let va := e.addr 0
  if isWindow va then .stop 4 e.l
  else if va.toNat % 64 ≠ 0 then .stop 3 va
  else (s.engineRead e va 64).bind fun s d => if (collOf va d).bad then .stop 4 e.l else .ok s (collOf va d)

/-- KAPPEND at the header's home (R256). -/
def kappendStep (s : State) (e : Engine) : Got Nat :=
  if e.f 16 16 ≠ 0 || isWindow (e.addr 8) then .stop 4 e.l
  else if (e.addr 8).toNat % 8 ≠ 0 then .stop 3 (e.addr 8)
  else (s.readColl e).bind fun s c => (s.engineRead e (e.addr 8) 32).bind fun s h =>
    let del := leNat ((h.drop 16).take 1) == 1
    if c.sidelen = c.sidecap || (del && c.n + c.sidelen ≤ leNat ((h.drop 12).take 4)) then .stop 4 e.l
    else
      (s.engineRead e (e.addr 8) (if del then 32 else c.recBytes)).bind fun s d =>
      (s.engineWrite e (c.sideVa c.sidelen) d).bind fun s _ =>
      (s.engineWrite e (c.va + 52) (toLe 2 (c.sidelen + 1))).bind fun s _ => .ok s (c.n + c.sidelen)

/-- A tombstone set. -/
def Coll.setTomb (c : Coll) (e : Engine) (s : State) (i : Nat) : Got Unit :=
  let a := c.tomb + BitVec.ofNat 64 (i / 8)
  (s.engineRead e a 1).bind fun s d => s.engineWrite e a (toLe 1 (leNat d ||| 2 ^ (i % 8)))

/-- One side record merged (R257): the bytes written. -/
def Coll.mergeOne (c : Coll) (e : Engine) (s : State) (i : Nat) : Got Nat :=
  (s.engineRead e (c.sideVa i) c.recBytes).bind fun s d =>
    if leNat ((d.drop 16).take 1) = 1 then
      (c.setTomb e s (leNat ((d.drop 12).take 4))).bind fun s _ => (c.setTomb e s (c.n + i)).bind fun s _ => .ok s 2
    else
      (s.engineWrite e (c.keyVa (c.n + i)) ((d.drop 32).take c.geom.kb)).bind fun s _ =>
      (s.engineWrite e (c.vals + BitVec.ofNat 64 (8 * (c.n + i))) (d.take 8)).bind fun s _ =>
      (s.engineWrite e (c.attrs + BitVec.ofNat 64 (4 * (c.n + i))) ((d.drop 8).take 4)).bind fun s _ => .ok s (c.geom.kb + 12)

/-- KMERGE at the header's home (R257): the bytes written. -/
def kmergeStep (s : State) (e : Engine) : Got Nat :=
  if e.f 8 24 ≠ 0 then .stop 4 e.l
  else (s.readColl e).bind fun s c =>
    (Got.each (c.mergeOne e) (List.range c.sidelen) s).bind fun s ns =>
    (s.engineWrite e (c.va + 48) (toLe 4 (c.n + c.sidelen) ++ toLe 2 0)).bind fun s _ => .ok s (ns.sum + 6)

/-- The collection of an operation as its header's home knows it. -/
def State.collHome (s : State) (e : Engine) : Option Nat :=
  match s.flat e.pav e.task (e.addr 0).toNat .load with
  | .ok key => some (s.ownerKey key)
  | _ => none

/-- A tombstone, as it stands. -/
def Coll.tombAt (c : Coll) (e : Engine) (s : State) (i : Nat) : Got Bool :=
  (s.engineRead e (c.tomb + BitVec.ofNat 64 (i / 8)) 1).bind fun s d => .ok s (leNat d / 2 ^ (i % 8) % 2 == 1)

/-- A scored entry of an MSCAN. -/
structure Scored where
  cand : Cand
  pass : Bool        -- it passes the filter

/-- The filter of MSCAN (R258). -/
def Engine.filter (e : Engine) (attr : Nat) : Bool := attr &&& e.f 36 4 == e.f 40 4

/-- A merged entry scored; none when it is passed over. -/
def Coll.scoreEntry (c : Coll) (e : Engine) (q : List Byte) (dead : List Nat) (s : State) (i : Nat) : Got (Option Scored) :=
  (c.tombAt e s i).bind fun s t =>
    if t || dead.contains i then .ok s none
    else
      (s.engineRead e (c.keyVa i) c.geom.kb).bind fun s k =>
      (s.engineRead e (c.vals + BitVec.ofNat 64 (8 * i)) 8).bind fun s v =>
      (s.engineRead e (c.attrs + BitVec.ofNat 64 (4 * i)) 4).bind fun s a =>
        .ok s (some ⟨{ score := c.geom.score q k, store := c.cid, ctr := i, val := BitVec.ofNat 64 (leNat v), attr := leNat a },
          e.filter (leNat a)⟩)

/-- A side INSERT scored. -/
def Coll.scoreSide (c : Coll) (e : Engine) (q : List Byte) (dead : List Nat) (s : State) (x : Nat × List Byte) : Got (Option Scored) :=
  if leNat ((x.2.drop 16).take 1) ≠ 0 || dead.contains (c.n + x.1) then .ok s none
  else (c.tombAt e s (c.n + x.1)).bind fun s t =>
    let a := leNat ((x.2.drop 8).take 4)
    .ok s (if t then none else some ⟨{ score := c.geom.score q ((x.2.drop 32).take c.geom.kb), store := c.cid, ctr := c.n + x.1,
                                       val := BitVec.ofNat 64 (leNat (x.2.take 8)), attr := a }, e.filter a⟩)

/-- The pages that an MSCAN scans. -/
def mscanPages (s : State) (e : Engine) (c : Coll) : Got (List Nat) :=
  let all := ceilDiv c.n (2 ^ c.logPage)
  if e.f 16 8 = 0 then .ok s (List.range all)
  else (s.engineRead e (e.addr 16) (4 * e.f 24 4)).bind fun s d =>
    let ps := (elemsOf 4 (e.f 24 4) d).map (·.toNat)
    if ps.any fun p => all ≤ p then .stop 4 e.l else .ok s ps.eraseDups

/-- MSCAN from its snapshot on (R258): the bytes of its result. -/
def mscanBytes (s : State) (e : Engine) : Got (List Byte) :=
  (s.readColl e).bind fun s c0 =>
    let c := { c0 with n := e.aux, sidelen := e.aux2 }
    (s.engineRead e (e.addr 8) c.geom.kb).bind fun s q =>
    (mscanPages s e c).bind fun s pages =>
    (Got.each (fun s i => s.engineRead e (c.sideVa i) c.recBytes) (List.range c.sidelen) s).bind fun s recs =>
      let dead := (recs.filter fun d => leNat ((d.drop 16).take 1) == 1).map fun d => leNat ((d.drop 12).take 4)
      let es := pages.flatMap fun p => (List.range (2 ^ c.logPage)).filterMap fun j =>
        if p * 2 ^ c.logPage + j < c.n then some (p * 2 ^ c.logPage + j) else none
      (Got.each (c.scoreEntry e q dead) es s).bind fun s a =>
      (Got.each (c.scoreSide e q dead) ((List.range c.sidelen).zip recs) s).bind fun s b =>
        let all := (a ++ b).filterMap fun x => x
        let fl := e.f 34 1
        let ranked := if fl % 2 = 1 then all.filter (·.pass) else all
        let pass := ranked.filter fun x => c.geom.passes x.cand.score (e.f 28 4)
        let top := firstK (fun (x y : Scored) => Cand.before c.geom x.cand y.cand) (e.f 32 1 + 1) pass
        let kept := if fl / 2 % 2 = 1 then top.filter (·.pass) else top
        .ok s (toLe 4 kept.length ++ toLe 4 (top.length - kept.length) ++ toLe 8 ranked.length ++ toLe 16 0
          ++ kept.flatMap fun x => eachRecord x.cand (roundF .fp32 .rne (c.geom.scoreNum x.cand.score)))

/-- What ends an MSCAN with BADCMD apart from its collection and its domain (R258). -/
def mscanBad (e : Engine) : Bool :=
  isWindow (e.addr 8) || isWindow (e.addr 16) || isWindow (e.addr 44) || 2 < e.f 34 1 || 63 < e.f 32 1 || e.f 35 1 != 0 || e.f 52 12 != 0

/-- ATTRCHK outside REBUILD (R258): the state is read when the launch is granted; a later change does not affect a scan that runs
(R371). -/
def attrRefused (s : State) (e : Engine) : Bool :=
  e.f 34 1 == 1 && match s.domain e.task (e.f 33 1) with
    | some d => d.serve
    | none => true

/-- An MSCAN with ATTRCHK whose domain is being read from the table: it waits for that read, as every request to the domain does (R370,
R371). -/
def State.scanAwaitsTable (s : State) (e : Engine) : Bool := e.kind == .mscan && e.f 34 1 == 1 && s.tableHeld e.task (e.f 33 1)

/-- MSCAN (R258). -/
def mscanUnit (s : State) (e : Engine) : Unit1 :=
  if e.done = 0 then if mscanBad e then badCmd s e else .to s .grant
  else (mscanBytes s e).unit s fun s' d => (s'.engineWrite e (e.addr 44) d).unit s fun s'' _ =>
    .finish s'' 0 (BitVec.ofNat 64 d.length)

/-- The smallest or largest of each element of a list of keys (R259). -/
def keyFold (uns max : Bool) (dim : Nat) (ks : List (List Byte)) : List Byte :=
  (List.range dim).map fun j =>
    match ks with
    | [] => 0
    | k :: t => t.foldl (fun (b : Byte) k =>
        let x := (k[j]?).getD 0
        if (if max then keyInt uns b < keyInt uns x else keyInt uns x < keyInt uns b) then x else b) ((k[j]?).getD 0)

/-- KSUM (R259): one page a unit; `done` counts the grant and the pages. -/
def ksumUnit (s : State) (e : Engine) : Unit1 :=
  if e.f 16 16 ≠ 0 then badCmd s e
  else if e.done = 0 then .to s .grant
  else
    (s.readColl e).unit s fun s' c =>
      if c.geom.kfmt = 2 then badCmd s e
      else if e.done = e.f 12 4 + 1 then .finish s' 0 (BitVec.ofNat 64 (e.f 12 4 * 2 * c.geom.dim))
      else
        let p := e.f 8 4 + e.done - 1
        let lo := p * 2 ^ c.logPage
        let uns := c.geom.kfmt == 1
        let a := c.sums + BitVec.ofNat 64 (p * 2 * c.geom.keyBytes)
        (Got.each (fun s i => s.engineRead e (c.keyVa (lo + i)) c.geom.kb) (List.range (Nat.min (e.aux - lo) (2 ^ c.logPage))) s').unit s
          fun s' ks => (s'.engineWrite e a (keyFold uns false c.geom.dim ks)).unit s
            fun s' _ => (s'.engineWrite e (a + BitVec.ofNat 64 c.geom.keyBytes) (keyFold uns true c.geom.dim ks)).unit s
              fun s' _ => .moved s' 1

/-! ### The events -/

/-- The next unit of an operation that has started. -/
def engineUnit (i : Nat) (s : State) (e : Engine) : Unit1 :=
  if e.cmd.length < e.kind.cmdWords then
    (s.engineRead e e.l (8 * e.kind.cmdWords)).unit s fun s' d => .cmd s' (toWords e.kind.cmdWords d)
  else match e.kind with
    | .cpy => cpyUnit s e
    | .cpyt => cpytUnit s e
    | .coll => collUnit i s e
    | .wsld => wsldUnit s e
    | .sload => sloadUnit s e
    | .sstore => sstoreUnit s e
    | .kappend | .kmerge => .to s .grant
    | .mscan => mscanUnit s e
    | .ksum => ksumUnit s e
    | .igather => igatherUnit s e
    | .walk => walkUnit s e
    | .tlbi | .table => .wait

/-- An operation that ends: its completion is still to be written in its queue's order (R191). -/
def State.finishEngine (s : State) (i : Nat) (e : Engine) (status : Nat) (detail : Word) : State :=
  s.setEngine i { e with state := .finished status detail }

/-- An operation held by a translation miss, with its ENGINE_XLATE record (R192). -/
def State.holdEngine (s : State) (i : Nat) (e : Engine) (addr : Word) (badpte : Bool) : State :=
  let s := s.setEngine i { e with state := .held addr badpte }
  match s.strand e.strand with
  | none => s
  | some t => s.record (terraceOf t.pav) { s.unitRec t 4 e.block e.slot e.tag 0 addr 0 badpte with tile := e.kind.streams } (s.task t.task).faulth

/-- Under DETERM an operation whose destination could not be told before is compared as soon as it can be, before any byte is written
(R193, log 45); then `f` goes on with it. -/
def State.comparing (s : State) (i : Nat) (e : Engine) (f : State → Engine → State) : State :=
  match if e.untold then s.engineDst e else none with
  | none => f s e
  | some dst => if s.dstOverlap e dst then s.stopOverlap i e dst else f s { e with dst := dst, untold := false }

/-- A command has been read. -/
def State.setCmd (s : State) (i : Nat) (e : Engine) (c : List Word) : State :=
  s.comparing i { e with cmd := c, state := .running } fun s e => s.setEngine i e

/-- An operation waits for its collection's home; its request keeps the place at which it first arrived (R255, R378). -/
def State.askGrant (s : State) (i : Nat) (e : Engine) : State :=
  match e.asked with
  | some _ => s.setEngine i { e with state := .grant }
  | none => { s with requests := s.requests + 1 }.setEngine i { e with state := .grant, asked := some s.requests }

/-- A unit done. -/
def State.runUnit (s : State) (i : Nat) (e : Engine) (u : Unit1) : State :=
  match u with
  | .moved s' n => s'.setEngine i { e with done := e.done + n, state := .running }
  | .cmd s' c => s'.setCmd i e c
  | .finish s' st d => s'.finishEngine i e st d
  | .hold a b => s.holdEngine i e a b
  | .slots => s.setEngine i { e with state := .slots }
  | .refresh g => s.setEngine i { e with state := .refresh g }
  | .wait => s.setEngine i { e with state := .running }
  | .to s' .grant => s'.askGrant i e
  | .to s' st => s'.setEngine i { e with state := st }

/-- An earlier operation of the same copy queue satisfies a test. -/
def State.queueBefore (s : State) (i : Nat) (e : Engine) (p : Engine → Bool) : Bool :=
  e.queue < 8 && s.engines.any fun (x : Nat × Engine) => x.1 < i && x.2.pav == e.pav && x.2.queue == e.queue && p x.2

/-- An operation may start, or go on with its next unit (R189); a TLBI moves nothing (R271). -/
def State.mayRun (s : State) (i : Nat) (e : Engine) : Bool :=
  match e.state with
  | .queued => e.kind != .tlbi && !s.queueBefore i e fun x => x.state == .queued
  | .running => true
  | _ => false

/-- The engines of a pavilion keep a record for want of ring room: they move nothing until it is written (R322, log 70). -/
def State.enginesKept (s : State) (e : Engine) : Bool := s.recordKept e.task e.pav 4 || s.recordKept e.task e.pav 5

/-- ENGINE_START (R189): an operation starts, or moves its next unit. -/
def execEngineStart (i : Nat) (s : State) : Out :=
  .next (match s.engine i with
    | none => s
    | some e => if s.mayRun i e && !s.enginesKept e then s.runUnit i e (engineUnit i s e) else s)

/-- ENGINE_SLOT_RESUME (R195, R214). -/
def execEngineSlotResume (i : Nat) (s : State) : Out :=
  .next (match s.engine i with
    | none => s
    | some e => if e.state == .slots && !s.enginesKept e then s.runUnit i e (engineUnit i s e) else s)

/-- A strand parked on an engine operation re-enters (R10, R192). -/
def unparkEngine (i : Nat) (t : Strand) : Strand :=
  if t.state == .parked && t.park == some (.engine i) then { t with state := .ready, phase := .fetch, park := none } else t

/-- ENGINE_COMPLETE (R190, R191): in launch order within a queue. -/
def execEngineComplete (i : Nat) (s : State) : Out :=
  .next (match s.engine i with
    | none => s
    | some e => match e.state with
      | .finished st d =>
        if s.queueBefore i e fun _ => true then s
        else
          let s := { s with engines := s.engines.drop i }.engineReport e st d
          { s with strands := s.strands.map (unparkEngine i) }
      | _ => s)

/-- TLBI_COMPLETE (R271): every access here that used a dropped entry has completed with its event. -/
def execTlbiComplete (i : Nat) (s : State) : Out :=
  .next (match s.engine i with
    | none => s
    | some e => if e.kind = .tlbi && e.state == .queued then s.finishEngine i e 0 0 else s)

/-- The result of a step at a header's home. -/
def State.collDone (s : State) (i : Nat) (e : Engine) (g : Got Nat) (f : Nat → Word) : State :=
  s.runUnit i e (g.unit s fun s' n => .finish s' 0 (f n))

/-- The request of an operation stands at its collection's home: it has arrived, and what it asks for is not done; a miss on the way
keeps its place. -/
def Engine.standing (e : Engine) : Bool :=
  e.asked.isSome && (e.kind == .kappend || e.kind == .kmerge || e.done == 0) && match e.state with
    | .finished _ _ => false
    | _ => true

/-- Requests of one collection are granted in arrival order (R255, R378). -/
def State.collFirst (s : State) (i : Nat) (e : Engine) : Bool :=
  !s.engines.any fun (x : Nat × Engine) => x.1 != i && x.2.standing && x.2.asked.getD 0 < e.asked.getD 0
    && s.collHome x.2 == s.collHome e

/-- A request of one of some kinds that its home may grant now. -/
def State.mayGrant (s : State) (i : Nat) (e : Engine) (kinds : List EngKind) : Bool :=
  kinds.contains e.kind && e.state == .grant && s.collFirst i e && !s.enginesKept e

/-- COLLECTION_KAPPEND (R256). -/
def execCollectionKappend (i : Nat) (s : State) : Out :=
  .next (match s.engine i with
    | none => s
    | some e =>
      if s.mayGrant i e [.kappend] then
        s.comparing i e fun s e => s.collDone i e (kappendStep s e) fun n => BitVec.ofNat 64 n
      else s)

/-- A scan of the collection that was granted earlier is still running (R378). -/
def State.scanRuns (s : State) (e : Engine) : Bool :=
  s.engines.any fun (x : Nat × Engine) => (x.2.kind == .mscan || x.2.kind == .ksum) && x.2.done != 0 && s.collHome x.2 == s.collHome e
    && match x.2.state with
      | .finished _ _ => false
      | _ => true

/-- COLLECTION_KMERGE (R257, R378). -/
def execCollectionKmerge (i : Nat) (s : State) : Out :=
  .next (match s.engine i with
    | none => s
    | some e =>
      if s.mayGrant i e [.kmerge] && !s.scanRuns e then
        s.comparing i e fun s e => s.collDone i e (kmergeStep s e) fun n => BitVec.ofNat 64 n
      else s)

/-- The snapshot of a scan: N and SIDELEN; an MSCAN that its domain's state refuses ends (R258, R371, R378). -/
def State.scanGrant (s : State) (i : Nat) (e : Engine) : State :=
  if e.kind = .mscan && attrRefused s e then s.runUnit i e (badCmd s e)
  else match s.readColl e with
    | .ok s' c => s'.setEngine i { e with done := 1, aux := c.n, aux2 := c.sidelen, state := .running }
    | g => s.runUnit i e (g.unit s fun s' _ => .moved s' 0)

/-- COLLECTION_SCAN_GRANT (R371, R378). -/
def execCollectionScanGrant (i : Nat) (s : State) : Out :=
  .next (match s.engine i with
    | none => s
    | some e =>
      if s.mayGrant i e [.mscan, .ksum] && !s.scanAwaitsTable e then s.comparing i e fun s e => s.scanGrant i e else s)

end Sys2Proof.Machine
end

