-- ==== Sys2Proof/Machine/Homes.lean ====
section
/-! DEFINITION. What is performed at homes: frames and their SENDs (R23 to R25, R157, R279), strands created (R14, R351),
barriers (R180 to R182), message rings (R184 to R188), drains (R233), collectives (R197, R408), ITPERM (R264) and lines that
reach their home (R275). -/

namespace Sys2Proof.Machine

/-! ### Sources of tags (R14) -/

/-- Values of the level-i field that live things of the source of tag g carry: strands other than `but`, live frames, occupied buffer
slots, and store entries that are live for g (R14, log 25). -/
def State.levelValues (s : State) (task i : Nat) (g : Word) (but : Option Nat) : List Nat :=
  let tags := ((List.range s.strands.length).zip s.strands).flatMap fun x =>
    if x.2.task != task then []
    else (if x.2.state == .ended || but == some x.1 then [] else [x.2.tag])
      ++ x.2.frames.filterMap fun f => if f.live then some f.tag else none
  let src := ((tags ++ s.slotTags task).filter fun t => i ≤ tagDepth t && samePrefix i t g).map fun t => tagField t i
  let bounds := (s.stores.filter fun st => st.owner.isNone && st.task == task && st.chip == s.chip).flatMap fun st =>
    ((s.entries st).filter fun e => e.lvl == i && e.live g).map (·.bound)
  (src ++ bounds).eraseDups

/-- The oldest of some values of a field: none of them precedes it, and each lies within 2,047 of it (R13, R14). -/
def oldestTag (vs : List Nat) : Option Nat := vs.find? fun o => vs.all fun x => (x + 4096 - o) % 4096 ≤ 2047

/-- The hold is one of the source of tag g at level i. -/
def TagHold.of (h : TagHold) (i : Nat) (g : Word) : Bool := h.level == i && samePrefix i h.tag g

/-- The source of tag g, which carries `vs` at level i, waits for a tag that has not retired. -/
def State.tagsHeld (s : State) (task i : Nat) (g : Word) (vs : List Nat) : Bool :=
  (s.task task).tagHolds.any fun h => h.of i g && vs.contains h.oldest

/-- A new tag stays within TAGWIN at level i: its value is in flight already, or there is room for one more, the values with it lie within
2,047 of the oldest, and the source does not wait for the oldest of its tags to retire (R14; log 25). -/
def State.tagFits (s : State) (task i : Nat) (g : Word) (but : Option Nat) : Bool :=
  let vs := s.levelValues task i g but
  vs.contains (tagField g i) ||
    (vs.length < (s.task task).tagwin && (oldestTag (tagField g i :: vs)).isSome && !s.tagsHeld task i g vs)

/-- A tag that does not fit has its source wait until the oldest of its tags retires (R14). -/
def State.tagHold (s : State) (task i : Nat) (g : Word) (but : Option Nat) : State :=
  let vs := s.levelValues task i g but
  if s.tagFits task i g but || s.tagsHeld task i g vs then s
  else s.modTask task fun t =>
    { t with tagHolds := (t.tagHolds.filter fun h => !h.of i g) ++ [⟨i, g, (oldestTag vs).getD (vs.headD 0)⟩] }

/-- A tag that fits: its source waits no longer for a tag that has retired. -/
def State.tagPass (s : State) (task i : Nat) (g : Word) (but : Option Nat) : State :=
  let vs := s.levelValues task i g but
  s.modTask task fun t => { t with tagHolds := t.tagHolds.filter fun h => !h.of i g || vs.contains h.oldest }

/-! ### Frame ranges and pools (R279, R351) -/

def Desc.poolBytes (d : Desc) : Nat := roundUp d.frame 64
def Desc.rangeBytes (d : Desc) : Nat := d.pools * d.poolBytes

/-- The groves of a task, or those that a saved task held. -/
def Task.grovesOf (t : Task) : List Nat := if t.homes.isEmpty then t.groves else t.homes

/-- Pages that the frame ranges of a task's groves touch (R279). -/
def Task.framePages (t : Task) : Nat :=
  (t.desc.frbase.toNat % 4096 + t.grovesOf.length * t.desc.rangeBytes + 4095) / 4096

/-- The physical grove whose frame range of the task holds a flat address. -/
def Task.frameGrove (t : Task) (f : Nat) : Option Nat :=
  let b := t.desc.frbase.toNat
  let n := t.desc.rangeBytes
  if n = 0 || f < b then none
  else match t.grovesOf[(f - b) / n]? with
    | some g => if g < 256 then some g else none
    | none => none

/-- The lowest usable pavilion of a grove. -/
def State.firstPav (s : State) (g : Nat) : Nat := ((List.range 16).find? fun i => s.usable (16 * g + i)).getD 0 + 16 * g

/-- Pool i of a task's physical grove. -/
def Task.poolAt (t : Task) (g i : Nat) : Nat :=
  t.desc.frbase.toNat + t.groves.idxOf g * t.desc.rangeBytes + i * t.desc.poolBytes

/-- A pool is in use: its strand has not ended, or a frame of it is live (R351). -/
def State.poolUsed (s : State) (task base : Nat) : Bool :=
  s.strands.any fun u => u.task == task && u.poolBase.toNat == base && (u.state != .ended || u.frames.any (·.live))

/-- A free pool of a task's grove. -/
def State.freePool (s : State) (task g : Nat) : Option Nat :=
  ((List.range (s.task task).desc.pools).map fun i => (s.task task).poolAt g i).find? fun b => !s.poolUsed task b

/-- The task's token store is full (R363): each of its strands has a place there, the resident ones too, since a save writes them
(log 94). -/
def State.strandsFull (s : State) (task : Nat) : Bool :=
  (s.task task).desc.strandRoom ≤ (s.strands.filter fun t => t.task == task && t.kind == .ordinary && t.state != .ended).length

/-- A strand added, in the token store while it waits. -/
def State.addStrand (s : State) (t : Strand) : State :=
  if t.state = .waiting then { s with strands := s.strands ++ [{ t with state := .ready }] }.storeToken s.strands.length
  else { s with strands := s.strands ++ [t] }

/-- A strand created with a pool of its grove, when its task is not saved, a pool is free and the strand section has room (R351, R363,
R365). -/
def State.tryCreate (s : State) (t : Strand) : Option State :=
  let d := (s.task t.task).desc
  if s.strandsFull t.task || s.savedAt t.task then none
  else if d.frame = 0 then some (s.addStrand t)
  else (s.freePool t.task (groveOf t.pav)).map fun b =>
    s.addStrand { t with poolBase := BitVec.ofNat 64 b, poolPtr := BitVec.ofNat 64 b, poolEnd := BitVec.ofNat 64 (b + d.frame),
                         region := { t.region with poolPtr := BitVec.ofNat 64 b } }

/-- Two waiting children of one source. -/
def sameSource (a b : Strand) : Bool :=
  a.task == b.task && tagDepth a.tag == tagDepth b.tag && samePrefix (tagDepth a.tag) a.tag b.tag

/-- A child that TAGWIN bounds may be created: no older one of its source waits, and its tag fits (R14, R156). -/
def State.childFits (s : State) (before : List (Bool × Strand)) (t : Strand) : Bool :=
  !(before.any fun x => x.1 && sameSource x.2 t) && s.tagFits t.task (tagDepth t.tag) t.tag none

/-- A child that waits behind no other of its source has the source wait for the oldest of its tags (R14). -/
def State.childHold (s : State) (before : List (Bool × Strand)) (t : Strand) : State :=
  if before.any fun x => x.1 && sameSource x.2 t then s else s.tagHold t.task (tagDepth t.tag) t.tag none

/-- A child created, one that TAGWIN bounds with the holds of its source that are over gone (R14). -/
def State.createChild (s : State) (limited : Bool) (t : Strand) : Option State :=
  (if limited then s.tagPass t.task (tagDepth t.tag) t.tag none else s).tryCreate t

/-- A strand that FORK, FORKN or a frame launches: created, or waiting as a token in memory. -/
def State.launchStrand (s : State) (limited : Bool) (t : Strand) : State :=
  let wait (s : State) : State := { s with waitKids := s.waitKids ++ [(limited, t)] }
  if limited && !s.childFits s.waitKids t then wait (s.childHold s.waitKids t)
  else (s.createChild limited t).getD (wait s)

/-- FORK_CHILD_CREATE (R14, R156). -/
def execForkChildCreate (i : Nat) (s : State) : Out :=
  .next (match s.waitKids[i]? with
    | none => s
    | some (lim, t) =>
      if lim && !s.childFits (s.waitKids.take i) t then s.childHold (s.waitKids.take i) t
      else match s.createChild lim t with
        | none => s
        | some s' => { s' with waitKids := s'.waitKids.eraseIdx i })

/-- A new strand at an address with a tag, waiting for its place. -/
def newStrand (task pav : Nat) (ip fp tag : Word) (reach : Reach) : Strand :=
  { task := task, pav := pav, state := .waiting, ip := ip, fp := fp, tag := tag, reach := reach,
    region := { ip := ip, fp := fp, tag := tag } }

/-! ### SEND at its frame's home (R23 to R25, R157, R279) -/

/-- The grove, the task and the flat address of a frame that a message names: a grove of the sender's task by flat address, or
the grove of any task here whose frame range holds the memory. -/
def State.frameHome (s : State) (m : SendMsg) : Option (Nat × Nat × Word) :=
  match (s.task m.task).frameGrove m.fp.toNat with
  | some g => some (m.task, g, m.fp)
  | none =>
    (List.range s.tasks.length).findSome? fun j =>
      let t := s.task j
      if t.status.gone || t.desc.rangeBytes = 0 then none
      else
        let b := t.desc.frbase.toNat
        (List.range t.framePages).findSome? fun i =>
          let va := (b / 4096 + i) * 4096 + m.pa % 4096
          match s.flat tablePav j va .load with
          | .ok key => if key = m.pa then (t.frameGrove va).map fun g => (j, g, BitVec.ofNat 64 va) else none
          | _ => none

/-- SEND_DROPPED in a Terrace's ring (R157, R279). -/
def State.sendDropped (s : State) (m : SendMsg) (terrace : Nat) : State :=
  let base : Record := match s.strand m.strand with
    | some t => { s.strandRec t 6 with rcnt := 0 }
    | none => { kind := 6 }
  s.record terrace { base with block := m.block, slot := m.islot, tag := m.tag, addr := m.fp } (s.task m.task).faulth

/-- The Terrace keeps a SEND_DROPPED record for want of ring room: its frames' homes take no further SEND that they would drop (R322). -/
def State.dropKept (s : State) (m : SendMsg) (terrace : Nat) : Bool :=
  !(s.task m.task).faulth && (s.terrace terrace).held.any fun h => h.strand.isNone && h.entry.kind == 6

/-- The memory-side cache slice of an address (R308). -/
def sliceOf (a : Nat) : Nat := (a / 64 % 8) ^^^ (a / 4096 % 8) ^^^ (a / 2 ^ 18 % 8)

/-- The value and its presence bit written together; with slots 0 to N − 1 present, the bits are cleared and the strand is
launched, in one step (R24). -/
def State.deliverSend (s : State) (m : SendMsg) (task g : Nat) (va : Word) : State :=
  let key := s.ownerKey m.pa
  let launch := BitVec.ofNat 64 (s.home (key - 24) 8)
  let nin := bits launch 63 60
  let s := s.writeHome (key + 8 * m.slot) (toLe 8 m.value.toNat)
  let p := s.home (key - 8) 8 ||| 2 ^ m.slot
  let full := nin != 0 && p % 2 ^ nin == 2 ^ nin - 1
  let s := s.writeHome (key - 8) (toLe 8 (if full then p - (2 ^ nin - 1) else p))
  if full then
    s.launchStrand false (newStrand task (s.firstPav g) (BitVec.ofNat 64 (bits launch 53 0 * 8)) va
      (BitVec.ofNat 64 (s.home (key - 16) 8)) .grove)
  else s

/-- This chip's earlier stores to a SEND's frame are at its home (R287). -/
def State.atFrame (s : State) (m : SendMsg) : State := s.reachHome (s.ownerKey m.pa - 24) (32 + 8 * m.slot)

/-- Earlier SENDs are held for the slot. -/
def State.sendsHeldFor (l : List SendMsg) (m : SendMsg) : Bool := l.any fun x => x.pa == m.pa && x.slot == m.slot

/-- The task that holds a frame is saved: what is bound for it waits (R362). -/
def State.frameSaved (s : State) (m : SendMsg) : Bool := match s.frameHome m with
  | some (t, _, _) => s.savedAt t
  | none => false

/-- SEND_ARRIVE_HOME (R24, R25, R157, R279). -/
def execSendArriveHome (m : SendMsg) (s : State) : Out :=
  s.powered (match s.frameHome m with
    | none =>
      let tr := sliceOf (m.pa % 2 ^ 42)
      if s.dropKept m tr then s.hold (.sendArriveHome m) else s.sendDropped m tr
    | some (task, g, va) =>
      let drop (s : State) : State := if s.dropKept m (g / 32) then s.hold (.sendArriveHome m) else s.sendDropped m (g / 32)
      match if s.savedAt task then .wait else s.serve (m.pa - 24) 24 with
      | .wait => s.hold (.sendArriveHome m)
      | .lost => drop s
      | .key _ =>
        let key := s.ownerKey m.pa
        let s := s.atFrame m
        let launch := BitVec.ofNat 64 (s.home (key - 24) 8)
        if bits launch 59 54 < m.slot then drop s
        else if m.slot < bits launch 63 60 && (s.home (key - 8) 8 / 2 ^ m.slot % 2 == 1 || State.sendsHeldFor s.heldSends m) then
          { s with heldSends := s.heldSends ++ [m] }
        else s.deliverSend m task g va)

/-- HELD_SEND_DELIVER (R25, R159): the bit is clear, and no earlier SEND is held for the slot. One whose frame's header cannot be read
any more is dropped, and reported (R157, R425; DESIGN CHOICE, log 84). -/
def execHeldSendDeliver (i : Nat) (s : State) : Out :=
  s.powered (match s.heldSends[i]? with
    | none => s
    | some m => match s.frameHome m with
      | none => s
      | some (task, g, va) =>
        let s' := { s with heldSends := s.heldSends.eraseIdx i }
        match if s.savedAt task then .wait else s.serve (m.pa - 24) 24 with
        | .wait => s
        | .lost => if s.dropKept m (g / 32) then s else s'.sendDropped m (g / 32)
        | .key _ =>
          if (s.atFrame m).home (s.ownerKey m.pa - 8) 8 / 2 ^ m.slot % 2 == 1 || State.sendsHeldFor (s.heldSends.take i) m then s
          else (s'.atFrame m).deliverSend m task g va)

/-! ### Lines on their way (R275) -/

/-- LINE_PERFORMED_AT_HOME (R275, R322, R428): a line goes to its home, with what was performed at its point after it. -/
def execLinePerformedAtHome (i : Nat) (s : State) : Out :=
  .next (match s.lines[i]? with
    | none => s
    | some l =>
      if s.canCarry l 4 then s.carryLine l 4 else s)

/-! ### Barriers (R180 to R182) -/

def BarRec.isFor (b : BarRec) (m : Arrival) : Bool :=
  b.scope == m.scope && b.home == m.home && b.bar == m.bar && (m.scope == 4 || b.task == m.task)

/-- Targets of a GBAR in a block's slot. -/
def gbarTargets (b : BlockRun) (slot : Nat) : Option (Target × Target) := match b.instr slot with
  | some (.gbar _ a b) => some (a, b)
  | _ => none

/-- The generation number delivered to a strand that waits: to its GBAR, or kept until a strand that was saved waits again (R180,
R181). -/
def State.deliverGen (s : State) (gen : BitVec 16) (k : Nat) (w : Await) : State :=
  let later := s.modStrand k fun t => { t with barrier := some { w with gen := gen, done := true } }
  match s.ctxAt k w.slot with
  | none => later
  | some c => match gbarTargets c.b w.slot with
    | none => later
    | some t =>
      if c.o.status = .sent then
        applyEff c t.1 t.2 noResolve (.val (s.modStrand k fun t => { t with barrier := none }) (gen.setWidth 64)) s
      else later

/-- The generation number sent to an arrival (R180). -/
def State.releaseArrival (s : State) (gen : BitVec 16) (m : Arrival) : State :=
  match m.strand with
  | none => s.send (.generation m.chip m.bar gen.toNat)
  | some k => match (s.strand k).bind (·.barrier) with
    | none => s
    | some w => s.deliverGen gen k w

/-- The slot of a GBAR whose arrival is on its way: a discard withdraws it before it is counted (R37, R40). -/
def State.arriving (s : State) (k : Nat) (m : Arrival) : Option Ctx :=
  (s.ctxAt k m.slot).filter fun c => c.o.status == .sent && (gbarTargets c.b m.slot).isSome

/-- An arrival of this chip's strand is counted: it has been performed, and the strand waits (R40, R180). -/
def State.countArrival (s : State) (k : Nat) (gen : BitVec 16) (m : Arrival) : State :=
  (s.setPerformed k).modStrand k fun t =>
    { t with barrier := some ⟨m.scope, m.home, m.bar, m.nm1, gen, m.slot, false⟩, state := .blocked }

/-- Two arrivals of one strand of this chip; a peer sends one for each of its strands. -/
def sameArriver (a b : Arrival) : Bool := a.strand == b.strand && a.strand.isSome

/-- An arrival that its barrier refuses raises F_ILLEGAL with BAR_COUNT: it has not been performed (R180). -/
def State.refuseArrival (s : State) (c : Ctx) : State :=
  State.takeFault (s.modBlock c.k fun b => { b with performed := false }) c.k ⟨{ code := .illegal, sub := 5 }, c.b.addr, c.j⟩

/-- A barrier of this chip takes an arrival (R180, R181): counted, or refused when its NM1 differs from the generation's; a strand is
counted once in a generation. -/
def State.arrive (s : State) (m : Arrival) : State :=
  let rec0 := (s.barriers.find? fun b => b.isFor m).getD { task := if m.scope = 4 then 0 else m.task, scope := m.scope,
                                                            home := m.home, bar := m.bar }
  let rest := s.barriers.filter fun b => !b.isFor m
  if !rec0.arrived.isEmpty && rec0.nm1 != m.nm1 then
    match m.strand with
    | none => s.send (.arrivalAnswer m.chip m.bar m.task m.slot .refused)
    | some k => match s.ctxAt k m.slot with
      | some c => s.refuseArrival c
      | none => s
  else if rec0.arrived.any (sameArriver m) then s
  else
    let all := rec0.arrived ++ [m]
    let s := match m.strand with
      | some k => s.countArrival k rec0.gen m
      | none => s.send (.arrivalAnswer m.chip m.bar m.task m.slot (.counted rec0.gen))
    if all.length = m.nm1 + 1 then
      all.foldl (fun s a => s.releaseArrival rec0.gen a)
        { s with barriers := rest ++ [{ rec0 with gen := rec0.gen + 1, nm1 := 0, arrived := [] }] }
    else { s with barriers := rest ++ [{ rec0 with nm1 := m.nm1, arrived := all }] }

/-- What a peer's barrier answers to an arrival of this chip's strand (R180). -/
def State.barrierAnswer (s : State) (k : Nat) (m : Arrival) (a : BarAnswer) : State :=
  match a with
  | .refused => match s.arriving k m with
    | some c => s.refuseArrival c
    | none => s
  | .counted gen => if (s.arriving k m).isSome then s.countArrival k gen m else s
  | .complete gen =>
    match (s.strand k).bind (·.barrier) with
    | some w => if w.scope == 4 && w.home == m.home && w.bar == m.bar then s.deliverGen gen k w else s
    | none => match s.arriving k m with
      | some _ => (s.countArrival k gen m).deliverGen gen k ⟨m.scope, m.home, m.bar, m.nm1, gen, m.slot, false⟩
      | none => s

/-- BARRIER_ARRIVAL (R180, R181): at its home on this chip; from a strand here that a discard has withdrawn meanwhile it is not
counted. The answers of a peer's barrier come as arrivals that carry them (log 10). -/
def execBarrierArrival (m : Arrival) (s : State) : Out :=
  s.powered (match m.strand, m.answer with
    | some k, some a => s.barrierAnswer k m a
    | some k, none => if (s.arriving k m).any fun c => !c.b.performed then s.arrive m else s
    | none, _ => s.arrive m)

/-- Every pavilion of a task's grove has passed the grove exit; a harvested one counts as passed (R182). -/
def State.allPassed (s : State) (task g : Nat) : Bool :=
  (List.range 16).all fun i => !s.usable (16 * g + i) || s.passed.contains (task, 16 * g + i)

/-- Every strand of the task in the grove has ended. -/
def State.groveQuiet (s : State) (task g : Nat) : Bool :=
  !(s.strands.any fun t => t.task == task && groveOf t.pav == g && t.state != .ended)
    && !(s.waitKids.any fun x => x.2.task == task && groveOf x.2.pav == g)

/-- A grove that the task no longer holds: the mark that stands in its place (R182). -/
def noGrove : Nat := 2 ^ 20

/-- GROVE_RETURN (R182): `g` is a logical grove of the task. -/
def execGroveReturn (task g : Nat) (s : State) : Out :=
  .next (match (s.task task).groves[g]? with
    | none => s
    | some pg =>
      if pg < 256 && s.allPassed task pg && s.groveQuiet task pg then
        { s.modTask task (fun t => { t with groves := t.groves.set g noGrove }) with
          passed := s.passed.filter fun p => !(p.1 == task && groveOf p.2 == pg) }
      else s)

/-! ### Message rings (R184 to R188) -/

def State.setRing (s : State) (r : Ring) : State :=
  { s with rings := s.rings.map fun (x : Ring) => (if x.pav == r.pav && x.ring == r.ring then r else x) }

def Ring.size (r : Ring) : Nat := 2 ^ r.log2
def Ring.used (r : Ring) : Nat := r.recs.foldl (fun n x => n + x.2.1) 0

/-- A record's header word (R184). -/
def ringHeader (kind chip pav lenw : Nat) : Nat := kind * 2 ^ 60 + chip % 2 ^ 13 * 2 ^ 47 + pav % 2 ^ 12 * 2 ^ 35 + lenw % 2 ^ 12

/-- Where a record of n bytes is placed: the ring with it, its offset, and the offset of a PAD (R186); none when it is held. -/
def Ring.fit (r : Ring) (n : Nat) : Option (Ring × Nat × Option Nat) :=
  let rest := r.size - r.tail
  let free := r.size - r.used
  if n ≤ rest ∧ n ≤ free then
    some ({ r with recs := r.recs ++ [(r.tail, n, false)], tail := (r.tail + n) % r.size }, r.tail, none)
  else if rest < n ∧ rest + n ≤ free then
    some ({ r with recs := r.recs ++ [(r.tail, rest, true), (0, n, false)], tail := n % r.size }, 0, some r.tail)
  else none

/-- The answer to the sender of a record (R185, R397). -/
def State.ringAnswer (s : State) (m : RingMsg) (status bytes : Nat) : State :=
  match m.strand with
  | some k => s.push (.msendReturnArrive k m.cv m.creg status bytes m.block m.slot m.tag)
  | none => s.send (.ringReturn m.srcChip m.creg status bytes)

/-- A record placed, with its PAD, in one step. A PAD's header has 0 in SRCCHIP and SRCPAV: it has no sender (log 90, DESIGN CHOICE). -/
def State.placeRecord (s : State) (r : Ring) (m : RingMsg) : Option State :=
  let n := 8 + m.payload.length
  (r.fit n).map fun (r', off, pad) =>
    let base := bankKey r.pav r.fe + r.base
    let s := match pad with
      | some p => s.writeHome (base + p) (toLe 8 (ringHeader 1 0 0 ((r.size - p) / 8 - 1)))
      | none => s
    let s := s.writeHome (base + off) (toLe 8 (ringHeader 0 m.srcChip m.srcPav (m.payload.length / 8)) ++ m.payload)
    (s.setRing r').ringAnswer m 0 n

/-- Held records placed in arrival order until one does not fit (R186). -/
def placeHeld (pav ring : Nat) : List RingMsg → State → State
  | [], s => s
  | m :: t, s =>
    match s.ring pav ring with
    | none => s
    | some r => match s.placeRecord r m with
      | none => s
      | some s' => placeHeld pav ring t (match s'.ring pav ring with
          | some r' => s'.setRing { r' with held := r'.held.drop 1 }
          | none => s')

def State.placeHeldRecords (s : State) (pav ring : Nat) : State :=
  match s.ring pav ring with
  | some r => if s.savedAt r.owner then s else placeHeld pav ring r.held s
  | none => s

/-- A number for the pavilions of a saved task: no pavilion has it. -/
def savedPav (task n : Nat) : Nat := 2 ^ 21 + task * 4096 + n

/-- The number that a ring of a saved task has meanwhile, by the pavilion that held it (R362). -/
def State.savedRing (s : State) (pav ring : Nat) : Option Nat :=
  s.rings.findSome? fun r =>
    let n := (r.pav - 2 ^ 21) % 4096
    if r.ring == ring && 2 ^ 21 ≤ r.pav && ({ s.task r.owner with groves := (s.task r.owner).homes } : Task).place n == some pav then some r.pav else none

/-- RING_RECORD_ARRIVE (R185, R186, R362). -/
def execRingRecordArrive (m : RingMsg) (s : State) : Out :=
  s.powered (match s.ring m.pav m.ring with
    | none => match s.savedRing m.pav m.ring with
      | some p => s.push (.ringRecordArrive { m with pav := p })
      | none => s.ringAnswer m 8 0
    | some r =>
      if r.log2 < m.log2 then s.ringAnswer m 9 0
      else if r.held.isEmpty && !s.savedAt r.owner then
        match s.placeRecord r m with
        | some s' => s'
        | none => s.setRing { r with held := [m] }
      else s.setRing { r with held := r.held ++ [m] })

/-- RING_HOLD_EXPIRE (R186): the record is returned with RING_FULL. -/
def execRingHoldExpire (pav ring i : Nat) (s : State) : Out :=
  s.powered (match s.ring pav ring with
    | none => s
    | some r => match r.held[i]? with
      | none => s
      | some m => ((s.setRing { r with held := r.held.eraseIdx i }).ringAnswer m 7 0).placeHeldRecords pav ring)

/-- MSEND_RETURN_ARRIVE (R190, R397): the completion, or with CV 0 an ENGINE_ERROR record. -/
def execMsendReturnArrive (k : Nat) (cv : Bool) (creg status bytes : Nat) (block : Word) (slot : Nat) (tag : Word) (s : State) : Out :=
  let v := completionValue status (BitVec.ofNat 64 bytes)
  s.powered (
    if cv then s.complete k creg v
    else if status = 0 then s
    else s.unitRecord k 5 block slot tag status 0 v)

/-! ### Drains (R233) -/

/-- The buffer that a route entry names, on the pavilion that now holds its logical number. -/
def State.routeBuf (s : State) (task : Nat) (e : Word) : Option (Nat × BufRec) :=
  match s.physPav (s.task task) (bits e 59 48) with
  | none => none
  | some pav => s.buffers.find? fun (b : Nat × BufRec) =>
      b.2.pav == pav && b.2.fe == bits e 47 44 && b.2.base == 64 * bits e 43 34 && b.2.size == 64 * (bits e 33 24 + 1)
        && b.2.count == bits e 23 9 + 1

/-- A drain that no buffer takes is dropped with a ROUTE_MISS record; its unit waits while it keeps an earlier one (R322). -/
def State.dropDrain (s : State) (i : Nat) (d : Drain) : State :=
  if s.recordKept d.task d.srcPav 10 then s
  else State.unitRecord { s with stagings := s.stagings.eraseIdx i } d.strand 10 d.block d.slot d.tag 0 (BitVec.ofNat 64 d.idx)

/-- DRAIN_PLACE (R233): drains for one entry are placed in the order in which they were launched, each at the destination that its
entry named at fire. -/
def execDrainPlace (i : Nat) (s : State) : Out :=
  .next (match s.stagings[i]? with
    | none => s
    | some d =>
      let s' := { s with stagings := s.stagings.eraseIdx i }
      if !d.launched || (s.stagings.take i).any fun x => x.launched && x.task == d.task && x.entry == d.entry then s
      else match s.routeBuf d.task d.entry with
        | none => s.dropDrain i d
        | some (id, b) =>
          if b.size < d.data.length then s.dropDrain i d
          else if b.room = 0 then s
          else { s'.writeHome (b.slotKey (b.p % b.count)) d.data with
                 buffers := s.buffers.put id (b.advance true 1 d.tag) })

/-! ### Collectives (R196, R197, R408) -/

/-- One result element: TREE sums in rank order, ARRIVAL sums in arrival order, MAX and MIN over ranks (R197). -/
def collElem (k : CollKey) (vs : List Nat) : Nat :=
  let f : Fmt := if k.fmt = 1 then .fp32 else .fp64
  match vs with
  | [] => 0
  | v :: t =>
    if k.fmt = 0 then
      if k.op = 0 then vs.foldl (fun a b => (a + b) % 2 ^ 32) 0
      else t.foldl (fun a b =>
        if (if k.op = 1 then signedOf 32 a < signedOf 32 b else signedOf 32 b < signedOf 32 a) then b else a) v
    else if k.op = 0 then
      canonCode f (if k.mode = 0 then treeSum f vs else t.foldl (fun a b => roundF f .rne ((decodeF f a).add (decodeF f b))) v)
    else roundF f .rne (t.foldl (fun a b => if k.op = 1 then a.max (decodeF f b) else a.min (decodeF f b)) (decodeF f v))

/-- The results of a collective, from its contributions in arrival order. -/
def collResults (k : CollKey) (ps : List CollMsg) : List Word :=
  let ord := if k.op = 0 ∧ k.mode = 1 then ps else firstK (fun (a b : CollMsg) => a.rank < b.rank) 4608 ps
  (List.range k.len).map fun e => BitVec.ofNat 64 (collElem k (ord.map fun p => ((p.vals[e]?).getD 0).toNat))

/-- A result packet to each participant, in rank order (R408). -/
def State.collReply (s : State) (ps : List CollMsg) (status : Nat) (vals : List Word) : State :=
  (firstK (fun (a b : CollMsg) => a.rank < b.rank) 4608 ps).foldl (fun s p => match p.engine with
    | some e => s.push (.collResultArrive e status vals)
    | none => s.send (.collResult p.chip p.rank status vals)) s

/-- A collective ends with BADCMD, for the launches that have arrived and for those still to come: its record stays until all P have
(R196, log 83). -/
def State.collFail (s : State) (old : Option CollRec) (m : CollMsg) : State :=
  let before := match old with
    | some r => r.parts
    | none => []
  let s := s.collReply (if old.any (·.failed) then [m] else before ++ [m]) 4 []
  match old.map (·.key) <|> (if s.collOk m.key then some m.key else none) with
  | none => s
  | some key =>
    if before.length + 1 < key.parts then { s with colls := s.colls ++ [{ key := key, parts := before ++ [m], failed := true }] } else s

/-- COLL_CONTRIBUTION_ARRIVE (R196, R197, R408): a mismatch, a duplicate rank or a value that R196 refuses ends every matching
launch with BADCMD. -/
def execCollContributionArrive (m : CollMsg) (s : State) : Out :=
  s.powered (
    let old := s.colls.find? fun r => r.key.cid == m.key.cid
    let rest := s.colls.filter fun r => r.key.cid != m.key.cid
    let ps := (match old with
      | some r => r.parts
      | none => []) ++ [m]
    let bad := !s.collOk m.key || m.vals.length != m.key.len || !m.key.rankOk m.rank m.chip || match old with
      | some r => r.failed || r.key != m.key || r.parts.any fun p => p.rank == m.rank
      | none => false
    if bad then State.collFail { s with colls := rest } old m
    else if ps.length = m.key.parts then { s with colls := rest }.collReply ps 0 (collResults m.key ps)
    else { s with colls := rest ++ [{ key := m.key, parts := ps }] })

/-- COLL_RESULT_ARRIVE (R408): the results stand behind the command until they are written to DST. -/
def execCollResultArrive (i status : Nat) (vals : List Word) (s : State) : Out :=
  s.powered (match s.engine i with
    | none => s
    | some e =>
      if e.kind = .coll && e.state == .coll then
        if status = 0 then s.setEngine i { e with cmd := e.cmd.take 4 ++ vals, aux := 1, done := 0, state := .running }
        else s.finishEngine i e status e.l
      else s)

/-! ### ITPERM (R264) -/

/-- n bytes of flat memory or of a window, read as a load of the strand's (R175). -/
def loadBytes (c : Ctx) (s : State) : List (Word × Nat) → Except Eff (List Byte)
  | [] => .ok []
  | (a, n) :: t =>
    match s.access c.t a n .load with
    | .fault code => .error (.fault { code := code, addr := a })
    | .miss b => .error (.park a b)
    | .ok key =>
      match s.serve key n with
      | .wait => .error .wait
      | .lost => .error (.fault { code := .uncorr, addr := a })
      | .key k => match loadBytes c s t with
        | .error e => .error e
        | .ok d => .ok (s.viewN c.k c.t.pav k n ++ d)

/-- The keys of a table's entries 0 to n − 1. -/
def tableKeys (c : Ctx) (s : State) (base : Word) : List Nat → Except Eff (List Nat)
  | [] => .ok []
  | i :: t =>
    let a := base + BitVec.ofNat 64 (8 * i)
    match s.access c.t a 8 .atomic with
    | .fault code => .error (.fault { code := code, addr := a })
    | .miss b => .error (.park a b)
    | .ok key =>
      match s.serve key 8 with
      | .wait => .error .wait
      | .lost => .error (.fault { code := .uncorr, addr := a })
      | .key k => match tableKeys c s base t with
        | .error e => .error e
        | .ok ks => .ok (k :: ks)

/-- Address of table t (R262). -/
def tableVa (itb : Word) (t : Nat) : Word := BitVec.ofNat 64 (bits itb 56 13 * 8192 + 8192 * t)

/-- What ITPERM does at the table's home. -/
def itpermEff (c : Ctx) (s : State) (l r : Word) : Eff :=
  let n := bits l 9 0 + 1
  let tbl := bits l 17 10
  match loadBytes c s (pageParts r (2 * n)) with
  | .error e => e
  | .ok d =>
    let idx := (elemsOf 2 n d).map (·.toNat)
    if idx.any fun i => n ≤ i then .fault (illegal 9)
    else match tableKeys c s (tableVa (s.sysFor c.t).itb tbl) (List.range n) with
      | .error e => e
      | .ok ks =>
        let s := ks.foldl (fun s k => s.reachHome k 8) s
        let old := ks.map fun k => Memory.readN s.mem k 8
        let s := (ks.zip idx).foldl (fun s x => s.writeHome x.1 ((old[x.2]?).getD [])) s
        let gen := ((s.task c.t.task).itgen.find tbl).getD 0 + 1
        .val ((s.modTask c.t.task fun t => { t with itgen := t.itgen.put tbl gen }).setPerformed c.k) (gen.setWidth 64)

/-- ITPERM_PERFORM (R264). -/
def execItpermPerform (k slot : Nat) (s : State) : Out :=
  .next (match s.ctxAt k slot with
    | none => s
    | some c =>
      if c.o.status != .sent then s
      else match c.b.instr slot with
        | some (.itperm _ a b) => answerEff c a b (.itpermPerform k slot) (itpermEff c s (opVal c.o.l) (opVal c.o.r)) s
        | _ => s)

end Sys2Proof.Machine
end

