-- ==== Sys2Proof/Machine/SysWrites.lean ====
section
/-! DEFINITION. Writes of the system registers (R6, R14, R43, R187, R269, R318, R370) and the invalidation of cached
translations (R271). -/

namespace Sys2Proof.Machine

/-- A register's value with the bits of a mask; reserved bits keep 0 (R6). -/
def masked (v : Word) (m : Word) : Word := v &&& m

def State.writeTagwin (s : State) (task : Nat) (v : Word) : State :=
  let n := bits v 11 0
  if n = 0 || 2048 < n then s else s.modTask task fun t => { t with tagwin := n }

def State.writeRclim (s : State) (task : Nat) (v : Word) : State :=
  if bits v 7 0 = 0 then s else s.modTask task fun t => { t with rclim := bits v 7 0 }

def State.writeSeed (s : State) (task : Nat) (v : Word) : State := s.modTask task fun t => { t with seed := bits v 31 0 }

/-- A COUNT above 256 is ignored as a whole (R269). -/
def State.writeItb (s : State) (task : Nat) (v : Word) : State :=
  if 256 < bits v 8 0 then s else s.modTask task fun t => { t with itb := masked v 0x01FFFFFFFFFFE1FF }

def State.writeRinghold (s : State) (v : Word) : State := if bits v 19 0 = 0 then s else { s with ringHold := bits v 19 0 }

/-- FSTAT.OVF: a write of 1 clears it, and it sets again while HELD is nonzero (R269). -/
def State.writeFstat (s : State) (t : Nat) (v : Word) : State :=
  if bit v 0 then s.modTerrace t fun te => { te with ovf := te.heldCount != 0 } else s

/-- The record numbers before n: those that the ring has written (R314). -/
def writtenBefore (n : BitVec 32) (m : Nat) : Bool := (BitVec.ofNat 32 m - n).msb

/-- FRING: the arbiter goes on at record number HEAD of the new ring's index line, as it is visible at device scope (R318); what this chip
has still on its way to the ring reaches it first (R287). Every record granted before stands in the old ring already, and a number from
HEAD on is one that the ring has not yet written (R314). DESIGN CHOICE (log 84): with a poisoned HEAD the numbering goes on as it stood. -/
def State.writeFring (s : State) (t : Nat) (v : Word) : State :=
  let v := masked v 0x01FFFFFFFFFFF00F
  let s := s.reachArea (ringBase v % 2 ^ 55) (64 + 64 * ringSize v)
  let key := s.ringKey (ringBase v)
  let n := if s.poisoned key 4 then (s.terrace t).head else BitVec.ofNat 32 (s.home key 4)
  s.modTerrace t fun te => { te with fring := v, head := n, answered := te.answered.filter fun (a : Nat × Bool × Word × Nat) => writtenBefore n a.1 }

/-- The route table as a party reads it (R232), and whether a word of it is lost; a poisoned entry, or each of one that cannot be read, is
not valid (R425, logs 17 and 84). -/
def State.routeTable (s : State) (k pav task : Nat) : List Word × Bool :=
  match s.flat tablePav task (bits (s.task task).route 56 11 * 2048) .load with
  | .ok key =>
    let a := s.ownerKey key
    ((List.range 256).map fun i => if s.poisoned (a + 8 * i) 8 then 0 else BitVec.ofNat 64 (leNat (s.viewN k pav (a + 8 * i) 8)),
     s.poisoned a 2048)
  | _ => ([], false)

/-- The route table read by a strand of a pavilion; what is lost of it raises F_UNCORR there (R232, R425, log 84). -/
def State.readRoutes (s : State) (k pav task : Nat) : State :=
  let l := s.routeTable k pav task
  let s := s.modTask task fun t => { t with routes := l.1 }
  if l.2 then s.regionFault k { code := .uncorr } else s

def State.writeRoute (s : State) (k pav task : Nat) (v : Word) : State :=
  (s.modTask task fun t => { t with route := masked v 0x01FFFFFFFFFFF800 }).readRoutes k pav task

/-- The lowest usable pavilion of a task (R347). -/
def State.homePav (s : State) (task : Nat) : Nat := (((List.range 16).findSome? fun n => s.physPav (s.task task) n)).getD 0

/-- MTSR_FRING (R318). -/
def execMtsrFring (t : Nat) (v : Word) (s : State) : Out := s.powered (s.writeFring t v)

/-- MTSR_FSTAT (R269). -/
def execMtsrFstat (t : Nat) (v : Word) (s : State) : Out := s.powered (s.writeFstat t v)

/-- MTSR_ROUTE (R232). -/
def execMtsrRoute (task : Nat) (v : Word) (s : State) : Out := s.powered (s.writeRoute engineParty (s.homePav task) task v)

/-- A write of MDT (R370), and whether it is done: the old table's stores go out of service once their queries are answered, and none until
then; then, once what this writes back to the old table has been performed, the new table is read, and a read of the old one that is held
is given up. -/
def State.writeMdt (s : State) (task : Nat) (v : Word) : Bool × State :=
  if 256 < bits v 8 0 then (true, s)
  else if s.queriesOut task then (false, s)
  else
    let s := { s with engines := s.engines.filter fun (x : Nat × Engine) => x.2.kind != EngKind.table || x.2.task != task || x.2.done != 1 }
    let s := s.retireStores task
    if s.backHeld task none then (false, s)
    else (true, (s.modTask task fun t => { t with mdt := masked v 0x01FFFFFFFFFFF1FF }).readTable task)

/-- MTSR_MDT (R370). -/
def execMtsrMdt (task : Nat) (v : Word) (s : State) : Out := s.powered (s.writeMdt task v).2

/-- A write of MTSR at publish step 2 (R269), and whether it is done: a write of MDT may have to wait. -/
def State.writeSys (s : State) (k : Nat) (t : Strand) (n : Nat) (v : Word) : Bool × State :=
  match n with
  | 0x001 => (true, s.writeTagwin t.task v)
  | 0x002 => (true, s.writeRclim t.task v)
  | 0x004 => (true, s.writeSeed t.task v)
  | 0x010 => (true, s.writeFstat (terraceOf t.pav) v)
  | 0x011 => (true, s.writeFring (terraceOf t.pav) v)
  | 0x020 => s.writeMdt t.task v
  | 0x021 => (true, s.writeRoute k t.pav t.task v)
  | 0x022 => (true, s.writeItb t.task v)
  | 0x030 => (true, s.writeRinghold v)
  | _ => (true, s)

/-- Entries that translate part of a range, in every task's flat space, dropped with the window copies (R133, R271). DESIGN CHOICE (log
103): an entry of a larger page that meets the range goes whole, a window copy only where its own bytes meet the range. -/
def State.dropRange (s : State) (a n : Nat) : State :=
  { s with
    tlb := s.tlb.filter fun e => !rangesMeet (e.vpage * 2 ^ e.shift, 2 ^ e.shift) (a, n)
    windows := s.windows.filter fun w => !rangesMeet (w.addr.toNat, 4 * (w.words.length + 1)) (a, n) }

/-- TLBI at publish step 2 (R271). -/
def State.tlbi (s : State) (task : Nat) (l : Word) : State :=
  match bits l 63 62 with
  | 0 => s.dropRange (bits l 56 12 * 4096) 4096
  | 1 => s.dropRange (bits l 56 12 * 4096) (2 ^ 21)
  | 2 => { s with
      tlb := s.tlb.filter fun e => e.task != task
      windows := s.windows.filter fun w => w.task != task
      tiles := s.tiles.filter fun x => x.task != task }
  | _ => { s with tiles := s.tiles.filter fun x => x.tensor != bits l 23 12 }

end Sys2Proof.Machine
end

