-- ==== Sys2Proof/Machine/System.lean ====
section
/-! DEFINITION. The system group at fire (R267 to R273; TLBI stands in Engines.lean). -/

namespace Sys2Proof.Machine

/-- TRAP (R268). -/
def execTrap (p : Pred) (code : BitVec 11) (s : State) : Out :=
  fireEff p .none .none .none (fun _ _ _ _ _ => .fault { code := .trap, detail := code.setWidth 64 }) s

/-- MFSR of a register is privileged (R269). -/
def mfsrPriv (n : Nat) : Bool := n == 0x004 || n == 0x010 || n == 0x011 || n == 0x030

/-- The value of a system register (R14, R42, R43, R187, R269). -/
def State.sysReg (s : State) (t : Strand) (n : Nat) : Word :=
  let tk := s.task t.task
  let te := s.terrace (terraceOf t.pav)
  match n with
  | 0x001 => BitVec.ofNat 64 tk.tagwin
  | 0x002 => BitVec.ofNat 64 tk.rclim
  | 0x003 => t.rcnt.setWidth 64
  | 0x004 => BitVec.ofNat 64 tk.seed
  | 0x010 => BitVec.ofNat 64 (te.heldCount % 2 ^ 16 * 2 ^ 16 + (if te.ovf then 1 else 0))
  | 0x011 => te.fring
  | 0x020 => tk.mdt
  | 0x021 => tk.route
  | 0x022 => tk.itb
  | 0x030 => BitVec.ofNat 64 s.ringHold
  | _ => 0

/-- MFSR (R269). -/
def execMfsr (p : Pred) (n : BitVec 11) (a : Target) (s : State) : Out :=
  fireEff p .none a .none (fun c s _ _ _ =>
    checked [(mfsrPriv n.toNat && !(s.task c.t.task).privileged, { code := .protect })]
      (.val s (s.sysReg c.t n.toNat))) s

/-- MTSR (R269): RCNT is never written; every other register needs privilege. -/
def execMtsr (p : Pred) (n : BitVec 11) (s : State) : Out :=
  fireDef p .left .none .none (fun c s l _ _ =>
    checked [(n.toNat == 0x003 || !(s.task c.t.task).privileged, { code := .protect })]
      (deferEff c s { kind := .mtsr, l := l, x := n.toNat })) s

/-- The strand that a handle names (R319). -/
def State.ofHandle (s : State) (h : Word) : Option Nat :=
  (List.range s.strands.length).find? fun k => match s.strand k with
    | some t => t.state != .waiting && t.state != .ended && s.handle t == h
    | none => false

/-- A RESUME can continue the strand (R40, R270). -/
def Strand.resumable (t : Strand) (next : Word) : Bool := t.state == .faulted && !(next == 0 && t.noNext)

/-- RESUME (R270). -/
def execResume (p : Pred) (a : Target) (s : State) : Out :=
  fireDef p .both a .none (fun c s l r _ =>
    checked [(r != 0 && bits r 1 0 != 0, { code := .align, addr := r }), (!(s.task c.t.task).privileged, { code := .protect })]
      (let ok : Bool := match s.ofHandle l with
        | some k => match s.strand k with
          | some t => t.resumable r
          | none => false
        | none => false
       deferEff c s { kind := .resume, l := l, r := r } (some (boolWord ok)))) s

/-- PERF (R272): counters 0 and 5 count cycles, which are free values (log 6). -/
def execPerf (p : Pred) (n : BitVec 6) (a : Target) (s : State) : Out :=
  fireEff p .none a .none (fun c s _ _ _ =>
    if n = 0 ∨ n = 5 then .val s.tick (Config.freeCycles s.ticks) else .val s (s.perfAt c.t.pav n.toNat)) s

/-- IDLE (R273): it waits for a record of its Terrace's ring (`wakeIdle`) or for IDLE_TIMEOUT; the answer stands in its
left operand. -/
def execIdle (p : Pred) (a : Target) (s : State) : Out :=
  fireEff p .none a .none (fun c s _ _ _ =>
    match c.o.l with
    | some (.value v) => .val s v
    | _ => checked [(!(s.task c.t.task).privileged, { code := .protect })] (.sent s)) s

end Sys2Proof.Machine
end

