-- ==== Sys2Proof/Machine/Publish.lean ====
section
/-! DEFINITION. The end of a region and its publish (R34, R41, R168, R274 to R282, R323, R324): the scope check, step 1 with the
side log, and the launch of the deferred list at step 2. -/

namespace Sys2Proof.Machine

/-! ### The scope check (R280) -/

/-- What the check of a deferred entry finds. -/
inductive TokenCheck where
  | ok (d : Deferred)
  | fault (d : Deferred) (f : FaultInfo)
  | miss (d : Deferred) (badpte : Bool)

/-- SEND's home lies within a scope (R279). -/
def State.sendInScope (s : State) (t : Strand) (scope fp key : Nat) : Bool :=
  match (s.task t.task).frameGrove fp with
  | some g => 3 ≤ scope || (scope == 2 && g == groveOf t.pav)
  | none => scope == 4 || (scope == 3 && key / 2 ^ 42 == s.chip)

/-- The store of a KPUT or KDEL lies on this chip, or the scope is domain. -/
def State.storeInScope (s : State) (t : Strand) (scope dom store : Nat) : Bool :=
  scope == 4 || match s.store t.task dom store with
  | some st => st.chip == s.chip
  | none => true

/-- One deferred entry checked against the publish scope (R157, R280); a SEND keeps the physical address of its frame. -/
def State.checkToken (s : State) (t : Strand) (scope : Nat) (d : Deferred) : TokenCheck :=
  match d.kind with
  | .send =>
    match s.flat t.pav t.task d.l.toNat .store with
    | .miss b => .miss d b
    | .fault c => .fault d { code := c, addr := d.l }
    | .ok key => if s.sendInScope t scope d.l.toNat key then .ok { d with y := key } else .fault d { code := .scope, addr := d.l }
  | .kput => if s.storeInScope t scope (bits d.r 63 56) (bits d.r 55 44) then .ok d else .fault d { code := .scope }
  | .kdel => if s.storeInScope t scope (bits d.r 63 56) (bits d.l 39 24) then .ok d else .fault d { code := .scope }
  | _ => .ok d

/-- The list checked in order: the entries that pass, and the first that does not. -/
def State.checkTokens (s : State) (t : Strand) (scope : Nat) : List Deferred → List Deferred × Option TokenCheck
  | [] => ([], none)
  | d :: rest =>
    match s.checkToken t scope d with
    | .ok d' => let r := s.checkTokens t scope rest; (d' :: r.1, r.2)
    | bad => ([], some bad)

/-- The fault of a region that can no longer be discarded, kept for the start of the next (R40). -/
def Strand.noteFault (t : Strand) (f : RaisedFault) : Strand :=
  if t.pendFault.isSome then t else { t with pendFault := some f, pendHere := false }

/-- A strand without RGN's region of strand scope that forks publishes at pavilion scope (R276). -/
def effScope (scope : Nat) (ds : List Deferred) : Nat :=
  if scope = 0 && ds.any fun d => d.kind == .fork || d.kind == .forkn then 1 else scope

/-! ### Publish lines -/

/-- What a publish line meets at its home. -/
inductive LineMeets where
  | key (k : Nat)
  | miss (badpte : Bool)
  | denied
  | lost
  | wait

/-- A write at a key: at the page's owner, once that page is not held for FINAL (R330, R428). -/
def State.writeMeets (s : State) (key : Nat) : LineMeets :=
  match s.serve key 0 with
  | .key k => .key k
  | .wait => .wait
  | .lost => .lost

def State.lineMeets (s : State) (t : Strand) (va : Word) (replay : Bool := false) : LineMeets :=
  if isWindow va then
    match s.bankWindow t.task t.pav va with
    | some (p, fe, off) => .key (bankKey p fe + off)
    | none => .denied
  else match s.flat t.pav t.task va.toNat .store replay with
  | .miss b => .miss b
  | .fault .uncorr => .lost
  | .fault _ => .denied
  | .ok key => s.writeMeets key

/-- Code of a reduction (R176). -/
def ROp.code : ROp → Nat
  | .add => 0 | .min => 1 | .max => 2 | .and => 3 | .or => 4 | .xor => 5 | .fadd => 6

/-- DETAIL of a line's record: the byte mask, or the reduction's operation (R319, R428). -/
def SbLine.detail (l : SbLine) : Word :=
  match l.kind with
  | .bytes cs => BitVec.ofNat 64 (cs.foldl (fun m c => m + 2 ^ c.1) 0)
  | .red op .. => BitVec.ofNat 64 (ROp.code op)

/-- The address of a line's record. -/
def SbLine.addr (l : SbLine) : Word :=
  match l.kind with
  | .bytes _ => l.va
  | .red _ _ off _ => l.va + BitVec.ofNat 64 off

/-- A line performed at its publish point, a reduction at its home (R176, R274, R278); a poisoned word stays as it is. -/
def State.performLine (s : State) (k : Nat) (t : Strand) (scope : Nat) (block : Word) (l : SbLine) (key : Nat) : State :=
  match l.kind with
  | .bytes cs =>
    let cells := cs.map fun c => (key + c.1, c.2)
    let s := if isWindow l.va then s.performHome cells else s.performAt k t scope l.va block cells
    if isWindow l.va then s else s.cache t.pav t.task l.va.toNat
  | .red op w off v =>
    let n := wBytes w
    let s := s.reachHome (key + off) n
    if s.poisoned (key + off) n then s
    else s.writeHome (key + off) (toLe n (reduceNew op (8 * n) (s.home (key + off) n) (v.toNat % 2 ^ (8 * n))))

/-- Entries of a pavilion's side log. -/
def State.logUsed (s : State) (pav : Nat) : Nat := (s.sideLog.filter fun e => e.pav == pav).length

/-- A line of publish step 1 (R168, R323, R428): performed, logged, or lost; none while it must wait, for a page held, for a place in
the side log, or for a STORE_DEFERRED record that its unit keeps (R322). -/
def State.publishLine (s : State) (k : Nat) (block : Word) (scope : Nat) (l : SbLine) : Option State :=
  match s.strand k with
  | none => some s
  | some t =>
    match s.lineMeets t l.va with
    | .wait => none
    | .key key => some (s.performLine k t scope block l key)
    | m =>
      if s.recordKept t.task t.pav 3 then none
      else match m with
      | .denied => some (s.storeLost k 1 block l.addr l.detail .protect)
      | .miss b =>
        if 16 ≤ s.logUsed t.pav then none
        else
          let e : LogEntry := { pav := t.pav, task := t.task, strand := k, scope := scope, line := l, block := block }
          some (State.unitRecord { s with sideLog := s.sideLog ++ [e] } k 3 block 0 t.tag 0 l.addr l.detail b)
      | _ => some (s.storeLost k 3 block l.addr l.detail .uncorr)

/-- A later reduction of the line's bytes stands among lines. -/
def reducedLater (l : SbLine) (rest : List SbLine) : Bool :=
  match l.kind with
  | .bytes cs => rest.any fun x => x.va == l.va && match x.kind with
      | .red _ w off _ => cs.any fun c => off ≤ c.1 && c.1 < off + wBytes w
      | .bytes _ => false
  | .red .. => false

/-- Lines performed until a reduction or a line that waits; a line that a later reduction joins is carried to its home (R176). DESIGN
CHOICE (log 65): R34 fixes no order among the lines of step 1; they are performed in creation order. -/
def step1Go (k : Nat) (block : Word) (scope : Nat) : List SbLine → State → State × List SbLine
  | [], s => (s, [])
  | l :: rest, s =>
    match l.kind with
    | .red .. => (s, l :: rest)
    | .bytes _ =>
      match s.publishLine k block (if reducedLater l rest then 4 else scope) l with
      | some s' => step1Go k block scope rest s'
      | none => (s, l :: rest)

/-- The publish that is in progress: the strand's own, or the first of its queue (R324). -/
def Strand.active (t : Strand) : Option Pub := t.pub.or t.queue.head?

def Strand.setActive (t : Strand) (p : Pub) : Strand :=
  if t.pub.isSome then { t with pub := some p, phase := if p.lines.isEmpty then .step2 else .step1 }
  else { t with queue := p :: t.queue.tail }

/-- Step 1 goes on (R34, R274, R276); it begins with the strand's earlier lines. -/
def State.runStep1 (s : State) (k : Nat) : State :=
  match (s.strand k).bind Strand.active with
  | none => s
  | some p =>
    let s := if p.started then s else s.widen k p.scope
    if !p.started && !(s.narrower k p.scope).isEmpty then s
    else
      let r := step1Go k p.block p.scope p.lines s
      r.1.modStrand k fun t => t.setActive { p with started := true, lines := r.2 }

/-! ### After a publish -/

/-- A region of the strand is open. -/
def Strand.regionOpen (t : Strand) : Bool := t.region.entered && !(t.phase == .fetch && t.region.first)

/-- The accumulators that strand k's region wrote, told to every region that overlaps it (R29). -/
def State.tellRivals (s : State) (k : Nat) (accs : List Nat) : State :=
  if accs.isEmpty then s
  else
    { s with strands := (List.range s.strands.length).zip s.strands |>.map fun x =>
        if x.1 != k && x.2.regionOpen then { x.2 with region := { x.2.region with rivals := x.2.region.rivals ++ accs } } else x.2 }

/-- Step 3 (R34): committed accumulators take the working values, pins are released, RCNT returns to zero. -/
def State.step3 (s : State) (k : Nat) (accs : List Nat) : State :=
  let s := (accs.foldl State.commitAcc s).tellRivals k accs
  match s.strand k with
  | none => s
  | some t => (s.setStrand k { t with rcnt := 0, region := { t.region with pins := [], accs := [] } }).addPerf t.pav 2 1

/-- Descriptors of a strand detached; a buffer to which none is attached ceases (R208). -/
def State.detach (s : State) (id : Nat) : State :=
  match s.buffers.find id with
  | none => s
  | some b => { s with buffers := if b.att ≤ 1 then s.buffers.drop id else s.buffers.put id { b with att := b.att - 1 } }

def State.detachAll (s : State) (k : Nat) : State :=
  match s.strand k with
  | none => s
  | some t => (t.bufs.foldl (fun s (b : Nat × Nat) => s.detach b.2) s).modStrand k fun t => { t with bufs := [] }

/-- A region that has not been opened yet, at the strand's next block. -/
def Strand.freshRegion (t : Strand) : Strand :=
  { t with region := { ip := t.ip, fp := t.fp, tag := t.tag, poolPtr := t.poolPtr }, phase := .fetch, state := .ready,
           liveIn := 0, written := 0 }

/-- What a strand does after its region has published: it ends, it is left without a next region, or its next region opens
(R8, R34, R40, R172). -/
def State.afterPublish (s : State) (k : Nat) : State :=
  match s.strand k with
  | none => s
  | some t =>
    if t.exiting then (s.setStrand k { t with state := .ended, phase := .fetch, block := none }).iterationEnds t
    else if t.noNext then
      let f : RaisedFault := (t.startFault).getD ⟨{ code := .illegal, sub := 3 }, t.ip, 63⟩
      (s.setStrand k { t.freshRegion with pendFault := none, pendHere := false }).takeFault k f
    else match t.block with
      | some b =>
        let u : Strand := { t.freshRegion with block := none }
        let s := s.setStrand k u
        if (s.task t.task).status == .running then s.openWith k u b else s
      | none => s.setStrand k t.freshRegion

/-! ### Launching (R34 step 2) -/

/-- What the launch of an entry gives: done, or it waits with all that follow it. -/
inductive Launch where
  | done (s : State)
  | wait (s : State)

/-- The control word's fields (R189). -/
def ctlQueue (r : Word) : Nat := bits r 2 0
def ctlCv (r : Word) : Bool := bit r 3
def ctlCreg (r : Word) : Nat := bits r 10 4

/-- A launch that would name a register that is pending waits (R22). -/
def State.withCreg (s : State) (k : Nat) (cv : Bool) (creg : Nat) (f : State → State) : Launch :=
  if cv && s.isPending k creg then .wait s else .done (f s)

/-- An engine operation of a deferred entry. -/
def engineOf (k : Nat) (t : Strand) (d : Deferred) (kind : EngKind) (queue : Nat) (cv : Bool) (creg : Nat) (trapErr : Bool) : Engine :=
  { kind := kind, task := t.task, strand := k, pav := t.pav, queue := queue, l := d.l, r := d.r, cv := cv, creg := creg,
    trapErr := trapErr, block := d.block, slot := d.slot, tag := t.tag,
    aux := if kind = .igather then d.x else 0, graph := t.kind != .ordinary }

/-- The engine operation that an entry launches; none for the other kinds (R189, R198, R212, R271). -/
def Deferred.engine (k : Nat) (t : Strand) (d : Deferred) : Option Engine :=
  let ctl (kind : EngKind) : Option Engine := some (engineOf k t d kind (ctlQueue d.r) (ctlCv d.r) (ctlCreg d.r) (bit d.r 11))
  match d.kind with
  | .cpy => ctl .cpy | .cpyt => ctl .cpyt | .coll => ctl .coll | .kappend => ctl .kappend | .kmerge => ctl .kmerge
  | .mscan => ctl .mscan | .ksum => ctl .ksum | .igather => ctl .igather | .walk => ctl .walk
  | .wsld => some (engineOf k t d .wsld 8 (bit d.r 57) (bits d.r 56 50) (bit d.r 29))
  | .sload => some (engineOf k t d .sload (bits d.l 4 2) (bit d.l 12) (bits d.l 11 5) false)
  | .sstore => some (engineOf k t d .sstore (bits d.l 4 2) (bit d.l 12) (bits d.l 11 5) false)
  | .tlbi => some (engineOf k t d .tlbi 9 (ctlCv d.r) (ctlCreg d.r) (bit d.r 11))
  | _ => none

/-- Where a child is created (R281): its pavilion's number, and how far its placing may reach. -/
def State.childPlace (s : State) (t : Strand) (scope : Nat) : State × Nat × Reach :=
  if scope ≤ 1 then (s, t.pav, .pavilion)
  else if scope = 2 then (s, t.pav, .grove)
  else
    let gs := (s.task t.task).groves.filter (· < 256)
    (s.tick, s.firstPav ((gs[Config.freeChoice s.ticks % gs.length]?).getD (groveOf t.pav)), .grove)

/-- The child of index j (R156): tag, FP, registers and generators of the parent's publish. -/
def childOf (t : Strand) (p : Pub) (d : Deferred) (pav : Nat) (reach : Reach) (j : Nat) : Strand :=
  { newStrand t.task pav d.l p.fp (tagPush p.tag ((d.x + j) % 4096)) reach with
    regs := p.regs, gens := t.gens, poison := p.poison }

/-- FORK and FORKN (R156): n children in order of j. -/
def State.forkChildren (s : State) (t : Strand) (p : Pub) (d : Deferred) : State :=
  (List.range d.y).foldl (fun s j =>
    let r := s.childPlace t (effScope p.scope p.deferred)
    r.1.launchStrand true (childOf t p d r.2.1 r.2.2 j)) s

/-- A write of publish step 2 (R428): at device scope (R158, R159), or at its home, where an arbiter performs it (R263, R278). -/
def State.step2Write (s : State) (k : Nat) (block va : Word) (cells : Tab Byte) (scope : Nat := 3) : Launch :=
  match s.publishLine k block scope { va := va, kind := .bytes cells } with
  | some s' => .done s'
  | none => .wait s

/-- Bytes as cells of a line from an offset on. -/
def cellsAt (off : Nat) (d : List Byte) : Tab Byte := (List.range d.length).zip d |>.map fun c => (off + c.1, c.2)

/-- The link words of a frame at `base` that the region's stores wrote: bit 0 the caller's FP, bit 1 the return address. -/
def linkMask (lines : List SbLine) (base : Word) : Nat :=
  let wrote (lo : Nat) : Bool := lines.any fun l => l.va == base && match l.kind with
    | .bytes cs => cs.any fun c => lo ≤ c.1 && c.1 < lo + 8
    | .red _ w off _ => overlaps off (wBytes w) lo 8
  (if wrote 0 then 1 else 0) + (if wrote 8 then 2 else 0)

/-- The header that FRALLOC writes (R158). -/
def frameHeader (d : Deferred) : Tab Byte :=
  (if d.y % 2 = 1 then [] else cellsAt 0 (toLe 8 0)) ++ (if d.y / 2 % 2 = 1 then [] else cellsAt 8 (toLe 8 0))
    ++ cellsAt 16 (toLe 8 d.x) ++ cellsAt 24 (toLe 8 d.r.toNat) ++ cellsAt 32 (toLe 8 0)

/-- The pool pointer moved back over every free frame at the top (R159). -/
def popFrames : List FrameRec → Word → List FrameRec × Word
  | [], p => ([], p)
  | f :: rest, p =>
    let r := popFrames rest p
    if r.1.isEmpty && !f.live then ([], f.base) else (f :: r.1, r.2)

/-- FRFREE's effect on the pool. -/
def Strand.freeFrame (t : Strand) (fp : Word) : Strand :=
  let fs := t.frames.map fun f => (if f.live && f.base + 40 == fp then { f with live := false } else f)
  let r := popFrames fs t.poolPtr
  let below := popFrames (fs.filter fun f => f.base < t.region.poolPtr) t.region.poolPtr
  { t with frames := r.1, poolPtr := r.2, region := { t.region with poolPtr := below.2 } }

/-- TAGSET's new tag stays within TAGWIN at every level (R14, R160). -/
def State.tagsetFits (s : State) (k : Nat) (task : Nat) (v : Word) : Bool :=
  (List.range (tagDepth v)).all fun i => s.tagFits task (i + 1) v (some k)

/-- A TAGSET that must wait has the sources that it would exceed wait for the oldest of their tags; one that takes effect ends their holds
that are over (R14, R160). -/
def State.tagsetHold (s : State) (k : Nat) (task : Nat) (v : Word) : State :=
  (List.range (tagDepth v)).foldl (fun s i => s.tagHold task (i + 1) v (some k)) s

def State.tagsetPass (s : State) (k : Nat) (task : Nat) (v : Word) : State :=
  (List.range (tagDepth v)).foldl (fun s i => s.tagPass task (i + 1) v (some k)) s

/-- BUFDEF (R208). -/
def State.bufdef (s : State) (k : Nat) (t : Strand) (d : Deferred) : State :=
  let desc := bits d.r 4 0
  let old := t.bufs.find desc
  let drop (s : State) : State := match old with
    | some id => (s.detach id).modStrand k fun t => { t with bufs := t.bufs.drop desc }
    | none => s
  if bit d.r 5 then drop s
  else
    let fe := bits d.l 63 60
    let base := 64 * bits d.l 59 50
    let size := 64 * (bits d.l 49 40 + 1)
    let count := bits d.l 39 25 + 1
    match s.buffers.find? fun (b : Nat × BufRec) => b.2.pav == t.pav && b.2.fe == fe && b.2.base == base with
    | some (id, b) =>
      if b.size ≠ size ∨ b.count ≠ count then s.unitRecord k 8 d.block d.slot t.tag
      else if old = some id then s
      else
        let s := drop s
        { s with buffers := s.buffers.put id { b with att := b.att + 1 } }.modStrand k fun t => { t with bufs := t.bufs.put desc id }
    | none =>
      let s := drop s
      let id := s.nextBuf
      { s with nextBuf := id + 1, buffers := s.buffers.put id { pav := t.pav, fe := fe, base := base, size := size, count := count } }.modStrand k
        fun t => { t with bufs := t.bufs.put desc id }

/-- An advance at the buffer's arbiter, reduced to the room left, with a BUF_CLAMP record (R210). -/
def State.advance (s : State) (k : Nat) (t : Strand) (tag : Word) (d : Deferred) (prod : Bool) : State :=
  match s.buffers.find d.y with
  | none => s
  | some b =>
    let n := Nat.min d.x (if prod then b.room else b.filled)
    let s := { s with buffers := s.buffers.put d.y (b.advance prod n tag) }
    if n < d.x then s.unitRecord k 9 d.block d.slot t.tag else s

/-- MRING at publish step 2 (R183). Of two MRINGs that define one ring and that both passed at fire the second does nothing (log 91,
DESIGN CHOICE: R183 names no effect). -/
def State.mring (s : State) (t : Strand) (l : Word) : State :=
  let n := bits l 51 48
  let lg := bits l 20 16
  if lg = 0 then
    match s.ring t.pav n with
    | none => s
    | some r => r.held.foldl (fun s m => s.ringAnswer m 8 0)
        { s with rings := s.rings.filter fun x => !(x.pav == t.pav && x.ring == n) }
  else if (s.ring t.pav n).isSome then s
  else { s with rings := s.rings ++ [{ pav := t.pav, ring := n, fe := bits l 47 44, base := bits l 15 0, log2 := lg, owner := t.task }] }

/-- A pavilion number that no pavilion has. -/
def noPav : Nat := 2 ^ 20

/-- MSEND at publish step 2 (R185, R282, R397): the payload as the region's stores left it; a poisoned one is not sent and is answered
UNCORR (R425, log 84). -/
def State.msend (s : State) (k : Nat) (t : Strand) (d : Deferred) : State :=
  let chip := bits d.l 60 48
  let m : RingMsg :=
    { pav := if chip = s.chip then (s.physPav (s.task t.task) (bits d.l 47 36)).getD noPav else bits d.l 47 36,
      ring := bits d.l 35 32, srcChip := s.chip, srcPav := (s.task t.task).logPav t.pav, log2 := bits d.l 28 24,
      payload := s.viewN k t.pav (bankKey t.pav (bits d.r 35 32) + bits d.r 15 0) (8 * bits d.r 49 41),
      strand := some k, cv := bit d.r 57, creg := bits d.r 56 50, block := d.block, slot := d.slot, tag := t.tag }
  let s := if m.cv then s.setPending k m.creg else s
  if s.poisoned (bankKey t.pav (bits d.r 35 32) + bits d.r 15 0) (8 * bits d.r 49 41) then
    s.push (.msendReturnArrive k m.cv m.creg 5 0 m.block m.slot m.tag)
  else if chip = s.chip then s.push (.ringRecordArrive m)
  else if s.reached chip then s.send (.ring chip m)
  else s.push (.msendReturnArrive k m.cv m.creg 5 0 m.block m.slot m.tag)

/-- The first n DATA records of a ring released, with the PADs before them (R188). -/
def releaseRecs : List (Nat × Nat × Bool) → Nat → List (Nat × Nat × Bool)
  | l, 0 => l
  | [], _ => []
  | x :: t, n + 1 => if x.2.2 then releaseRecs t (n + 1) else releaseRecs t n

def State.releaseRing (s : State) (pav ring n : Nat) : State :=
  match s.ring pav ring with
  | none => s
  | some r => (s.setRing { r with recs := releaseRecs r.recs n }).placeHeldRecords pav ring

/-- A store message's bytes: the record from its physical slots, which were fixed at fire, as they stand at launch (R246, R247). -/
def State.kputBytes (s : State) (k : Nat) (t : Strand) (d : Deferred) : List Byte :=
  match d.buf with
  | none => []
  | some b => (List.range (vref d.l).len).map fun o => s.view k t.pav (b.slotKey ((d.x + o / b.size) % b.count) + o % b.size)

/-- A word of the slots that a KPUT's record stands in is poisoned (R425). -/
def State.kputLost (s : State) (d : Deferred) : Bool :=
  match d.buf with
  | none => false
  | some b => (List.range (vref d.l).len).any fun o => s.poisoned (b.slotKey ((d.x + o / b.size) % b.count) + o % b.size) 1

/-- A launch waits while its unit keeps a record of a kind (R322). -/
def State.unlessKept (s : State) (t : Strand) (kinds : List Nat) (f : State → Launch) : Launch :=
  if kinds.any (s.recordKept t.task t.pav) then .wait s else f s

/-! ### Edge ports (R82, R352) -/

/-- A port entry at an address (R82): its number, and the stream with the tensor that the entry names. The entry's Tensor number, modulo
4,096, counts where the stream descriptor's TENSOR field differs from it (log 86, DESIGN CHOICE). -/
def State.portAt (s : State) (a : Nat) : Nat × PortStream :=
  let tensor := s.home (a + 8) 4
  (s.home (a + 2) 2, { out := s.home (a + 1) 1 % 2 == 1, tensor := tensor,
                       stream := BitVec.ofNat 64 (tensor % 4096 * 2 ^ 52 + s.home (a + 16) 8 % 2 ^ 52) })

/-- The port entries of the graph whose entries begin a table: those that carry its graph index (log 16). -/
def State.portsOf (s : State) (graph : Nat) : Nat → Nat → Tab PortStream
  | 0, _ => []
  | n + 1, a =>
    if s.home a 1 = 1 ∧ s.home (a + 4) 4 = graph then
      let p := s.portAt a
      Tab.put (s.portsOf graph n (a + 32)) p.1 p.2
    else []

/-- The edge ports of a task's graph. -/
def State.graphPorts (s : State) (ports : Nat) : Tab PortStream := s.portsOf (s.home (ports + 4) 4) 256 ports

/-- The position of the box that follows one, in row-major order over the tensor; after the last box the first comes again. -/
def nextBox (rows cols h w : Nat) (pos : Word) : Word :=
  let row := bits pos 63 32
  let col := bits pos 31 0
  if col + w < cols then BitVec.ofNat 64 (row * 2 ^ 32 + (col + w))
  else if row + h < rows then BitVec.ofNat 64 ((row + h) * 2 ^ 32)
  else 0

/-- A port's stream goes on to its next box (R363). -/
def State.movePort (s : State) (task n : Nat) : State :=
  match (s.task task).ports.find n with
  | none => s
  | some x =>
    match s.tensor task (bits x.stream 63 52) with
    | none => s
    | some ti =>
      s.modTask task fun t => { t with ports := t.ports.put n { x with
        pos := nextBox ti.rows ti.cols (bits x.stream 31 26 + 1) (bits x.stream 25 16 + 1) x.pos } }

/-- An entry of an out port names the port, and takes the box at which its stream stands (log 9). -/
def State.portEntry (s : State) (task : Nat) (d : Deferred) : Deferred × State :=
  if d.kind = .sstore ∧ d.x ≠ 0 then
    ({ d with r := (((s.task task).ports.find (d.x - 1)).map (·.pos)).getD 0 }, s.movePort task (d.x - 1))
  else (d, s)

/-- A SEND whose home cannot perform its write (R428): its STORE_DEFERRED record carries the frame slot's line and its 8 bytes. -/
def State.sendLost (s : State) (k : Nat) (d : Deferred) : State :=
  let a := d.l + BitVec.ofNat 64 (8 * d.x)
  let l : SbLine := { va := lineOf a, kind := .bytes (cellsAt (bits a 5 0) (toLe 8 d.r.toNat)) }
  s.storeLost k 3 d.block l.addr l.detail .uncorr

/-- One entry of the deferred list launched. -/
def State.launch1 (s : State) (k : Nat) (t : Strand) (p : Pub) (d : Deferred) : Launch :=
  match d.kind with
  | .fork | .forkn => .done (s.forkChildren t p d)
  | .send =>
    let m : SendMsg := { task := t.task, strand := k, fp := d.l, pa := d.y, slot := d.x, value := d.r, block := d.block,
                         islot := d.slot, tag := p.tag }
    if !s.keyOk d.y then s.unlessKept t [3] fun s => .done (s.sendLost k d)
    else .done (if ((s.task t.task).frameGrove d.l.toNat).isSome || s.homeChip d.y == s.chip then s.push (.sendArriveHome m)
           else s.send (.send (d.y / 2 ^ 42) m))
  | .fralloc => s.step2Write k d.block (d.l - 40) (frameHeader d)
  | .frfree =>
    let a := d.l - 8
    match s.step2Write k d.block (lineOf a) (cellsAt (bits a 5 0) (toLe 8 0)) with
    | .done s' => .done (s'.modStrand k fun t => t.freeFrame d.l)
    | w => w
  | .tagset =>
    if t.tagWait.isNone && s.tagsetFits k t.task d.l then .done ((s.tagsetPass k t.task d.l).modStrand k fun t => { t with tag := d.l })
    else .wait ((s.tagsetHold k t.task d.l).modStrand k fun t => { t with tagWait := some d.l })
  | .dqpush =>
    let q := (s.deques.find d.x).getD {}
    .done { s with deques := s.deques.put d.x { q with entries := q.entries.map fun e => (if e.1 = d.y then (e.1, e.2.1, DqState.visible) else e) } }
  | .failedPush => .done s
  | .gbarx => .done (if s.passed.contains (t.task, t.pav) then s else { s with passed := s.passed ++ [(t.task, t.pav)] })
  | .mring => .done (s.mring t d.l)
  | .msend => s.unlessKept t [5] fun s => s.withCreg k (bit d.r 57) (bits d.r 56 50) fun s => s.msend k t d
  | .mwait => .done (s.releaseRing t.pav d.y d.x)
  | .bufdef => s.unlessKept t [8] fun s => .done (s.bufdef k t d)
  | .advp => s.unlessKept t [9] fun s => .done (s.advance k t p.tag d true)
  | .advc => s.unlessKept t [9] fun s => .done (s.advance k t p.tag d false)
  | .tdrain =>
    match s.stagings.findIdx? fun x => x.strand == k && x.kept && !x.launched with
    | some i => .done { s with stagings := s.stagings.set i (match s.stagings[i]? with
        | some x => { x with launched := true }
        | none => { task := t.task, srcPav := 0, srcFe := 0, idx := 0, data := [], strand := k, block := 0, slot := 0, tag := 0 }) }
    | none => .done s
  | .gdef => .done (s.modStrand k fun t => { t with gens := t.gens.put (bits d.l 55 52) (d.l, d.r) })
  | .kput => s.unlessKept t [12] fun s => s.withCreg k (bit d.r 43) (bits d.r 42 36) fun s =>
      if s.kputLost d then s.regionFault k { code := .uncorr }
      else (if bit d.r 43 then s.setPending k (bits d.r 42 36) else s).push (.storeKputInsert
        { task := t.task, strand := k, dom := bits d.r 63 56, store := bits d.r 55 44, tag := p.tag, len := (vref d.l).len,
          data := s.kputBytes k t d, cv := bit d.r 43, creg := bits d.r 42 36, block := d.block, slot := d.slot })
  | .kdel => s.unlessKept t [12] fun s => s.withCreg k (bit d.r 43) (bits d.r 42 36) fun s =>
      (if bit d.r 43 then s.setPending k (bits d.r 42 36) else s).push (.storeKdel
        { task := t.task, strand := k, dom := bits d.r 63 56, id := bits d.l 39 0, cv := bit d.r 43, creg := bits d.r 42 36,
          block := d.block, slot := d.slot, tag := p.tag })
  | .mdom => s.unlessKept t [11] fun s =>
    match s.mdom { task := t.task, strand := k, cmd := d.l, loc := d.r, block := d.block, slot := d.slot, tag := p.tag } with
    | some s' => .done s'
    | none => .wait s
  | .itbl =>
    let a := tableVa (BitVec.ofNat 64 d.x) (bits d.l 17 10) + BitVec.ofNat 64 (8 * bits d.l 9 0)
    s.step2Write k d.block (lineOf a) (cellsAt (bits a 5 0) (toLe 8 d.r.toNat)) 4
  | .mtsr =>
    match s.writeSys k t d.x d.l with
    | (true, s') => .done s'
    | (false, s') => .wait s'
  | .resume => .done (match s.ofHandle d.l with
      | some j => match s.strand j with
        | some u => if u.resumable d.r then s.resumeAt j d.r else s
        | none => s
      | none => s)
  | .cpy | .cpyt | .coll | .wsld | .sload | .sstore | .kappend | .kmerge | .mscan | .ksum | .igather | .walk | .tlbi =>
    let x := s.portEntry t.task d
    match x.1.engine k t with
    | none => .done s
    | some e => s.withCreg k e.cv e.creg fun _ => (if d.kind = .tlbi then x.2.tlbi t.task d.l else x.2).launchEngine t e

/-- Entries launched in order until one waits: the state and the entries that are left. -/
def launchAll (k : Nat) (p : Pub) : List Deferred → State → State × List Deferred
  | [], s => (s, [])
  | d :: rest, s =>
    match s.strand k with
    | none => (s, [])
    | some t =>
      match s.launch1 k t p d with
      | .done s' => launchAll k p rest s'
      | .wait s' => (s', d :: rest)

/-- Claims become removals (R38). -/
def State.removeClaims (s : State) (cs : List (Nat × Nat × Nat)) : State :=
  cs.foldl (fun s c =>
    let d := s.deque c.1 c.2.1
    s.setDeque c.1 c.2.1 { d with entries := d.entries.filter fun e => e.1 != c.2.2 }) s

/-- A publish whose entries have all launched. -/
def State.publishDone (s : State) (k : Nat) (p : Pub) : State :=
  let s := s.removeClaims p.claims
  match s.strand k with
  | none => s
  | some t =>
    if t.pub.isSome then
      let s := (s.setStrand k { t with pub := none }).step3 k t.region.accs
      (if t.exiting then s.detachAll k else s).afterPublish k
    else
      let s := s.setStrand k { t with queue := t.queue.tail }
      if t.state == .ended && t.queue.length ≤ 1 then s.detachAll k else s

/-! ### The events -/

/-- A MATCHC of the strand whose decisions are still out (R375). -/
def State.decisionsOut (s : State) (k : Nat) : Bool := s.queries.any fun q => q.2.strand == k && q.2.consume

/-- The publish of a region that has passed its scope check; it is queued behind the strand's side-log entries (R34, R324). -/
def State.beginPublish (s : State) (k : Nat) (t : Strand) (scope : Nat) (ds : List Deferred) : State :=
  let ds := ds.map fun d => if d.kind = .fralloc then { d with y := linkMask t.region.store (d.l - 40) } else d
  let p : Pub := { scope := effScope scope ds, lines := t.region.store, deferred := ds, claims := t.region.claims,
                   block := t.region.ip, tag := t.region.tag, fp := t.fp, regs := t.regs, poison := t.poison }
  let s := { s with stagings := s.stagings.map fun (d : Drain) => (if d.strand == k then { d with kept := true } else d) }
  let t' := { t with region := { t.region with store := [], deferred := [], claims := [], waits := [] } }
  if (s.sideLog.any fun e => e.strand == k) || !t.queue.isEmpty then
    let s := (s.setStrand k { t' with queue := t.queue ++ [p] }).step3 k t.region.accs
    s.afterPublish k
  else (s.setStrand k { t' with pub := some p, phase := .step1 }).runStep1 k

/-- The scope check of a region, and what follows: a region that can still be discarded is discarded; otherwise the entry
resolves without effect and its fault is kept (R40, R157, R280). -/
def State.endRegion (s : State) (k : Nat) (t : Strand) (scope : Nat) : State :=
  let r := s.checkTokens t (effScope scope t.region.deferred) t.region.deferred
  match r.2 with
  | none => s.beginPublish k t scope r.1
  | some (.ok _) => s
  | some (.fault d f) =>
    if t.region.kept then
      s.setStrand k (({ t with region := { t.region with deferred := t.region.deferred.filter fun e => e != d } } : Strand).noteFault ⟨f, d.block, d.slot⟩)
    else s.takeFault k ⟨f, d.block, d.slot⟩
  | some (.miss d b) =>
    if t.region.kept then
      let s := s.setStrand k { t with park := some (.page d.l d.block d.slot) }
      s.record (terraceOf t.pav) { s.strandRec t 2 with cause := FaultCode.xlateLoad.code, subcause := if b then 10 else 0,
                                                        slot := d.slot, block := d.block, addr := d.l } (s.task t.task).faulth (some (k, .parked))
    else s.parkPage k d.l b d.block d.slot

/-- REGION_END (R34, R40, R280, R324): the region ends and step 1 begins, or goes on after a wait. -/
def execRegionEnd (k : Nat) (s : State) : Out :=
  .next (match s.strand k with
    | none => s
    | some t =>
      match t.phase with
      | .close scope =>
        if t.state != .ready || t.pub.isSome || s.decisionsOut k || 2 ≤ t.queue.length then s
        else s.endRegion k t scope
      | .step1 => if t.pub.isSome then s.runStep1 k else s
      | _ => s)

/-- HOME_REDUCTION_PERFORM (R176, R278): the reduction at the head of the publish in progress; then step 1 goes on. -/
def execHomeReductionPerform (k : Nat) (s : State) : Out :=
  .next (match s.strand k with
    | none => s
    | some t => match t.active with
      | none => s
      | some p =>
        match p.lines with
        | [] => s
        | l :: rest =>
          match l.kind with
          | .bytes _ => s
          | .red .. =>
            if !p.started then s
            else match s.publishLine k p.block p.scope l with
              | none => s
              | some s' => (s'.modStrand k fun t => t.setActive { p with lines := rest }).runStep1 k)

/-- PUBLISH_STEP_2 (R34): the deferred list launches in order; then step 3, and the next region. -/
def execPublishStep2 (k : Nat) (s : State) : Out :=
  .next (match s.strand k with
    | none => s
    | some t => match t.active with
      | none => s
      | some p =>
        if !p.started || !p.lines.isEmpty then s
        else
          let r := launchAll k p p.deferred s
          let s := r.1.modStrand k fun t => t.setActive { p with deferred := r.2 }
          if r.2.isEmpty then s.publishDone k p else s)

/-- QUEUED_PUBLISH_RESUME (R324): a queued publish begins step 1 once the strand's earlier side-log entries are gone, or goes on
after a wait. -/
def execQueuedPublishResume (k : Nat) (s : State) : Out :=
  .next (match s.strand k with
    | none => s
    | some t => match t.pub, t.queue with
      | none, p :: _ => if !p.started && s.sideLog.any fun e => e.strand == k then s else s.runStep1 k
      | _, _ => s)

/-- TAGSET_RELEASE (R160): a TAGSET that waits on TAGWIN takes effect once an older tag has retired. -/
def execTagsetRelease (k : Nat) (s : State) : Out :=
  .next (match s.strand k with
    | none => s
    | some t => match t.tagWait, t.active with
      | some v, some p =>
        match p.deferred with
        | d :: rest =>
          if d.kind == .tagset && d.l == v && s.tagsetFits k t.task v then
            (s.tagsetPass k t.task v).setStrand k (({ t with tag := v, tagWait := none } : Strand).setActive { p with deferred := rest })
          else if d.kind == .tagset && d.l == v then s.tagsetHold k t.task v
          else s
        | [] => s
      | _, _ => s)

end Sys2Proof.Machine
end

