-- ==== Sys2Proof/Machine/Lodge.lean ====
section
/-! DEFINITION. What the Lodge does to the fabric: its answers to translation records (R314, R323), the records of held strands (R322), the weight
stores (R303 to R305), the heat snapshot (R328), the registers that it writes (R328, R329, R341); and the timeout of IDLE (R273). -/

namespace Sys2Proof.Machine

/-! ### Replay of the side log (R314, R323) -/

/-- The bytes of a line that a frame held for FINAL keeps as accesses, in order (R330, R339). -/
def SbLine.accesses (l : SbLine) (key chip : Nat) : List Access :=
  match l.kind with
  | .bytes cs => cs.map fun c => { pa := key + c.1, op := .write [c.2], chip := chip, req := 0 }
  | .red op w off v => [{ pa := key + off, op := .reduce op w v, chip := chip, req := 0 }]

/-- The key of a replayed line whose frame is held. -/
def State.heldKey (s : State) (t : Strand) (va : Word) : Nat :=
  match s.flat t.pav t.task va.toNat .store true with
  | .ok key => s.ownerKey key
  | _ => 0

/-- This chip's earlier accesses to a page complete before a new one to the page's new owner (R332); none while one of them must wait. -/
def State.drainFrame (s : State) (f : Nat) : Option State :=
  (s.lines.filter fun l => l.scope == 3 && frameOf l.key == f).foldl
    (fun s l => s.bind fun s => if s.canCarry l 4 then some (s.carryLine l 4) else none) (some s)

/-- One entry replayed at its own scope: the state, and the entry when it stays in its place; none while a record of its kind is kept back
(R322). -/
def State.replay (s : State) (e : LogEntry) : Option (State × Option LogEntry) :=
  match s.strand e.strand with
  | none => some (s, none)
  | some t =>
    let unlessKept (r : State × Option LogEntry) : Option (State × Option LogEntry) := if s.recordKept t.task t.pav 3 then none else some r
    match s.lineMeets t e.line.va true with
    | .key key => some (s.performLine e.strand t e.scope e.block e.line key, none)
    | .wait =>
      let key := s.heldKey t e.line.va
      if s.frameHeld (frameOf key) then some (s.holdAccess (frameOf key) (e.line.accesses key s.chip), none)
      else (s.drainFrame (frameOf key)).map fun s => (s.performLine e.strand t e.scope e.block e.line key, none)
    | .miss b => unlessKept (s.unitRecord e.strand 3 e.block 0 t.tag 0 e.line.addr e.line.detail b, some e)
    | .denied => unlessKept (s.storeLost e.strand 1 e.block e.line.addr e.line.detail .protect, none)
    | .lost => unlessKept (s.storeLost e.strand 3 e.block e.line.addr e.line.detail .uncorr, none)

/-- One entry dropped by an answer of INVALID (R323); none while a record of its kind is kept back. -/
def State.dropEntry (s : State) (e : LogEntry) : Option (State × Option LogEntry) :=
  match s.strand e.strand with
  | none => some (s, none)
  | some t => if s.recordKept t.task t.pav 3 then none else some (s.storeLost e.strand 2 e.block e.line.addr e.line.detail .protect, none)

/-- An entry lies in a page of a task. -/
def LogEntry.inPage (e : LogEntry) (task : Nat) (a : Word) : Bool := e.task == task && e.line.addr.toNat / 4096 == a.toNat / 4096

/-- Entries handled in log order, until one must wait: the state, and those that are left. -/
def logGo (f : State → LogEntry → Option (State × Option LogEntry)) : List LogEntry → State → State × List LogEntry
  | [], s => (s, [])
  | e :: rest, s =>
    if !s.sideLog.contains e then logGo f rest s
    else match f { s with sideLog := s.sideLog.eraseIdx (s.sideLog.idxOf e) } e with
      | none => (s, e :: rest)
      | some (s', none) => logGo f rest s'
      | some (s', some _) => logGo f rest { s' with sideLog := s.sideLog }

/-! ### Engine operations and strands that wait for the Lodge -/

/-- An engine operation is held on what a record of `addr` names: its page, or for a stream its tile (R192, R314, R316). -/
def Engine.heldOn (e : Engine) (task : Nat) (addr : Word) (tile : Bool) : Bool :=
  e.task == task && match e.state with
  | .held a _ => if tile then e.kind.streams && a == addr else !e.kind.streams && a.toNat / 4096 == addr.toNat / 4096
  | _ => false

/-- A held table access that goes on (R370). -/
def State.tableGo (s : State) (i : Nat) (e : Engine) : State :=
  let s := { s with engines := s.engines.drop i }
  if e.done = 0 then s.tableWriteNow e.task e.l.toNat (e.cmd.map fun w => w.setWidth 8) else s.readDomain e.task e.aux

/-- A held operation resumes. -/
def State.engineGo (s : State) (i : Nat) : State :=
  match s.engine i with
  | none => s
  | some e => if e.kind = .table then s.tableGo i e else s.setEngine i { e with state := .running }

/-- A held operation ends with XLATE; a table access is refused (R314, R370). -/
def State.engineInvalid (s : State) (i : Nat) : State :=
  match s.engine i with
  | none => s
  | some e =>
    if e.kind = .table then { s with engines := s.engines.drop i }.tableRefused e.task e.l.toNat
    else match e.state with
      | .held a _ => s.finishEngine i e 1 a
      | _ => s

/-- The operations that an answer reaches. -/
def State.heldEngines (s : State) (task : Nat) (addr : Word) (tile : Bool) : List Nat :=
  (s.engines.filter fun (x : Nat × Engine) => x.2.heldOn task addr tile).map (·.1)

/-- The strand waits for the page, through an access of its own. -/
def Strand.onPage (t : Strand) (task : Nat) (addr : Word) : Bool :=
  t.task == task && t.state == .parked && match t.park with
  | some (.page va _ _) => va.toNat / 4096 == addr.toNat / 4096
  | _ => false

/-- A parked strand goes on: it re-enters its region, or goes on with the region's end. -/
def Strand.unpark (t : Strand) : Strand := { t with state := .ready, park := none }

/-- An answer of INVALID to a strand's own access (R314): FAULTED with F_PROTECT. A region that can no longer be discarded has its
SENDs to the page resolved without effect, and keeps the fault (R40). -/
def State.parkInvalid (s : State) (k : Nat) : State :=
  match s.strand k with
  | none => s
  | some t => match t.park with
    | some (.page va block slot) =>
      let f : RaisedFault := ⟨{ code := .protect, addr := va }, block, slot⟩
      match t.phase with
      | .close _ =>
        s.setStrand k ((Strand.noteFault { t.unpark with region := { t.region with
          deferred := t.region.deferred.filter fun d => !(d.kind == .send && d.l.toNat / 4096 == va.toNat / 4096) } }) f)
      | _ =>
        (s.setStrand k { t with park := none }).record (terraceOf t.pav) (s.faultRecord t f) (s.task t.task).faulth
          (some (k, .faulted))
    | _ => s

/-- The strands whose state satisfies a test. -/
def State.strandsThat (s : State) (p : Strand → Bool) : List Nat :=
  (List.range s.strands.length).filter fun k => match s.strand k with
    | some t => p t
    | none => false

/-- What an answer releases once the page's entries are handled (R314): MAPPED the strands parked on the page and the operations held on
it, which walk again; INVALID ends the operations, and the strands are FAULTED. A strand that waits for an operation re-enters when
that has ended (R192). -/
def State.release (s : State) (a : Answer) : State :=
  let es := s.heldEngines a.task a.addr a.tile
  let waits (t : Strand) : Bool := !a.tile && t.onPage a.task a.addr
  if a.mapped then es.foldl State.engineGo { s with strands := s.strands.map fun t => (if waits t then t.unpark else t) }
  else
    let s := es.foldl State.engineInvalid s
    (s.strandsThat waits).foldl State.parkInvalid s

/-- An answer carried out as far as ring room allows (R314, R322, R323). -/
def State.carryAnswer (s : State) (a : Answer) : State :=
  let r := logGo (if a.mapped then State.replay else State.dropEntry) a.todo s
  if r.2.isEmpty then r.1.release a else { r.1 with answers := r.1.answers ++ [{ a with todo := r.2 }] }

/-- An answer to a record: its page's entries come first (R314, R323). -/
def State.answerRecord (s : State) (mapped tile : Bool) (addr : Word) (task : Nat) : State :=
  s.carryAnswer ⟨mapped, tile, addr, task, if tile then [] else s.sideLog.filter fun e => e.inPage task addr⟩

/-- An answer of MAPPED (R314, R323). -/
def State.mapped (s : State) (tile : Bool) (addr : Word) (task : Nat) : State := s.answerRecord true tile addr task

/-- An answer of INVALID (R314, R323). -/
def State.invalid (s : State) (tile : Bool) (addr : Word) (task : Nat) : State := s.answerRecord false tile addr task

/-- A write of XREPLY (R314): ANSWER 0 and 3 are ignored as a whole, and a RECNO that names no translation record does nothing. -/
def State.writeXreply (s : State) (t : Nat) (v : Word) : State :=
  let ans := bits v 63 62
  if ans = 0 ∨ ans = 3 then s
  else
    match (s.terrace t).answered.find (bits v 31 0) with
    | none => s
    | some (tile, addr, n) =>
      let s := s.modTerrace t fun te => { te with xreply := v &&& 0xC0000000FFFFFFFF }
      match s.tasks.findIdx? fun x => x.number == n && x.status != .ended with
      | none => s
      | some task => if ans = 1 then s.mapped tile addr task else s.invalid tile addr task

/-- XREPLY_MAPPED (R314). -/
def execXreplyMapped (t : Nat) (recno : BitVec 32) (s : State) : Out :=
  .next (if s.dark then s else s.writeXreply t (BitVec.ofNat 64 (2 ^ 62 + recno.toNat)))

/-- XREPLY_INVALID (R314). -/
def execXreplyInvalid (t : Nat) (recno : BitVec 32) (s : State) : Out :=
  .next (if s.dark then s else s.writeXreply t (BitVec.ofNat 64 (2 ^ 63 + recno.toNat)))

/-! ### Held records (R322) -/

/-- The task of a number has the reserved places of the ring (R322). -/
def State.handlerNumber (s : State) (n : Nat) : Bool := s.tasks.any fun t => t.number == n && t.status != .ended && t.faulth

/-- Answers that waited for ring room go on, in order (R322). -/
def State.answersGo (s : State) : State := s.answers.foldl State.carryAnswer { s with answers := [] }

/-- HELD_STRAND_RECORD (R322): the first record held for want of room is written when there is room; its strand then enters the
state of its kind, and what waited for the record goes on. -/
def execHeldStrandRecord (t : Nat) (s : State) : Out :=
  .next (match (s.terrace t).held with
    | [] => s
    | h :: rest =>
      if s.ringRoom t (s.handlerNumber h.entry.task) then
        let n := (s.terrace t).head.toNat
        let s := (s.modTerrace t fun te => { te with held := rest }).ringWrite t h.entry
        let s := match h.mark with
          | some m => s.cited m n
          | none => s
        let s := match h.strand with
          | none => s
          | some (k, st) => s.modStrand k fun x =>
              match x.park with
              | some (.engine e) => if (s.engine e).isSome then { x with state := st } else { x with state := .ready, park := none }
              | _ => { x with state := st }
        s.answersGo
      else s)

/-! ### The weight stores (R303 to R305) -/

/-- A segment's window begins, and with it the window before ends; the WSLD units that waited for another go on (R303, R304). -/
def State.refreshMove (s : State) (t seg : Nat) : State :=
  let s := s.modTerrace t fun te => { te with seg := seg }
  { s with engines := s.engines.map fun (x : Nat × Engine) => match x.2.state with
      | .refresh g => if terraceOf x.2.pav = t ∧ g ≠ seg then (x.1, { x.2 with state := .running }) else x
      | _ => x }

/-- The Terrace's period runs: it is admitted (R303). -/
def State.refreshing (s : State) (t : Nat) : Bool := (s.terrace t).state == 2

/-- REFRESH_WINDOW_START (R303): the window of the next segment. -/
def execRefreshWindowStart (t seg : Nat) (s : State) : Out :=
  s.powered (if s.refreshing t && seg == ((s.terrace t).seg + 1) % 64 then s.refreshMove t seg else s)

/-- REFRESH_WINDOW_END (R303): exactly one segment refreshes at any time, so the next one's window begins. -/
def execRefreshWindowEnd (t seg : Nat) (s : State) : Out :=
  s.powered (if s.refreshing t && seg == (s.terrace t).seg then s.refreshMove t ((seg + 1) % 64) else s)

/-- A task that has not ended holds a grove of the Terrace. -/
def State.terraceHeld (s : State) (t : Nat) : Bool :=
  s.tasks.any fun x => x.status != .ended && x.groves.any fun g => g < 256 && g / 32 == t

/-- WEIGHT_STORE_WRITE (R305). -/
def execWeightStoreWrite (t off : Nat) (data : List Byte) (s : State) : Out :=
  .next (if t < 8 && off + data.length ≤ 2 ^ 31 && !s.terraceHeld t && !s.dark then s.writeHome (weightKey t + off) data else s)

/-! ### IDLE_TIMEOUT -/

/-- IDLE_TIMEOUT (R273): the answer 1 stands in the slot's left operand until it is sent. -/
def execIdleTimeout (k slot : Nat) (s : State) : Out :=
  .next (match s.ctxAt k slot with
    | none => s
    | some c => match c.b.instr slot with
      | some (.idle _ _) =>
        if c.o.status = .sent then
          s.modBlock k fun b => { b with slots := b.slots.set slot { c.o with status := .waiting, l := some (.value 1) } }
        else s
      | _ => s)

/-- n bytes of memory copied, poison with them. -/
def State.copyMem (s : State) (a b n : Nat) : State :=
  let cells := (Memory.range s.mem a n).map fun c => (b + (c.1 - a), c.2)
  let bad := (s.poison.filter fun w => a / 8 ≤ w && w < (a + n) / 8).map fun w => b / 8 + (w - a / 8)
  let s := { s.dirtyRange b n with mem := Memory.clear s.mem b n, poison := s.poison.filter fun w => !(b / 8 ≤ w && w < (b + n) / 8) }
  let s := s.performHome cells
  { s with poison := s.poison ++ bad }

/-! ### The heat snapshot (R328) -/

/-- An entry of a snapshot. -/
def heatEntry : Option Heat → List Byte
  | none => List.replicate 16 0
  | some h => toLe 8 (2 ^ 63 + h.frame % 2 ^ 34 * 2 ^ 21) ++ toLe 4 h.elems ++ toLe 4 h.stall

/-- The 1,024 entries written in index order, and the counts cleared, as one step. -/
def State.heatSnap (s : State) : State :=
  let d := (List.range 1024).flatMap fun i => heatEntry s.heat[i]?
  { s.unitWrite (s.chip * 2 ^ 42 + bits s.heatctl 41 12 * 4096) d with
    heat := s.heat.map fun (h : Heat) => { h with elems := 0, stall := 0 } }

/-- HEAT_SNAPSHOT (R328). -/
def execHeatSnapshot (s : State) : Out := .next (if s.dark then s else s.heatSnap)

/-! ### Registers of the Lodge -/

/-- A task that holds a grove (R403). -/
def State.anyHeld (s : State) : Bool := s.tasks.any fun x => x.status != .ended && x.groves.any (· < 256)

/-- LQCFG: ignored while HEAD and TAIL differ (R341). -/
def State.writeLqcfg (s : State) (q : Nat) (v : Word) : State :=
  let x := (s.queues.find q).getD {}
  if 64 ≤ q ∨ x.head ≠ x.tail then s else { s with queues := s.queues.put q { x with cfg := v &&& 0x007FFFFFFFFFFF1F } }

/-- HEATCTL: a write of SNAP takes the snapshot (R328). -/
def State.writeHeatctl (s : State) (v : Word) : State :=
  let s := { s with heatctl := v &&& 0x007FFFFFFFFFF001 }
  if bit v 1 then s.heatSnap else s

/-- ECCSTAT: each field is cleared by a write of zero to it (R426). -/
def State.writeEccstat (s : State) (t : Nat) (v : Word) : State :=
  s.modTerrace t fun te => { te with uncorr := if bits v 63 32 = 0 then 0 else te.uncorr, corr := if bits v 31 0 = 0 then 0 else te.corr }

/-- GO reads 1 (R329). -/
def MigSlot.busy (m : MigSlot) : Bool := match m.state with
  | .idle | .done | .refused => false
  | _ => true

/-- MIGDST: ignored while GO reads 1 (R329). -/
def State.writeMigdst (s : State) (i : Nat) (v : Word) : State :=
  let m := (s.migs.find i).getD {}
  if 8 ≤ i ∨ m.busy then s else { s with migs := s.migs.put i { m with dst := v &&& 0x007FFFFFFFE00000 } }

end Sys2Proof.Machine
end

