-- ==== Sys2Proof/Machine/Graph.lean ====
section
/-! DEFINITION. Resident graphs: the fabric page set (R352, R353), iterations (R14, R20, R136, R237) and the reconfiguration token
(R286). -/

namespace Sys2Proof.Machine

/-! ### The fabric page set (R352) -/

/-- A word of the set's image, on a page with EX. -/
def State.imageWord (s : State) (task : Nat) (va : Nat) : Option Word32 :=
  match s.flat tablePav task va .fetch with
  | .ok key =>
    if s.keyOk key && !s.poisoned (s.ownerKey key) 4 then some (BitVec.ofNat 32 (s.home (s.ownerKey key) 4)) else none
  | _ => none

/-- n words of the image, from GIMAGE on as it stands: a GIMAGE that is not a multiple of 4 is not checked (log 88, DESIGN CHOICE: R132
names no effect). -/
def State.imageWords (s : State) (task : Nat) : Nat → Nat → Option (List Word32)
  | 0, _ => some []
  | n + 1, va => match s.imageWord task va with
    | none => none
    | some w => (s.imageWords task n (va + 4)).map fun ws => w :: ws

/-- The resident blocks of an image in order; the zero words between blocks are padding (R70). DESIGN CHOICE (log 64): a nonzero word
between blocks whose RES bit is 0 is skipped like padding, and a last block that GLEN cuts short is dropped. Each block is checked as
it is loaded, against the task's declared registers (R131). -/
def parseBlocks (declared : Nat) (regs : Vector Word 128) : Nat → Word → List Word32 → List ResBlock
  | 0, _, _ => []
  | n + 1, a, ws => match ws with
    | [] => []
    | h :: rest =>
      if !hRes h then parseBlocks declared regs n (a + 4) rest
      else match rest with
        | [] => []
        | ext :: body =>
          let m := hCnt h + 1
          if body.length < m then []
          else { addr := a, hdr := h, ext := ext, words := body.take m, lpav := 0, regs := regs,
                 bad := loadCheck declared h ext (body.take m) } ::
            parseBlocks declared regs n (a + BitVec.ofNat 64 (4 * (m + 2))) (body.drop m)

/-- The logical pavilions of a task that are usable, in order. -/
def State.logPavs (s : State) (t : Task) : List Nat :=
  (List.range (16 * t.groves.length)).filter fun n => (s.physPav t n).isSome

/-- The logical pavilion of each of n pages: page k takes logical pavilion k (R352). DESIGN CHOICE (log 97): where that one is harvested,
the page takes the lowest usable one that is no page's own number; none when the usable ones do not suffice. -/
def pagePavs (usable : List Nat) (n : Nat) : Option (List Nat) :=
  if usable.length < n then none
  else some (((List.range n).foldl (fun (x : List Nat × List Nat) k =>
    if usable.contains k then (x.1 ++ [k], x.2) else (x.1 ++ x.2.take 1, x.2.drop 1)) ([], usable.filter (n ≤ ·))).1)

/-- The blocks put on their pages, 24 to a page. -/
def onPages (pages : List Nat) (bs : List ResBlock) : List ResBlock :=
  ((List.range bs.length).zip bs).map fun x => { x.2 with lpav := (pages[x.1 / 24]?).getD 0 }

/-- The resident blocks of the task's set; none when its image does not lie on pages with EX. -/
def State.imageOf (s : State) (task : Nat) (regs : Vector Word 128) : Option (List ResBlock) :=
  let d := (s.task task).desc
  (s.imageWords task (d.glen / 4) d.gimage.toNat).map fun ws => parseBlocks d.regs regs ws.length d.gimage ws

/-- The set loaded for a task: its blocks and the logical pavilion of each page; none when it does not fit or its image does not
lie on pages with EX. -/
def State.graphOf (s : State) (task : Nat) (regs : Vector Word 128) : Option (List ResBlock × List Nat) :=
  match s.imageOf task regs with
  | none => none
  | some bs =>
    (pagePavs (s.logPavs (s.task task)) (ceilDiv bs.length 24)).map fun ps => (onPages ps bs, ps)

/-! ### Boxes at edge ports (R352) -/

/-- The box at which a port's stream of a direction stands. -/
def State.portBox (s : State) (task : Nat) (out : Bool) (x : TokIn) : Option (Nat × PortStream) :=
  match x.port with
  | none => none
  | some n => match (s.task task).ports.find n with
    | some p => if p.out == out then some (n, p) else none
    | none => none

/-- The boxes of the in ports by which an iteration's tokens come in, moved as SLOAD moves them; no register takes their completion
(log 9). -/
def State.portsIn (s : State) (k : Nat) (toks : List TokIn) : State :=
  toks.foldl (fun s x => match s.strand k with
    | none => s
    | some t => match s.portBox t.task false x with
      | none => s
      | some (n, p) =>
        let d : Deferred := { kind := .sload, l := p.stream, r := p.pos, block := t.ip }
        (s.launchEngine t (engineOf k t d .sload (bits p.stream 4 2) false 0 false)).movePort t.task n) s

/-- The boxes of the out ports by which an iteration's output leaves: entries of its deferred list, launched as SSTORE at its publish
(log 9). -/
def State.portsOut (s : State) (t : Strand) (block : Word) : List Deferred :=
  t.seeds.filterMap fun x => (s.portBox t.task true x).map fun p =>
    { kind := .sstore, l := p.2.stream &&& ~~~0x1000#64, x := p.1 + 1, block := block }

/-! ### Iterations -/

/-- An iteration of a task that has not ended. -/
def State.iterating (s : State) (task : Nat) : Bool :=
  s.strands.any fun t => t.task == task && t.kind != .ordinary && t.state != .ended

/-- The iteration of a block for a tag. -/
def State.iteration (s : State) (task blk : Nat) (tag : Word) : Option Nat :=
  s.strands.findIdx? fun t => t.task == task && t.kind == .iteration blk && t.tag == tag && t.state != .ended

/-- The block fires for the iteration's tag: its region opens, and its tokens arrive; a block that failed its check when its page was
loaded fires nothing (R131), and each of its iterations takes the check's fault at its start (log 87, DESIGN CHOICE: R131 names no strand
for it). -/
def State.loadIteration (s : State) (k : Nat) (b : ResBlock) : State :=
  match s.strand k with
  | none => s
  | some t =>
    match b.bad with
    | some (n, j) => s.takeFault k ⟨lcFault n, b.addr, j⟩
    | none =>
      let run : BlockRun := { addr := b.addr, hdr := b.hdr, ext := b.ext, words := b.words, slots := List.replicate b.words.length {} }
      t.seeds.foldl (fun s x => s.deliver k x.target (some (.value x.value))) (s.startRegion k run)

/-- The descriptors with which an iteration starts: those of the task's first strand that is resident in its pavilion (log 9). -/
def State.pavDescs (s : State) (task pav : Nat) : Tab Nat × Tab (Word × Word) :=
  match s.strands.find? fun t => t.resident && t.task == task && t.pav == pav with
  | some t => (t.bufs, t.gens)
  | none => ([], [])

/-- A new iteration: its descriptors are attached, and it has a handle of its own. -/
def State.newIteration (s : State) (task blk : Nat) (tag : Word) (toks : List TokIn) (b : ResBlock) (pav : Nat) : State :=
  let g := (s.placeGen.find (pav * 16)).getD 0 + 1
  let d := s.pavDescs task pav
  let t : Strand :=
    { task := task, pav := pav, gen := g, kind := .iteration blk, seeds := toks, ip := b.addr, tag := tag, regs := b.regs,
      bufs := d.1, gens := d.2, region := { ip := b.addr, tag := tag } }
  { s with
    strands := s.strands ++ [t]
    placeGen := s.placeGen.put (pav * 16) g
    buffers := d.1.foldl (fun bs (x : Nat × Nat) => match bs.find x.2 with
      | some r => bs.put x.2 { r with att := r.att + 1 }
      | none => bs) s.buffers }

/-- Iterations of the task fire: it runs, or its graph drains (R359). -/
def State.iterates (s : State) (task : Nat) : Bool := match (s.task task).status with
  | .running => true
  | .stopping _ rewind => !rewind
  | _ => false

/-- The tag is in flight in the task's graph: an iteration or an occupied slot carries it, so that another block's start for it is no
source's. -/
def State.inGraph (s : State) (task : Nat) (tag : Word) : Bool :=
  (s.graphTags task).contains tag

/-- The sources of a task's graph issue no new iteration: they are gated, or a token is pending (R286, R359). -/
def State.sourcesShut (s : State) (task : Nat) : Bool :=
  (s.task task).status != .running || (s.task task).gated || (s.task task).token

/-- A start waits: the task's graph does not fire, or it is a source's next iteration and its sources are gated, a token is pending, or
its tag exceeds TAGWIN (R14, R286, R359). -/
def State.sourceGated (s : State) (task : Nat) (tag : Word) : Bool :=
  !s.iterates task || (!s.inGraph task tag &&
    (s.sourcesShut task || (tagDepth tag != 0 && !s.tagFits task (tagDepth tag) tag none)))

/-- A source's next iteration that exceeds TAGWIN has the source wait for the oldest of its tags (R14). -/
def State.sourceHold (s : State) (task : Nat) (tag : Word) : State :=
  if s.iterates task && !s.inGraph task tag && !s.sourcesShut task && tagDepth tag != 0 then s.tagHold task (tagDepth tag) tag none else s

/-- RESIDENT_ITERATION_START (R14, R20, R130, R237): an iteration whose region was discarded fires again; otherwise a new one
starts, or waits at its source. -/
def execResidentIterationStart (task blk : Nat) (tag : Word) (toks : List TokIn) (s : State) : Out :=
  .next (match (s.task task).blocks[blk]? with
    | none => s
    | some b => match s.iteration task blk tag with
      | some k => match s.strand k with
        | none => s
        | some t => if t.state == .ready && t.phase == .fetch && t.block.isNone && s.iterates task then s.loadIteration k b else s
      | none =>
        if !tagOk tag || (s.task task).status.gone then s
        else match s.physPav (s.task task) b.lpav with
          | none => s.hold (.residentIterationStart task blk tag toks)
          | some pav =>
            if s.sourceGated task tag then (s.sourceHold task tag).hold (.residentIterationStart task blk tag toks)
            else (((s.tagPass task (tagDepth tag) tag none).newIteration task blk tag toks b pav).portsIn s.strands.length toks).loadIteration s.strands.length b)

/-- Tokens stand at an instruction that cannot fire any more (R136, R237). DESIGN CHOICE (log 67): also when the operand it lacks was
suppressed or steered away, the iteration stalls. -/
def BlockRun.stuck (b : BlockRun) : Bool :=
  b.slots.any fun o => match o.status with
    | .waiting => true
    | .idle => o.diverted || o.l.isSome || o.r.isSome || o.p.isSome
    | _ => false

/-- RESIDENT_ITERATION_END (R136, R237): every instruction that the tag's tokens reached has fired or been suppressed, and the
region publishes at the scope of its RGN; an iteration that stalls raises F_ILLEGAL, BLOCK_STALL. -/
def execResidentIterationEnd (k : Nat) (s : State) : Out :=
  .next (match s.strand k with
    | none => s
    | some t => match t.block with
      | none => s
      | some b =>
        if t.kind == .ordinary || t.phase != .run || !b.still then s
        else if b.stuck then s.takeFault k ⟨{ code := .illegal, sub := 3 }, b.addr, 63⟩
        else
          let lines := commitLines b t.fp t.region.store
          if 64 < lines.length then s.takeFault k ⟨{ code := .regionOverflow }, b.addr, 63⟩
          else
            let scope := match rgnOf b.words with
              | some (sc, _) => sc
              | none => 4
            let region := { t.region with first := false, store := lines, deferred := t.region.deferred ++ s.portsOut t b.addr }
            { s.setStrand k { t with block := none, exiting := true, phase := .close scope, state := .ready, region := region } with
              queries := s.queries.filter fun (q : Nat × Query) => q.2.strand != k || q.2.consume })

/-! ### The reconfiguration token (R286) -/

/-- The operations that a graph's iterations launched and the token waits for. -/
def EngKind.ofGraph (k : EngKind) : Bool := match k with
  | .sload | .sstore | .wsld | .cpy | .cpyt => true
  | _ => false

/-- The graph is quiescent: no iteration in flight, its operations completed, its drains placed, its lines at their homes. -/
def State.graphQuiet (s : State) (task : Nat) : Bool :=
  let mine (k : Nat) : Bool := match s.strand k with
    | some t => t.kind != .ordinary && t.task == task
    | none => false
  !s.iterating task && !(s.engines.any fun (x : Nat × Engine) => x.2.task == task && x.2.graph && x.2.kind.ofGraph)
    && !(s.stagings.any fun d => d.task == task && mine d.strand) && !(s.lines.any fun l => l.task == task && mine l.strand)

/-- The registers of a task's descriptor as the resident blocks of a reload see them. -/
def State.blockRegs (s : State) (task : Nat) : Vector Word 128 := match (s.task task).blocks with
  | b :: _ => b.regs
  | [] => Vector.replicate 128 0

/-- Pages of a graph are released: other graphs may be compacted (R353). -/
def State.pagesFreed (s : State) (task : Nat) : State :=
  if (s.task task).pages.isEmpty then s
  else { s with tasks := (List.range s.tasks.length).zip s.tasks |>.map fun x => (if x.1 ≠ task then { x.2 with compact := true } else x.2) }

/-- RECONFIG_TOKEN_PASS (R286): until its conditions hold the token is pending; then it passes, and the set is released, or loaded again
from its image. Which of the two was asked for stands in no field of the spec: a free choice (log 80); an image that cannot be loaded
leaves the set released. -/
def execReconfigTokenPass (task : Nat) (s : State) : Out :=
  .next (
    if !(s.task task).graph || (s.task task).status.gone then s
    else if !s.graphQuiet task then s.modTask task fun t => { t with token := true }
    else
      let g := if (Config.freeChoice s.ticks) % 2 = 0 then (s.graphOf task (s.blockRegs task)).getD ([], []) else ([], [])
      ((s.tick.pagesFreed task).modTask task fun t => { t with token := false, blocks := g.1, pages := g.2, finished := [] }).pageWindows task)

end Sys2Proof.Machine
end

