-- ==== Sys2Proof/Machine/Scheduler.lean ====
section
/-! DEFINITION. Launch queues and their service (R341 to R343), the task descriptor and its checks (R344 to R346), launch (R347 to
R352), and the end of a task (R182, R342). -/

namespace Sys2Proof.Machine

/-! ### Launch queues (R341, R342) -/

def State.queue (s : State) (q : Nat) : LaunchQueue := (s.queues.find q).getD {}

def State.setQueue (s : State) (q : Nat) (x : LaunchQueue) : State := { s with queues := s.queues.put q x }

def LaunchQueue.size (x : LaunchQueue) : Nat := 2 ^ (bits x.cfg 3 0 + 4)
def LaunchQueue.prio (x : LaunchQueue) : Nat := bits x.cfg 10 8

/-- Address of the entry at the head. -/
def LaunchQueue.entry (x : LaunchQueue) : Nat := bits x.cfg 54 12 * 4096 + 32 * (x.head.toNat % x.size)

/-- LQ_DOORBELL (R341): a TAIL that would exceed the queue's size is ignored. -/
def execLqDoorbell (q : Nat) (tail : BitVec 32) (s : State) : Out :=
  .next (
    let x := s.queue q
    if 64 ≤ q || x.size < (tail - x.head).toNat || s.dark then s else s.setQueue q { x with tail := tail })

/-- A physical write of the scheduler; at an address that is reserved nothing is written (R306). -/
def State.physWrite (s : State) (a : Nat) (d : List Byte) : State := if s.keyOk a then s.unitWrite a d else s

/-- DONE of the entry at the head of a queue (R342). -/
def State.writeDone (s : State) (q status reason last snaps : Nat) : State :=
  s.physWrite ((s.queue q).entry + 16) (toLe 8 (status * 2 ^ 60 + reason * 2 ^ 56 + last % 4096 * 2 ^ 32 + snaps % 2 ^ 32))

/-- The entry at the head ends: DONE, then HEAD (R342). -/
def State.endEntry (s : State) (q status reason : Nat) : State :=
  let v := ((s.queue q).serv).getD {}
  let s := s.writeDone q status reason v.last v.snaps
  s.setQueue q { s.queue q with head := (s.queue q).head + 1, serv := none }

/-! ### The descriptor (R344 to R346) -/

/-- The fields of a descriptor's 192 bytes. -/
def descOf (d : List Byte) : Desc :=
  let n (i k : Nat) := leNat ((d.drop i).take k)
  let w (i : Nat) : Word := BitVec.ofNat 64 (n i 8)
  { entry := w 0, root := n 8 8, tdir := n 16 8, frbase := w 24, save := n 32 8, param := n 40 8, snap := w 48, initRegs := n 56 8,
    mdt := w 64, route := w 72, itb := w 80, frame := n 88 4, pools := n 92 4, paramLen := n 96 4, seed := n 100 4,
    estimate := n 104 5, regs := n 109 1, buffers := n 110 1, rclim := n 111 1, tagwin := n 112 2, groves := n 114 2,
    barriers := n 116 2, scratch := n 118 2, policy := n 120 1, flags := n 121 1, gset := n 122 1, depth := n 123 1,
    stageMax := n 124 2, gimage := w 128, glen := n 136 4, saveMb := n 140 4, ports := n 144 8 }

/-- A physical address of a descriptor lies outside its range or alignment. -/
def physBad (a align : Nat) : Bool := 2 ^ 55 ≤ a || a % align != 0

/-- A flat address of a descriptor lies outside its range or alignment. -/
def flatBad (a : Word) (align : Nat) : Bool := !isFlat a || a.toNat % align != 0

/-- BADDESC: a field outside its range or alignment, or a reserved byte or bit that is nonzero (R344 to R346). -/
def Desc.bad (d : Desc) (raw : List Byte) : Bool :=
  flatBad d.entry 1 || physBad d.root (2 ^ 21) || physBad d.tdir 4096 || flatBad d.frbase 64 || physBad d.save 4096
    || physBad d.param 8 || flatBad d.snap 8 || physBad d.initRegs 8 || d.frame % 8 != 0 || 65536 < d.pools
    || (d.frame == 0) != (d.pools == 0) || d.paramLen % 8 != 0 || 65536 < d.paramLen || 128 < d.regs || 32 < d.buffers
    || d.rclim == 0 || d.tagwin == 0 || 2048 < d.tagwin || d.groves == 0 || 256 < d.groves || 256 < d.barriers
    || 1024 < d.scratch || 16 ≤ d.policy || 4 ≤ d.flags || (d.flags / 2 == 1 && (d.depth == 0 || d.stageMax == 0))
    || flatBad d.gimage 1 || physBad d.ports 1 || leNat ((raw.drop 126).take 2) != 0 || leNat ((raw.drop 152).take 40) != 0

/-- SMALLSAVE (R346). -/
def Desc.smallSave (d : Desc) : Bool := d.saveMb < 1 + ceilDiv (d.groves * 21823488) (2 ^ 20)

/-- The port table at an address cannot be read to its end: entries of 32 bytes up to one that is neither a port's nor a tensor's (R82,
log 16). -/
def State.portsBad (s : State) : Nat → Nat → Bool
  | 0, _ => false
  | n + 1, a => !s.readable a 32 || ((s.home a 1 == 1 || s.home a 1 == 2) && s.portsBad n (a + 32))

/-- INITREGS, PARAM or PORTS cannot be read (R346). -/
def State.inputsBad (s : State) (d : Desc) : Bool :=
  (d.initRegs != 0 && d.regs != 0 && !s.readable d.initRegs (8 * d.regs))
    || (d.param != 0 && d.paramLen != 0 && !s.readable d.param d.paramLen)
    || (d.flags / 2 == 1 && s.portsBad 65536 d.ports)

/-! ### Groves (R349) -/

/-- A grove with a usable pavilion, of an admitted Terrace (R411, R412). -/
def State.groveUsable (s : State) (g : Nat) : Bool :=
  (s.terrace (g / 32)).state == 2 && (s.terrace (g / 32)).groveOk.getLsbD (g % 32)

def State.usableGroves (s : State) : List Nat := (List.range 256).filter s.groveUsable

/-- The groves that no task holds, lowest first. -/
def State.freeGroves (s : State) : List Nat := s.usableGroves.filter fun g => !s.tasks.any fun t => t.groves.contains g

/-- The module serves launch queues from the first admission on (R411). -/
def State.serving (s : State) : Bool := (s.boot.stage == .stage2 && s.boot.served) || s.boot.stage == .run

/-! ### The head of a queue -/

/-- The head of a queue: nothing to serve, a refusal with its REASON, a wait, or a launch on groves. -/
inductive Head where
  | none
  | refuse (reason : Nat)
  | wait
  | go (d : Desc) (groves : List Nat)
deriving DecidableEq, Repr

/-- The task that a launch would create. DESIGN CHOICE (log 101): reserved bits of the descriptor's MDT, ROUTE and ITB are taken as 0, as
R6 has a write of the register do, and refuse no launch; a COUNT above 256 leaves the register 0 (log 52). -/
def newTask (s : State) (q : Nat) (d : Desc) (groves : List Nat) : Task :=
  let x := s.queue q
  let priv := bit x.cfg 11
  { number := s.nextTask, queue := q, prio := x.prio, privileged := priv && d.policy % 2 == 1,
    faulth := priv && d.policy / 2 % 2 == 1, desc := d, groves := groves, tagwin := d.tagwin, rclim := d.rclim, seed := d.seed,
    mdt := if 256 < bits d.mdt 8 0 then 0 else masked d.mdt 0x01FFFFFFFFFFF1FF,
    route := masked d.route 0x01FFFFFFFFFFF800,
    itb := if 256 < bits d.itb 8 0 then 0 else masked d.itb 0x01FFFFFFFFFFE1FF, launched := s.nextTask }

/-- The state with the task of a launch. -/
def State.withTask (s : State) (q : Nat) (d : Desc) (groves : List Nat) : State :=
  { s with tasks := s.tasks ++ [newTask s q d groves], nextTask := s.nextTask + 1 }

/-- The parts of the snapshot, page by page. -/
def Desc.snapParts (d : Desc) : List (Word × Nat) := if d.param = 0 ∨ d.paramLen = 0 then [] else pageParts d.snap d.paramLen

/-- BADMAP of the snapshot write and of the domain table, in the new task's space (R346). -/
def State.spaceBad (s : State) (task : Nat) : Bool :=
  let t := s.task task
  (t.desc.snapParts.any fun p => match s.flat tablePav task p.1.toNat .store with
    | .ok key => !s.keyOk key
    | _ => true)
  || (List.range (bits t.mdt 8 0)).any fun d => (s.tableBad task d).isSome

/-- The initial register values (R344). -/
def State.initRegs (s : State) (d : Desc) : Vector Word 128 :=
  if d.initRegs = 0 then Vector.replicate 128 0
  else Vector.ofFn fun (i : Fin 128) => if i.val < d.regs then BitVec.ofNat 64 (s.phys (d.initRegs + 8 * i.val) 8) else 0

/-- The most usable pavilions that n groves of the device have. -/
def State.bestGroves (s : State) (n : Nat) : Nat :=
  (firstK (fun (a b : Nat) => b < a) n (s.usableGroves.map fun g => ((List.range 16).filter fun i => s.usable (16 * g + i)).length)).sum

/-- NOGRAPH that can be told before the groves are there (R346, R352): the image does not lie on pages with EX, or no n groves of the
device would hold its pages. -/
def State.noGraph (s s' : State) (task : Nat) (d : Desc) : Bool :=
  match s'.imageOf task (Vector.replicate 128 0) with
  | none => true
  | some bs => s.bestGroves d.groves < ceilDiv bs.length 24

/-- The checks that a descriptor's address space takes part in, and whether the groves are there. -/
def State.headSpace (s : State) (q : Nat) (d : Desc) : Head :=
  let gs := s.freeGroves.take d.groves
  let s' := s.withTask q d gs
  let task := s.tasks.length
  let gv := d.flags / 2 == 1
  if s.inputsBad d || s'.spaceBad task then .refuse 4
  else if gv && s.noGraph s' task d then .refuse 5
  else if gs.length < d.groves then .wait
  else if gv && (s'.graphOf task (Vector.replicate 128 0)).isNone then .refuse 5
  else .go d gs

/-- The head of a queue (R343, R346, R411). -/
def State.head (s : State) (q : Nat) : Head :=
  let x := s.queue q
  let inService : Bool := match x.serv with
    | some v => v.task.isSome
    | none => false
  if !bit x.cfg 4 || x.head == x.tail || !s.serving || inService then .none
  else
    let a := x.entry
    let desc := s.phys a 8
    if s.areaHeld a 32 || (desc < 2 ^ 55 && s.areaHeld desc 192) then .none
    else if !s.readable a 32 then .refuse 4
    else if desc % 8 != 0 || s.phys (a + 12) 4 != 0 || s.phys (a + 24) 8 != 0 then .refuse 1
    else if 2 ^ 55 ≤ desc || !s.readable desc 192 then .refuse 4
    else
      let raw := s.physN desc 192
      let d := descOf raw
      if d.bad raw then .refuse 1
      else if s.usableGroves.length < d.groves then (if s.boot.stage == .run then .refuse 2 else .wait)
      else if d.smallSave then .refuse 3
      else s.headSpace q d

/-! ### The order of service (R343) -/

/-- The highest priority of the saved tasks. -/
def State.savedPrio (s : State) : Option Nat :=
  (s.tasks.filterMap fun t => match t.status with
    | .saved _ => some t.prio
    | _ => none).max?

/-- The queues that have something to serve, with their heads. -/
def State.heads (s : State) : List (Nat × Head) :=
  (s.queues.filterMap fun (x : Nat × LaunchQueue) => match s.head x.1 with
    | .none => none
    | h => some (x.1, h))

/-- A head whose check has failed: it is refused as soon as it is the head, since R343 orders launches alone (R346). -/
def Head.refused : Head → Bool
  | .refuse _ => true
  | _ => false

/-- The queue whose head is served next: one that is refused, else the highest priority, in rotation among equals, behind resumptions of
that priority. Where none of a priority has been served yet the rotation begins at the lowest queue, as if queue 63 had been served last
(log 92, DESIGN CHOICE). -/
def State.turn (s : State) : Option (Nat × Head) :=
  let hs := s.heads
  (hs.find? fun x => x.2.refused).or <| match (hs.map fun x => (s.queue x.1).prio).max? with
  | none => none
  | some p =>
    let saved : Bool := match s.savedPrio with
      | some r => p ≤ r
      | none => false
    if saved then none
    else
      let mine := hs.filter fun x => (s.queue x.1).prio == p && x.2 != .wait
      let last := (s.lastServed.find p).getD 63
      (mine.find? fun x => last < x.1).or mine.head?

/-! ### Launch (R347) -/

/-- The parameter snapshot: PARAMLEN bytes from PARAM to SNAP (R347, R348). -/
def State.copyParams (s : State) (task : Nat) (d : Desc) : State :=
  (d.snapParts.foldl (fun (st : State × Nat) p => match st.1.flat tablePav task p.1.toNat .store with
    | .ok key => (st.1.unitWrite key (st.1.physN st.2 p.2), st.2 + p.2)
    | _ => (st.1, st.2 + p.2)) (s, d.param)).1

/-- What groves that are allocated start without: window copies, deques, and the saturation counters (R133, R272, R347). DESIGN CHOICE
(log 66): the launch of a task drops the window copies of the pavilions that it takes. -/
def State.clearGroves (s : State) (groves : List Nat) : State :=
  let mine (pav : Nat) : Bool := groves.contains (groveOf pav)
  { s with
    windows := s.windows.filter fun w => !mine w.pav
    deques := s.deques.filter fun (d : Nat × Deque) => !mine (d.1 / 16)
    passed := s.passed.filter fun p => !mine p.2
    perf := s.perf.filter fun (c : Nat × Word) => !(mine (c.1 / 64) && 16 ≤ c.1 % 64 && c.1 % 64 < 32) }

/-- The first strand (R347): resident in the lowest usable logical pavilion of logical grove 0. A misaligned ENTRY raises F_ALIGN at
its start (R132); a lost word of the route table that its pavilion read raises F_UNCORR there (R425, log 84). -/
def State.firstStrand (s : State) (task : Nat) (regs : Vector Word 128) : State :=
  let t := s.task task
  let pav := s.homePav task
  let lost := (s.routeTable engineParty pav task).2
  let g := (s.placeGen.find (pav * 16)).getD 0 + 1
  let k : Strand :=
    { newStrand task pav t.desc.entry 0 0 .grove with
      state := .ready, gen := g, regs := regs
      pendFault := if lost then some ⟨{ code := .uncorr }, 0, 0⟩ else none, pendHere := lost }
  { (s.tryCreate k).getD s with placeGen := s.placeGen.put (pav * 16) g }

/-- The launch itself, with its checks passed. -/
def State.launch (s : State) (q : Nat) (d : Desc) (groves : List Nat) : State :=
  let x := s.queue q
  let v : Service := (x.serv).getD { entry := x.head.toNat, left := s.phys (x.entry + 8) 4 + 1 }
  let task := s.tasks.length
  let number := s.nextTask
  let s := if x.serv.isNone then s.writeDone q 0 0 0 0 else s
  let regs := s.initRegs d
  let s := (s.withTask q d groves).copyParams task d
  let v := { v with task := some task, snaps := v.snaps + 1, last := number }
  let s := (s.setQueue q { s.queue q with serv := some v }).writeDone q 0 0 v.last v.snaps
  let s := s.clearGroves groves
  let s := (s.readRoutes engineParty (s.homePav task) task).readTable task
  let s := if d.flags / 2 == 1 then
      let g := (s.graphOf task regs).getD ([], [])
      s.modTask task fun t => { t with blocks := g.1, pages := g.2,
                                       ports := s.graphPorts d.ports }
    else s
  { s.firstStrand task regs with lastServed := s.lastServed.put x.prio q }

/-- TASK_LAUNCH (R342, R343, R345 to R352, R411). -/
def execTaskLaunch (q : Nat) (s : State) : Out :=
  .next (match s.turn with
    | none => s
    | some (q', h) =>
      if q' ≠ q then s
      else match h with
        | .refuse r => s.endEntry q 2 r
        | .go d gs => s.launch q d gs
        | _ => s)

/-! ### The end of a task (R182, R342, R370) -/

/-- An event in flight is about a task's own work. -/
def aboutTask (task : Nat) : Instr → Bool
  | .sendArriveHome m => m.task == task
  | .storeKputInsert m => m.task == task
  | .storeKdel m => m.task == task
  | .barrierArrival m => m.task == task && m.strand.isSome
  | _ => false

/-- A ring record or an answer in flight is about a strand of a task. -/
def State.aboutStrands (s : State) (task : Nat) (e : Instr) : Bool :=
  let mine (k : Nat) : Bool := match s.strand k with
    | some t => t.task == task
    | none => false
  aboutTask task e || match e with
    | .residentIterationStart t _ tag _ => t == task && !s.sourceGated task tag
    | .ringRecordArrive m => (m.strand.map mine).getD false
    | .msendReturnArrive k .. => mine k
    | _ => false

/-- Nothing of a task is on its way: no publish, no engine operation, no logged or travelling line, no drain, query or record (R342,
R360). -/
def State.taskQuiet (s : State) (task : Nat) : Bool :=
  !(s.strands.any fun t => t.task == task && (t.pub.isSome || !t.queue.isEmpty))
    && !(s.engines.any fun (x : Nat × Engine) => x.2.task == task) && !(s.sideLog.any fun e => e.task == task)
    && !(s.lines.any fun l => l.task == task) && !(s.stagings.any fun d => d.task == task)
    && !(s.queries.any fun (x : Nat × Query) => x.2.task == task)
    && !((s.agenda ++ s.waiting).any (s.aboutStrands task))

/-- The last launch has ended: no strand of it lives or waits, and its records are written (R342). -/
def State.taskDone (s : State) (task : Nat) : Bool :=
  !(s.strands.any fun t => t.task == task && t.state != .ended) && !(s.waitKids.any fun x => x.2.task == task)
    && s.taskQuiet task && !(s.terraces.any fun te => te.held.any fun h => h.entry.task == (s.task task).number)

/-- A grove of a task that ends stays held: only some of its pavilions have passed the grove exit (R182). -/
def State.groveStays (s : State) (task g : Nat) : Bool :=
  g < 256 && ((List.range 16).any fun i => s.passed.contains (task, 16 * g + i)) && !s.allPassed task g

/-- A Terrace keeps a GROVE_HELD record for want of ring room: no further one is granted there (R322). -/
def State.groveKept (s : State) (task terrace : Nat) : Bool :=
  !(s.task task).faulth && (s.terrace terrace).held.any fun h => h.strand.isNone && h.entry.kind == 7

/-- The GROVE_HELD record of each of some groves, in order, until one must wait (R182, R322). -/
def holdGroves (task : Nat) : List Nat → State → State
  | [], s => s
  | g :: rest, s =>
    if s.groveKept task (g / 32) then s
    else
      let t := s.task task
      holdGroves task rest ((s.record (g / 32) { kind := 7, addr := BitVec.ofNat 64 g, task := t.number } t.faulth).modTask task fun t =>
        { t with stayed := t.stayed ++ [g] })

/-- A task's groves at its end: one of which only some pavilions have passed the grove exit stays held, with a GROVE_HELD record; the
others are free (R182). Until every such record is granted the task keeps its groves (R322). -/
def State.endGroves (s : State) (task : Nat) : State :=
  let t := s.task task
  if !t.homes.isEmpty || t.groves.isEmpty then s
  else
    let stay := t.groves.filter (s.groveStays task)
    let s := holdGroves task (stay.filter fun g => !t.stayed.contains g) s
    if (s.task task).stayed.length < stay.length then s
    else { s.modTask task (fun x => { x with groves := stay, homes := t.groves }) with passed := s.passed.filter fun p => p.1 != task }

/-- Everything of a task that does not outlive it; a MATCHC that has been performed is still decided at its stores, and
a write-back to the domain table that is held is still performed (R370). -/
def State.dropTask (s : State) (task : Nat) : State :=
  let pavOf (p : Nat) : Bool := (s.task task).groves.contains (groveOf p)
  let rings := s.rings.filter fun r => r.owner == task
  let s := rings.foldl (fun s r => r.held.foldl (fun s m => s.ringAnswer m 8 0) s) s
  let mine (k : Nat) : Bool := match s.strand k with
    | some t => t.task == task
    | none => false
  let s := (List.range s.strands.length).foldl (fun s k => if mine k then s.releaseResv k else s) s
  let s := { s with heldSends := s.heldSends.filter fun m => match s.frameHome m with
      | some (j, _, _) => j != task
      | none => true }
  { s with
    strands := s.strands.map fun (t : Strand) => (if t.task == task then
        { t with state := .ended, block := none, pub := none, queue := [], park := none, bufs := [], frames := [],
                 region := { t.region with store := [], pins := [], deferred := [], claims := [], accs := [], waits := [] } }
      else t)
    waitKids := s.waitKids.filter fun x => x.2.task != task
    engines := s.engines.filter fun (x : Nat × Engine) => x.2.task != task || (x.2.kind == .table && x.2.done == 0)
    sideLog := s.sideLog.filter fun e => e.task != task
    stagings := s.stagings.filter fun d => d.task != task
    queries := s.queries.filter fun (x : Nat × Query) => x.2.task != task || x.2.performed
    rings := s.rings.filter fun r => r.owner != task
    buffers := s.buffers.filter fun (b : Nat × BufRec) => !pavOf b.2.pav
    deques := s.deques.filter fun (d : Nat × Deque) => !pavOf (d.1 / 16)
    barriers := s.barriers.filter fun b => b.scope == 4 || b.task != task
    tlb := s.tlb.filter fun e => e.task != task
    tiles := s.tiles.filter fun e => e.task != task
    windows := s.windows.filter fun w => w.task != task
    terraces := s.terraces.map fun (te : Terrace) => { te with held := te.held.map fun (h : HeldRec) =>
      (if (h.strand.any fun x => mine x.1) then { h with strand := none } else h) } }

/-- The task's queue entry goes on or ends (R342, R347). -/
def State.endService (s : State) (task : Nat) (aborted : Bool) : State :=
  let q := (s.task task).queue
  match (s.queue q).serv with
  | none => s
  | some v =>
    if v.task ≠ some task then s
    else if aborted then s.endEntry q 3 0
    else if v.left ≤ 1 then s.endEntry q 1 0
    else s.setQueue q { s.queue q with serv := some { v with task := none, left := v.left - 1 } }

/-- The end of a task completes (R182, R342, R370): its groves are free or held, its stores go out of service once every query granted to
them is decided, and DONE is written once every record and write-back that the end caused has been performed. -/
def State.finishTask (s : State) (task : Nat) (aborted : Bool) : State :=
  let s := s.endGroves task
  if s.queriesOut task || ((s.task task).homes.isEmpty && !(s.task task).groves.isEmpty) then s
  else
    let s := s.retireStores task
    if (s.engines.any fun (x : Nat × Engine) => x.2.task == task)
        || s.terraces.any fun te => te.held.any fun h => h.entry.task == (s.task task).number then s
    else (s.modTask task fun t => { t with status := .ended, homes := [] }).endService task aborted

/-- A task ends (R10, R182, R342, R370, R399). -/
def State.endTask (s : State) (task : Nat) (aborted : Bool) : State :=
  (((s.dropTask task).pagesFreed task).modTask task fun t =>
    { t with status := .ending aborted, homes := [], blocks := [], pages := [], ports := [] }).finishTask task aborted

/-- TASK_END (R342, R370): the last strand has ended and nothing of the task is on its way; or a fault handler ends the task; or an end
that has begun completes. -/
def execTaskEnd (task : Nat) (aborted : Bool) (s : State) : Out :=
  .next (
    if s.tasks.length ≤ task then s
    else match (s.task task).status with
      | .ended => s
      | .ending a => s.finishTask task a
      | .running => if aborted || s.taskDone task then s.endTask task aborted else s
      | _ => if aborted then s.endTask task true else s)

end Sys2Proof.Machine
end

