-- ==== Sys2Proof/Machine/Preempt.lean ====
section
/-! DEFINITION. Pre-emption: the victims and the choice (R356 to R359), the save area (R360 to R364) and resumption (R365). -/

namespace Sys2Proof.Machine

/-! ### The victims (R356) -/

/-- The groves a head waits for beyond those that are free or are about to be. -/
def State.lacking (s : State) (q : Nat) : Nat :=
  match s.head q with
  | .wait =>
    let d := descOf (s.physN (s.phys (s.queue q).entry 8) 192)
    let soon := (s.tasks.map fun t => match t.status with
      | .stopping .. => (t.groves.filter (· < 256)).length
      | _ => 0).sum
    if s.usableGroves.length < d.groves then 0 else d.groves - (s.freeGroves.length + soon)
  | _ => 0

/-- Lowest priority first, and the most recently launched first within a priority. -/
def victimBefore (a b : Nat × Task) : Bool := a.2.prio < b.2.prio || (a.2.prio == b.2.prio && b.2.launched < a.2.launched)

/-- The tasks that may be pre-empted for a priority, in order. -/
def State.victims (s : State) (p : Nat) : List (Nat × Task) :=
  firstK victimBefore s.tasks.length (((List.range s.tasks.length).zip s.tasks).filter fun x =>
    x.2.status == .running && x.2.prio < p && x.2.desc.policy / 4 % 2 == 0)

/-- The first of a list whose groves suffice; none when all of them do not. -/
def enough : Nat → List (Nat × Task) → Option (List (Nat × Task))
  | 0, _ => some []
  | _ + 1, [] => none
  | n + 1, x :: rest => (enough (n + 1 - (x.2.groves.filter (· < 256)).length) rest).map fun l => x :: l

/-! ### The choice (R357, R358) -/

/-- 256·2^c of a strand's current region (R31). -/
def Strand.bound (t : Strand) : Nat := 256 * 2 ^ t.region.cls

/-- The ordinary resident strands of a task. -/
def State.residents (s : State) (task : Nat) : List Strand := s.strands.filter fun t => t.task == task && t.resident

/-- W and G. -/
def waitBound (p : Nat) : Nat := 2 ^ (26 - 2 * p)
def Task.graphBound (t : Task) : Nat := t.tagwin * t.desc.depth * t.desc.stageMax

/-- E is known and lies within W (R357); the cycles that the task has run are a free value, `draw` (log 6). -/
def Task.nearEnd (t : Task) (w draw : Nat) : Bool :=
  let run := (Config.freeCycles draw).toNat
  t.desc.estimate != 0 && run < t.desc.estimate && t.desc.estimate - run ≤ w

/-- The choice for a victim (R358), whose cycles are the free value `draw`; none for row 1. -/
def State.choice (s : State) (i : Nat) (t : Task) (p draw : Nat) : Option PreChoice :=
  let w := waitBound p
  let gv := t.graph
  let rs := s.residents i
  if t.nearEnd w draw then none
  else if t.desc.policy / 8 % 2 == 1 || ((rs.all fun k => k.bound ≤ w) && (!gv || t.graphBound ≤ w)) then some .drain
  else if (rs.any fun k => k.bound ≤ w || k.region.drainPref) || (gv && t.graphBound ≤ w) then some .checkpoint
  else some .discard

/-! ### What it does to strands (R359) -/

/-- A region that pre-emption can discard: it has begun, publish step 1 has not, one that waits for its publish queue included, and its
boundary instruction has not been performed (R34, R40, R324). -/
def Strand.discardable (t : Strand) : Bool := t.canDiscard && !(t.phase == .fetch && t.region.first && t.block.isNone)

/-- The strand drains under a choice. -/
def drains (c : PreChoice) (w : Nat) (t : Strand) : Bool := match c with
  | .drain => true
  | .discard => false
  | .checkpoint => t.bound ≤ w || t.region.drainPref

/-- An iteration of the graph is discarded under a choice. -/
def graphDiscards (c : PreChoice) (w : Nat) (t : Task) : Bool := match c with
  | .drain => false
  | .discard => true
  | .checkpoint => w < t.graphBound

/-- A victim pre-empted: its sources are gated, and strands that are not left to drain are discarded; a discard that finds a publish begun
is owed by the strand's next region, and leaves no DISCARD record (R46, R319). -/
def State.preempt (s : State) (i : Nat) (t : Task) (c : PreChoice) (p : Nat) : State :=
  let w := waitBound p
  let s := s.modTask i fun t => { t with status := .stopping c (graphDiscards c w t), gated := true }
  let goes (k : Strand) : Bool := k.task == i && if k.kind == .ordinary then k.resident && !drains c w k else graphDiscards c w t
  let s := (s.strandsThat fun k => goes k && k.discardable).foldl State.discardReenter s
  { s with strands := s.strands.map fun k => (if goes k && k.kind == .ordinary && k.pub.isSome then { k with owed := k.owed.or (some false) } else k) }

/-- What PREEMPT_CHOICE decides for a waiting head: the victims and their choices, E formed for each (R357); a victim near its end is left
to end. -/
def State.preemption (s : State) (q : Nat) : List (Nat × Task × PreChoice) :=
  let p := (s.queue q).prio
  match s.lacking q with
  | 0 => []
  | n =>
    let vs := (enough n (s.victims p)).getD []
    ((List.range vs.length).zip vs).filterMap fun x => (s.choice x.2.1 x.2.2 p (s.ticks + x.1)).map fun c => (x.2.1, x.2.2, c)

/-- PREEMPT_CHOICE (R356 to R359). -/
def execPreemptChoice (q : Nat) (s : State) : Out :=
  let p := (s.queue q).prio
  .next ((s.preemption q).foldl (fun y x => y.preempt x.1 x.2.1 x.2.2 p) { s with ticks := s.ticks + s.tasks.length })

/-! ### Reaching boundaries (R359, R360) -/

/-- A slot's wait that a draining strand does not wait out: anything but a load, an engine completion or the publish queue; `held`: a
query's merge that waits for free slots. -/
def slotBlocks (w : Word32) (o : Slot) (held : Bool) : Bool :=
  held || match o.status, instrOf w with
  | .waiting, some i => match i with
    | .read .. | .readp .. => false
    | i => i.cls != .load && i.cls != .boundary && i.uses != .merge
  | .sent, some (.idle _ _) => true
  | _, _ => false

/-- The strand is BLOCKED on a buffer slot, a ring record or IDLE, and nothing of its block can fire (R359); `held`: its slots whose
results wait for free slots. -/
def Strand.stalled (t : Strand) (held : List Nat) : Bool :=
  match t.block with
  | none => false
  | some b =>
    let blocks (j : Nat) : Bool := slotBlocks ((b.words[j]?).getD 0) ((b.slots[j]?).getD {}) (held.contains j)
    ((List.range b.words.length).all fun j =>
      let o := (b.slots[j]?).getD {}
      blocks j || o.status == .done || (o.status == .idle && b.gateAt j == .notReady))
    && (List.range b.words.length).any blocks

/-- Slots of strand k whose query's merge waits for free slots (R252, R359). -/
def State.mergesHeld (s : State) (k : Nat) : List Nat :=
  s.waiting.filterMap fun e => match e with
    | .matchMerge q => (s.queries.find q).bind fun x => if x.strand == k then some x.slot else none
    | _ => none

/-- The strand stands at a region end: its next region has not begun, or it waits at GBAR (R181). -/
def Strand.atBoundary (t : Strand) : Bool :=
  t.state == .ended || t.state == .waiting ||
    (t.pub.isNone && t.queue.isEmpty &&
      ((t.phase == .fetch && t.region.first && t.block.isNone) || t.barrier.any fun w => !w.done))

/-- Draining strands that are discarded after all. -/
def State.stalledOf (s : State) (task : Nat) : List Nat :=
  (s.strandsThat fun t => t.task == task && t.kind == .ordinary && t.discardable).filter fun k => match s.strand k with
    | some t => t.stalled (s.mergesHeld k)
    | none => false

/-- A pre-empted task can be saved (R360 steps 1 to 3). -/
def State.saveReady (s : State) (task : Nat) : Bool :=
  (s.strands.all fun t => t.task != task || t.atBoundary) && s.taskQuiet task

/-! ### The save area (R363, R364) -/

/-- Offset of a pavilion's record in a save area. -/
def pavRecord (n : Nat) : Nat := 2 ^ 20 + n / 16 * 21299200 + n % 16 * 1327104

/-- A buffer's 16 bytes (log 34: the fields' places). -/
def bufImage (b : BufRec) : List Byte :=
  toLe 8 (2 ^ 63 + b.fe * 2 ^ 48 + b.base / 64 * 2 ^ 32 + b.size / 64 * 2 ^ 16 + b.count) ++ toLe 8 (b.p * 2 ^ 32 + b.c)

/-- The deques of a pavilion: 16 entries of each by number modulo 16, then the numbers of top and bottom (log 34). -/
def State.dequeImage (s : State) (pav : Nat) : List Byte :=
  ((List.range 256).flatMap fun i =>
      toLe 8 ((((s.deque pav (i / 16)).entries.find? fun e => e.1 % 16 == i % 16).map fun e => e.2.1.toNat).getD 0))
    ++ (List.range 16).flatMap fun i =>
      let d := s.deque pav i
      toLe 4 ((d.entries.head?.map (·.1)).getD d.nextId) ++ toLe 4 d.nextId

/-- A held ring record: its ring, its sender and its payload (log 34). -/
def heldImage (m : RingMsg) : List Byte :=
  toLe 8 (2 ^ 63 + m.ring * 2 ^ 48 + m.log2 * 2 ^ 40 + m.payload.length) ++ toLe 8 (m.srcChip * 2 ^ 16 + m.srcPav) ++ m.payload

/-- The rings of a pavilion, its accumulators' sticky bits, and the held records, as far as they fit (R363, log 34). -/
def State.ringImage (s : State) (pav : Nat) : List Byte :=
  ((List.range 16).flatMap fun i => match s.ring pav i with
    | some r => toLe 8 (2 ^ 63 + r.fe * 2 ^ 44 + r.log2 * 2 ^ 16 + r.base) ++ toLe 8 (r.tail * 2 ^ 32 + r.recs.length)
    | none => List.replicate 16 0)
    ++ toLe 8 ((List.range 64).foldl (fun v i => if s.stickyC.contains (pav * 64 + i) then v + 2 ^ i else v) 0)
    ++ (((s.rings.filter fun r => r.pav == pav).flatMap fun r => r.held.flatMap heldImage).take 3832)

/-- A range of physical memory set to zero, at its pages' owners, behind this chip's earlier stores to it (R287). -/
def State.zeroMem (s : State) (a n : Nat) : State :=
  (s.ownerParts a n).foldl (fun s p =>
    let s := s.reachHome p.1 p.2.2
    { s.dirtyRange p.1 p.2.2 with
      mem := Memory.clear s.mem p.1 p.2.2
      poison := s.poison.filter fun w => !(p.1 ≤ 8 * w && 8 * w < p.1 + p.2.2) }) s

/-- n bytes of a bank copied to physical memory, behind this chip's earlier stores there, and back, at its pages' owners; poison goes with
them. -/
def State.copyOut (s : State) (key a n : Nat) : State := (s.ownerParts a n).foldl (fun s p =>
  (s.reachHome p.1 p.2.2).copyMem (key + p.2.1) p.1 p.2.2) s
def State.copyIn (s : State) (a key n : Nat) : State := (s.ownerParts a n).foldl (fun s p => s.copyMem p.1 (key + p.2.1) p.2.2) s

/-- Words poisoned besides those that are. -/
def State.addPoison (s : State) (ws : List Nat) : State := { s with poison := s.poison ++ ws.filter fun w => !s.poison.contains w }

/-- A pavilion's record written: banks, committed accumulators, buffers, deques, rings (R363); a poisoned accumulator stays so there
(R425). -/
def State.savePav (s : State) (base pav n : Nat) : State :=
  let a := base + pavRecord n
  let s := (s.copyOut (bankKey pav 0) a 1048576).zeroMem (a + 1048576) 262144
  let s := s.performHome ((Memory.range s.accC (accKey (pav * 64)) 262144).map fun c =>
    (s.ownerKey (a + 1048576 + (c.1 - accKey (pav * 64))), c.2))
  let s := s.addPoison ((s.accPoison.filter fun id => id / 64 == pav).flatMap fun id => (List.range 512).map fun i =>
    s.ownerKey (a + 1048576 + id % 64 * 4096 + 8 * i) / 8)
  let bufs := ((s.buffers.filter fun (b : Nat × BufRec) => b.2.pav == pav).map fun b => bufImage b.2).flatten
  ((s.unitWrite (a + 1310720) (bufs ++ List.replicate (8192 - bufs.length) 0)).unitWrite (a + 1318912) (s.dequeImage pav)).unitWrite
    (a + 1323008) (s.ringImage pav)

/-- A grove's held SENDs: the frame with the slot in [62:57], and the value (R25, R363). -/
def State.sendImage (s : State) (task g : Nat) : List Byte :=
  (s.heldSends.filter fun m => match s.frameHome m with
    | some (j, h, _) => j == task && h == g
    | none => false).flatMap fun m => toLe 8 (m.fp.toNat + m.slot * 2 ^ 57) ++ toLe 8 m.value.toNat

/-- A barrier's 16 bytes: generation, arrivals counted, NM1. -/
def State.barImage (s : State) (task i : Nat) : List Byte :=
  match s.barriers.find? fun b => b.task == task && b.scope != 4 && b.bar == i with
  | some b => toLe 8 b.gen.toNat ++ toLe 4 b.arrived.length ++ toLe 4 b.nm1
  | none => List.replicate 16 0

/-- The strands of a task that a save area holds, by index. -/
def State.savedStrands (s : State) (task : Nat) : List Nat :=
  s.strandsThat fun t => t.task == task && t.kind == .ordinary && t.state != .ended

/-- The choice's code in the header. -/
def PreChoice.code : PreChoice → Nat
  | .drain => 0
  | .discard => 1
  | .checkpoint => 2

/-- The header, the graph record, the placement map, the port positions and the barriers. -/
def State.saveHead (s : State) (task : Nat) (c : PreChoice) : State :=
  let t := s.task task
  let a := t.desc.save
  let n := (s.savedStrands task).length
  let s := s.unitWrite a (toLe 8 1 ++ toLe 8 t.number ++ toLe 2 t.desc.groves ++ toLe 4 n ++ toLe 1 c.code ++ List.replicate 41 0)
  let s := s.unitWrite (a + 64) (toLe 8 t.pages.length ++ toLe 8 (if t.gated then 1 else 0) ++ List.replicate 48 0)
  let s := s.unitWrite (a + 1024) ((List.range 256).flatMap fun k => toLe 4 ((t.pages[k]?).getD 0))
  let s := s.unitWrite (a + 4096) ((List.range 256).flatMap fun k => toLe 8 (((t.ports.find k).map fun p => p.pos.toNat).getD 0) ++ toLe 8 0)
  s.unitWrite (a + 8192) ((List.range 256).flatMap (s.barImage task))

/-- The strand section: the task's strands in order, each with its place there. -/
def State.saveStrands (s : State) (task : Nat) : State :=
  let t := s.task task
  ((List.range s.strands.length).zip (s.savedStrands task)).foldl (fun s x => match s.strand x.2 with
    | some k => (s.setStrand x.2 { k with record := x.1 }).unitWrite (t.desc.strandBase + 2048 * x.1) (strandImage k (t.logPav k.pav))
    | none => s) s

/-- The save area written (R360 step 4, R363). -/
def State.writeSave (s : State) (task : Nat) (c : PreChoice) : State :=
  let t := s.task task
  let s := (List.range (16 * t.groves.length)).foldl (fun s n => match s.physPav t n with
    | some pav => s.savePav t.desc.save pav n
    | none => s.zeroMem (t.desc.save + pavRecord n) 1327104) s
  let s := ((List.range t.groves.length).zip t.groves).foldl (fun s x =>
    s.unitWrite (t.desc.save + 2 ^ 20 + x.1 * 21299200 + 21233664) ((s.sendImage task x.2).take 65536)) s
  (s.saveStrands task).saveHead task c

/-! ### Pavilion numbers that follow a task (R350) -/

/-- Everything of a task that names a pavilion by number names another one. -/
def State.rekey (s : State) (task : Nat) (f : Nat → Nat) : State :=
  let home (scope h : Nat) : Nat := if scope = 1 then f h else if scope = 2 then groveOf (f (16 * h)) else h
  let msg (e : Instr) : Instr := match e with
    | .ringRecordArrive m => .ringRecordArrive { m with pav := f m.pav }
    | e => e
  { s with
    strands := s.strands.map fun (t : Strand) => (if t.task == task && t.state != .ended then
        { t with pav := f t.pav,
                 barrier := t.barrier.map fun w => if w.scope = 4 then w else { w with home := home w.scope w.home } }
      else t)
    waitKids := s.waitKids.map fun (x : Bool × Strand) => (if x.2.task == task then (x.1, { x.2 with pav := f x.2.pav }) else x)
    buffers := s.buffers.map fun (b : Nat × BufRec) => (b.1, { b.2 with pav := f b.2.pav })
    deques := s.deques.foldl (fun (t : Tab Deque) d => t.put (f (d.1 / 16) * 16 + d.1 % 16) { d.2 with last := d.2.last.map f }) []
    stores := s.stores.map fun (st : Store) => (if st.ofTask task && st.chip == s.chip then { st with pav := f st.pav } else st)
    rings := s.rings.map fun (r : Ring) => (if r.owner == task then { r with pav := f r.pav } else r)
    barriers := s.barriers.map fun (b : BarRec) =>
      (if b.task == task && b.scope != 4 then { b with home := home b.scope b.home } else b)
    passed := s.passed.map fun p => (if p.1 == task then (p.1, f p.2) else p)
    agenda := s.agenda.map msg
    waiting := s.waiting.map msg }

/-! ### Saving (R360) -/

/-- A strand that stood at GBAR keeps its arrival; its region is re-entered on resumption (R181). -/
def State.leaveBarrier (s : State) (k : Nat) : State :=
  match s.strand k with
  | none => s
  | some t =>
    if t.barrier.isSome && t.block.isSome then (s.dropRegion k).modStrand k fun t' => { t' with rcnt := t.rcnt } else s

/-- A resident strand leaves its place; a record that holds it is written all the same (R363, R365). -/
def Strand.toStore (t : Strand) : Strand :=
  if t.resident then { t with state := .waiting, saved := true, park := none, block := none, phase := .fetch } else t

/-- The task saved and its groves freed. -/
def State.saveTask (s : State) (task : Nat) (c : PreChoice) : State :=
  let s := (s.strandsThat fun t => t.task == task && t.resident).foldl State.leaveBarrier s
  let s := s.writeSave task c
  let t := s.task task
  let mine (x : Nat × StrandState) : Bool := match s.strand x.1 with
    | some t => t.task == task
    | none => false
  let s := { s with
    terraces := s.terraces.map fun (te : Terrace) => { te with held := te.held.map fun (h : HeldRec) =>
      (if h.strand.any mine then { h with strand := none } else h) }
    strands := s.strands.map fun (k : Strand) => (if k.task == task then k.toStore else k)
    tlb := s.tlb.filter fun e => e.task != task
    windows := s.windows.filter fun w => w.task != task }
  let s := s.rekey task fun p => if t.groves.contains (groveOf p) then savedPav task (t.logPav p) else p
  s.modTask task fun t => { t with status := .saved c, homes := t.groves, groves := t.groves.map (fun _ => noGrove), tallied := none }

/-- PREEMPT_SAVE (R359, R360): strands that block are discarded; once every strand stands at a region end and nothing of the task is
on its way, its stores' counters are written back, and once those writes have been performed too the save area is written and the groves
are freed. -/
def execPreemptSave (task : Nat) (s : State) : Out :=
  .next (match (s.task task).status with
    | .stopping c rewind =>
      match s.stalledOf task with
      | k :: rest => (k :: rest).foldl State.discardReenter s
      | [] =>
        if s.saveReady task && (rewind || !s.iterating task) && !s.areaHeld (s.task task).desc.save ((s.task task).desc.saveMb * 2 ^ 20) then
          let s := if (s.task task).tallied = some (s.tally task) then s
            else (s.writeCounters task).modTask task fun t => { t with tallied := some (s.tally task) }
          if s.taskQuiet task then s.saveTask task c else s
        else s
    | _ => s)

/-! ### Resumption (R365) -/

/-- The saved task whose turn it is: the highest priority, the oldest launch among equals. -/
def State.resumeNext (s : State) : Option Nat :=
  let saved := ((List.range s.tasks.length).zip s.tasks).filter fun x => match x.2.status with
    | .saved _ => true
    | _ => false
  (firstK (fun (a b : Nat × Task) => b.2.prio < a.2.prio || (a.2.prio == b.2.prio && a.2.launched < b.2.launched)) 1 saved).head?.map
    (·.1)

/-- No head of a higher priority waits for its turn (R343). -/
def State.resumeTurn (s : State) (task : Nat) : Bool :=
  s.resumeNext == some task && s.heads.all fun x => (s.queue x.1).prio ≤ (s.task task).prio

/-- New groves in the places of the old ones, each one that is fit for its place; those that had returned stay so. -/
def fillGroves (fit : Nat → Nat → Bool) : Nat → List Nat → List Nat → Option (List Nat)
  | _, [], _ => some []
  | i, h :: t, free =>
    if h < 256 then free.findSome? fun g => if fit i g then (fillGroves fit (i + 1) t (free.erase g)).map (g :: ·) else none
    else (fillGroves fit (i + 1) t free).map (noGrove :: ·)

/-- Something of a saved task stands at one of its logical pavilions: a strand, a waiting child, a buffer, a ring, a store, a deque entry, a
page, or contents in its record of the save area. -/
def State.standsAt (s : State) (task n : Nat) : Bool :=
  let t := s.task task
  let p := savedPav task n
  (s.strands.any fun u => u.task == task && u.state != .ended && u.pav == p)
    || (s.waitKids.any fun x => x.2.task == task && x.2.pav == p) || (s.buffers.any fun b => b.2.pav == p)
    || (s.rings.any fun r => r.pav == p) || (s.stores.any fun st => st.ofTask task && st.chip == s.chip && st.pav == p)
    || (s.deques.any fun d => d.1 / 16 == p && !d.2.entries.isEmpty)
    || t.pages.contains n || (t.blocks.any fun b => b.lpav == n)
    || (s.ownerParts (t.desc.save + pavRecord n) 1310720).any fun x =>
      !(Memory.range s.mem x.1 x.2.2).isEmpty || s.poisoned x.1 x.2.2

/-- The logical pavilions of a grove of a saved task at which something stands, by their number in it. -/
def State.neededIn (s : State) (task i : Nat) : List Nat := (List.range 16).filter fun j => s.standsAt task (16 * i + j)

/-- The usable pavilions of a physical grove, by their number in it. -/
def State.usableIn (s : State) (g : Nat) : List Nat := (List.range 16).filter fun j => s.usable (16 * g + j)

/-- The free groves in which a saved task is resumed, the lowest first: each has a usable pavilion for every logical one at which something
of the task stands, so that it goes on as in a run without the pre-emption (R45, R365; log 79). -/
def State.newGroves (s : State) (task : Nat) : Option (List Nat) :=
  fillGroves (fun i g => (s.neededIn task i).length ≤ (s.usableIn g).length) 0 (s.task task).homes s.freeGroves

/-- Where the logical pavilions of a grove land in a physical one (R350, R353): each keeps its number, but one at which something stands
and whose number is harvested there changes places with one of the usable that is free (log 79). -/
def landings (i : Nat) (needed usable : List Nat) : List (Nat × Nat) :=
  ((needed.filter fun j => !usable.contains j).zip (usable.filter fun j => !needed.contains j)).flatMap fun x =>
    [(16 * i + x.1, 16 * i + x.2), (16 * i + x.2, 16 * i + x.1)]

/-- A pavilion's record restored: banks and committed accumulators; the working ones take the committed values. What is poisoned there is
poisoned again (R425). -/
def State.loadPav (s : State) (base pav n : Nat) : State :=
  let a := base + pavRecord n
  let s := s.copyIn a (bankKey pav 0) 1048576
  let acc := (s.ownerParts (a + 1048576) 262144).flatMap fun p =>
    (Memory.range s.mem p.1 p.2.2).map fun c => (accKey (pav * 64) + p.2.1 + (c.1 - p.1), c.2)
  let put (m : List Host.Cell) : List Host.Cell := Memory.writeCells (Memory.clear m (accKey (pav * 64)) 262144) acc
  let sticky := s.phys (a + 1323008 + 256) 8
  let other (l : List Nat) (p : Nat → Bool) : List Nat :=
    (l.filter fun id => id / 64 != pav) ++ ((List.range 64).filter p).map fun i => pav * 64 + i
  let stuck (l : List Nat) : List Nat := other l fun i => sticky / 2 ^ i % 2 == 1
  { s with accC := put s.accC, accW := put s.accW, stickyC := stuck s.stickyC, stickyW := stuck s.stickyW,
           accPoison := other s.accPoison fun i => s.poisoned (s.ownerKey (a + 1048576 + 4096 * i)) 4096 }

/-- A strand as its record holds it (R364); one that has no next region stays FAULTED (R40). A poisoned register stays so, and another poisoned word of the record raises
F_UNCORR at its start (R425). The record has no mark for a generator descriptor whose words are 0: the strand keeps which
of its descriptors are defined (R9). -/
def State.loadStrand (s : State) (a : Nat) (t : Strand) : Strand :=
  let w (i : Nat) : Word := BitVec.ofNat 64 (s.phys (a + i) 8)
  let bad (i : Nat) : Bool := s.poisoned (s.ownerKey (a + i)) 8
  let m := w 24
  let t := { t with
    fp := w 0, ip := w 8, tag := w 16, rcnt := BitVec.ofNat 8 (bits m 7 0), yieldMark := bit m 24, poolBase := w 32, poolPtr := w 40
    regs := Vector.ofFn fun (i : Fin 128) => w (256 + 8 * i.val), pending := 0
    poison := (List.range 128).foldl (fun v i => if bad (256 + 8 * i) then v ||| BitVec.twoPow 128 i else v) t.poison
    gens := (List.range 16).filterMap fun i =>
      let g := (w (1536 + 16 * i), w (1536 + 16 * i + 8))
      if g = (0, 0) ∧ (t.gens.find i).isNone then none else some (i, g)
    region := { t.region with ip := w 8, fp := w 0, tag := w 16, poolPtr := w 40, first := true } }
  let lost := (List.range 8).any (fun i => bad (8 * i)) || (List.range 32).any fun i => bad (1536 + 8 * i)
  let t := if lost && t.pendFault.isNone then { t with pendFault := some ⟨{ code := .uncorr }, 0, 0⟩, pendHere := true } else t
  if t.saved then { t with state := if t.noNext then .faulted else .ready, saved := false } else t

/-- The strand section restored. -/
def State.loadStrands (s : State) (task : Nat) : State :=
  (s.savedStrands task).foldl (fun s k => s.modStrand k fun t => s.loadStrand ((s.task task).desc.strandBase + 2048 * t.record) t) s

/-- The port positions restored (R49, R363). -/
def State.loadPorts (s : State) (task : Nat) : State :=
  let a := (s.task task).desc.save + 4096
  s.modTask task fun t => { t with ports := t.ports.map fun p => (p.1, { p.2 with pos := BitVec.ofNat 64 (s.phys (a + 16 * p.1) 8) }) }

/-- The deques of groves that are allocated again: the owner wins the next tie (R163). -/
def State.untieDeques (s : State) (t : Task) : State :=
  { s with deques := s.deques.map fun (d : Nat × Deque) => (if t.groves.contains (groveOf (d.1 / 16)) then (d.1, { d.2 with thief := false }) else d) }

/-- The task restored into free groves: its logical pavilions are mapped to the new ones (R350), and its pages with them (R353). -/
def State.resumeTask (s : State) (task : Nat) (gs : List Nat) : State :=
  let moves := ((List.range gs.length).zip gs).flatMap fun x => landings x.1 (s.neededIn task x.1) (s.usableIn x.2)
  let s := s.modTask task fun t => { t with status := .running, groves := gs, homes := [], remap := moves, gated := false }
  let t := s.task task
  let s := s.unitWrite t.desc.save (toLe 8 2)
  let s := s.clearGroves (gs.filter (· < 256))
  let s := s.rekey task fun p =>
    if savedPav task 0 ≤ p && p < savedPav task 4096 then
      let n := p - savedPav task 0
      (t.place n).getD p
    else p
  let s := s.untieDeques t
  let s := (List.range (16 * gs.length)).foldl (fun s n => match s.physPav t n with
    | some pav => s.loadPav t.desc.save pav n
    | none => s) s
  let s := (s.loadStrands task).loadPorts task
  let s := s.pageWindows task
  let s := (s.rings.filter fun r => r.owner == task).foldl (fun s r => s.placeHeldRecords r.pav r.ring) s
  (s.dropStores task).readTable task

/-- TASK_RESUME (R343, R365). -/
def execTaskResume (task : Nat) (s : State) : Out :=
  .next (if s.resumeTurn task && !s.areaHeld (s.task task).desc.save ((s.task task).desc.saveMb * 2 ^ 20) then
      match s.newGroves task with
      | some gs => s.resumeTask task gs
      | none => s
    else s)

/-! ### Pages that move (R353) -/

/-- Two pavilions of a task change places: what stands in them, their banks and accumulators, and the windows of their blocks. -/
def State.swapPavs (s : State) (task p q : Nat) : State :=
  let f (x : Nat) : Nat := if x = p then q else if x = q then p else x
  let swap (m : List Host.Cell) (key : Nat → Nat) (n : Nat) : List Host.Cell :=
    Memory.copy m (key p) (Memory.copy m (key q) m (key p) n) (key q) n
  let ids (l : List Nat) : List Nat := l.map fun i => f (i / 64) * 64 + i % 64
  let s := s.rekey task f
  { s with
    mem := swap s.mem (fun x => bankKey x 0) 1048576
    accW := swap s.accW (fun x => accKey (x * 64)) 262144
    accC := swap s.accC (fun x => accKey (x * 64)) 262144
    stickyW := ids s.stickyW, stickyC := ids s.stickyC, accPoison := ids s.accPoison
    poison := s.poison.map fun w => (if bankKey 0 0 / 8 ≤ w ∧ w < weightKey 0 / 8
      then bankKey (f ((w - bankKey 0 0 / 8) / 131072)) 0 / 8 + (w - bankKey 0 0 / 8) % 131072 else w)
    windows := s.windows.filter fun w => !(w.task == task && (w.pav == p || w.pav == q)) }

/-- A page may take the physical pavilion of another logical one of its grove (R353): it leaves a pavilion that the device has harvested,
or, once another graph's pages have been released, the set is compacted toward the lowest physical pavilions. -/
def State.mayMovePage (s : State) (t : Task) (page pav : Nat) : Bool :=
  let own := (t.pages[page]?).getD 0
  own / 16 == pav / 16 && match t.place own, s.physPav t pav with
    | some old, some new => !s.usable old || (t.compact && new < old)
    | _, _ => false

/-- Nothing but what a page's move carries stands in a pavilion: no strand, and no store of a peer (R350). -/
def State.pavFree (s : State) (task p : Nat) : Bool :=
  !(s.strands.any fun t => t.task == task && t.pav == p && t.state != .ended)
    && !(s.stores.any fun st => st.chip == s.chip && st.pav == p && !st.ofTask task)

/-- FABRIC_PAGE_MOVE (R353): a page of a quiescent graph goes to the physical pavilion of another logical pavilion of its grove, with all
that stands in its own: the two logical pavilions change places, so that a move changes no value and no outcome (log 93). -/
def execFabricPageMove (task page pav : Nat) (s : State) : Out :=
  s.powered (
    let t := s.task task
    let own := (t.pages[page]?).getD 0
    let p := (t.place own).getD 0
    let q := (t.place pav).getD 0
    if page < t.pages.length && s.mayMovePage t page pav && !t.pages.contains pav && !t.token && s.graphQuiet task && s.taskQuiet task
      && s.pavFree task p && s.pavFree task q then
      ((s.swapPavs task p q).modTask task fun x =>
        { x with remap := (x.remap.put own (t.slot pav)).put pav (t.slot own) }).pageWindows task
    else s)

end Sys2Proof.Machine
end

