-- ==== Sys2Proof/Machine/Migration.lean ====
section
/-! DEFINITION. Page migration (R325 to R340): the slots of the old owner, the part of the destination, stubs, holders and the owner
cache. Messages to peers stand in State.outbox; what peers send arrives as events (log 10). -/

namespace Sys2Proof.Machine

/-- First byte of a frame, and the chip that holds it. -/
def framePa (f : Nat) : Nat := f * 2 ^ 21
def frameChip (f : Nat) : Nat := f / 2 ^ 21

/-- A frame of this chip that lies in its memory (R306, R329). -/
def State.frameHere (s : State) (f : Nat) : Bool :=
  frameChip f == s.chip && s.localOk (framePa f % 2 ^ 42) && s.localOk (framePa f % 2 ^ 42 + 2 ^ 21 - 1)

/-- The group bit of a chip (R335). -/
def groupBit (c : Nat) : BitVec 72 := BitVec.twoPow 72 (c / 64)

/-- The chips of a marked group that belong to the domain. -/
def State.groupChips (s : State) (g : Nat) : List Nat := ((List.range 64).map fun i => 64 * g + i).filter s.inDomain

/-- HOLDERS and BEHIND of a page that this chip owns (R334, R336); its own group counts as a holder. -/
def State.ownedOf (s : State) (f : Nat) : Owned :=
  (s.owned.find? fun o => o.frame == f).getD { frame := f, holders := groupBit s.chip }

def State.setOwned (s : State) (o : Owned) : State := { s with owned := (s.owned.filter fun x => x.frame != o.frame) ++ [o] }

/-- The stub of a frame. -/
def State.stub (s : State) (f : Nat) : Option Stub := s.stubs.find? fun x => x.old == f

def State.setStub (s : State) (x : Stub) : State := { s with stubs := s.stubs.map fun (y : Stub) => (if y.old == x.old then x else y) }

def State.mig (s : State) (i : Nat) : MigSlot := (s.migs.find i).getD {}
def State.setMig (s : State) (i : Nat) (m : MigSlot) : State := { s with migs := s.migs.put i m }

def MigSlot.srcFrame (m : MigSlot) : Nat := bits m.src 54 21
def MigSlot.dstFrame (m : MigSlot) : Nat := bits m.dst 54 21

/-! ### Starting a move (R329) -/

/-- The frame lies in the frame range of a task here (R279, R325). -/
def State.inFrameRange (s : State) (f : Nat) : Bool :=
  (List.range s.tasks.length).any fun j =>
    let t := s.task j
    t.status != .ended && t.desc.rangeBytes != 0 &&
      (List.range t.framePages).any fun i =>
        match s.flat tablePav j ((t.desc.frbase.toNat / 4096 + i) * 4096) .load with
        | .ok key => frameOf key == f
        | _ => false

/-- POISON of a tile: one bit for each 64-byte line (R340). -/
def State.poisonBits (s : State) (a : Nat) : BitVec 64 :=
  (List.range 64).foldl (fun v i => if s.poisoned (a + 64 * i) 64 then v ||| BitVec.twoPow 64 i else v) 0

/-- The 8-byte words of the 64-byte lines of a tile whose POISON bits are set. -/
def tilePoison (a : Nat) (poison : BitVec 64) : List Nat :=
  (List.range 64).flatMap fun l => if poison.getLsbD l then (List.range 8).map fun i => a / 8 + 8 * l + i else []

/-- A tile sent to the destination, with its POISON bits: a line of which a word is poisoned stands poisoned whole there (R330, R340). -/
def State.sendTile (s : State) (m : MigSlot) (i : Nat) : State :=
  let a := framePa m.srcFrame + 4096 * i
  let b := framePa m.dstFrame + 4096 * i
  ((s.copyMem a b 4096).addPoison (tilePoison b (s.poisonBits a))).send
    (.tile (frameChip m.dstFrame) m.dstFrame i (Memory.readN s.mem a 4096) (s.poisonBits a))

/-- The checks of GO in table order, and what follows (R329, R330): `accepts` is the destination's answer to MOVE_OPEN. A destination to
which no link leads refuses the move with LINK (R340). -/
def State.startMove (s : State) (i : Nat) (m : MigSlot) (accepts : Bool) : State :=
  let f := m.srcFrame
  let d := m.dstFrame
  let refuse (r : Nat) : State := s.setMig i { m with state := .refused, reason := r }
  if !s.frameHere f || s.inFrameRange f || frameChip d == s.chip || !s.inDomain (frameChip d) then refuse 1
  else if (s.stub f).any (·.live) || (s.incoming.any fun x => x.dst == f) || s.migs.any (fun x => x.1 != i && x.2.busy && x.2.srcFrame == f) then refuse 2
  else if !s.reached (frameChip d) then refuse 4
  else if (s.ownedOf f).behind = 2 then s.setMig i { m with state := .waitChain }
  else if 4096 ≤ s.stubs.length then s.setMig i { m with state := .waitStub }
  else
    let s := s.send (.moveOpen (frameChip d) d f i)
    if !accepts then s.setMig i { m with state := .refused, reason := 3 }
    else
      let m := { m with state := .precopy, reason := 0, pass := 0, last := 512, dirty := [], heldAcc := [] }
      (List.range 512).foldl (fun s t => s.sendTile m t)
        (State.setMig { s with stubs := s.stubs ++ [{ old := f, fwd := d }] } i m)

/-- MIG_GO (R329, R330): a write of MIGSRC; ignored while GO reads 1. -/
def execMigGo (i : Nat) (v : Word) (accepts : Bool) (s : State) : Out :=
  .next (
    let m := s.mig i
    if 8 ≤ i || m.busy || s.dark then s
    else
      let m := { m with src := v &&& 0x007FFFFFFFE00000 }
      if bit v 63 then s.startMove i m accepts else s.setMig i m)

/-- MIG_SLOT_WAKE (R329, R334): a waiting slot goes on by the same checks. -/
def execMigSlotWake (i : Nat) (accepts : Bool) (s : State) : Out :=
  s.powered (match (s.mig i).state with
    | .waitChain | .waitStub => s.startMove i (s.mig i) accepts
    | _ => s)

/-! ### The passes and the change of owner (R330, R331) -/

/-- PRECOPY_PASS_END (R330): the dirty tiles are copied again, or new accesses are held for FINAL. -/
def execPrecopyPassEnd (i : Nat) (s : State) : Out :=
  s.powered (
    let m := s.mig i
    if m.state ≠ .precopy then s
    else
      let n := m.pass + 1
      if m.dirty.length < m.last ∧ n < 4 then
        m.dirty.foldl (fun s t => s.sendTile m t) (s.setMig i { m with pass := n, last := m.dirty.length, dirty := [] })
      else s.setMig i { m with pass := n, state := .final })

/-- Accesses to a frame that were granted before are still on their way to it. -/
def State.frameBusy (s : State) (f : Nat) : Bool := s.lines.any fun l => l.cells.any fun c => frameOf c.1 == f

/-- FINAL_DRAINED (R330): the remaining dirty tiles, then COMMIT with HOLDERS and BEHIND. -/
def execFinalDrained (i : Nat) (s : State) : Out :=
  s.powered (
    let m := s.mig i
    if m.state ≠ .final ∨ s.frameBusy m.srcFrame then s
    else
      let s := m.dirty.foldl (fun s t => s.sendTile m t) s
      let o := s.ownedOf m.srcFrame
      (s.setMig i { m with dirty := [], state := .commit }).send
        (.commit (frameChip m.dstFrame) m.dstFrame o.holders o.behind o.oldest))

/-- An access performed at a key: the state and the bytes it returns (R174, R176, R331). -/
def State.performAccess (s : State) (op : MemOp) (key : Nat) : State × List Byte :=
  match op with
  | .read n => (s, Memory.readN s.mem key n)
  | .write d => (s.writeHome key d, [])
  | .atomic op w v e =>
    let n := wBytes w
    let m := 2 ^ (8 * n)
    let old := s.home key n
    let new := atomicNew op (8 * n) old (v.toNat % m) (e.toNat % m)
    (if op = .cas ∧ old ≠ v.toNat % m then s else s.writeHome key (toLe n new), toLe n old)
  | .reduce op w v =>
    let n := wBytes w
    if s.poisoned key n then (s, [])
    else (s.writeHome key (toLe n (reduceNew op (8 * n) (s.home key n) (v.toNat % 2 ^ (8 * n)))), [])

/-- Bytes that an access reads. -/
def opReads : MemOp → Nat
  | .read n => n
  | .atomic _ w _ _ => wBytes w
  | _ => 0

/-- An access relayed to the frame that a stub names (R331, R401), or completed with UNCORR when it cannot be reached. A page that is on
another chip, on that one or, by what is known of later moves, on a third, stands in the memory held here for it (log 10), and the access
is performed there; one whose page has come back here is performed when its relay comes. -/
def State.relayTo (s : State) (fwd : Nat) (m : Access) : State :=
  let off := m.pa % 2 ^ 21
  let g := s.hop (s.hop fwd)
  if !s.reached (frameChip fwd) && frameChip fwd != s.chip then s.send (.answer m.chip m.req [] false)
  else (if frameChip g = s.chip then s else (s.performAccess m.op (framePa g + off)).1).send
    (.relay (frameChip fwd) { m with pa := framePa fwd + off })

/-- RETIRE to the chips of a group. -/
def State.sendRetire (s : State) (g old fwd : Nat) : State := (s.groupChips g).foldl (fun s c => s.send (.retire c old fwd)) s

/-- A live stub serves an access or a HOLD of a chip (R336, R337): the bit of its group is set; a group that was not marked is sent
RETIRE, and with `again` so is one that had acknowledged whole (log 78). -/
def State.markStub (s : State) (x : Stub) (chip : Nat) (again : Bool) : State :=
  let g := chip / 64
  let cs := s.groupChips g
  let new := !x.holders.getLsbD g
  let redo := again && !new && cs.all fun c => x.acks.contains c
  let s := s.setStub { x with holders := x.holders ||| groupBit chip,
                              acks := if redo then x.acks.filter fun c => !cs.contains c else x.acks }
  if new || redo then s.sendRetire g x.old x.fwd else s

/-- An access that a live stub serves: its requester's group is marked, and it is relayed (R331, R336). -/
def State.relayFrom (s : State) (f : Nat) (m : Access) : State := match s.stub f with
  | some x => (s.markStub x m.chip false).relayTo x.fwd m
  | none => s

/-- Lines on their way and pinned lines that name one frame name another: a pinned line keeps its bytes (R332, R339), and a line
remembers the frame by which it was sent (R336). -/
def State.rekeyLines (s : State) (f g : Nat) : State :=
  let key (a : Nat) : Nat := if frameOf a = f then framePa g + a % 2 ^ 21 else a
  { s with
    lines := s.lines.map fun (l : FlightLine) => { l with
      cells := l.cells.map fun c => (key c.1, c.2)
      named := if (l.cells.any fun c => frameOf c.1 == f) && !l.named.contains f then l.named ++ [f] else l.named }
    strands := s.strands.map fun (t : Strand) =>
      { t with region := { t.region with pins := t.region.pins.map fun p => { p with key := key p.key } } } }


/-- COMMIT_ACK (R330, R334): the stub goes live, the held accesses are relayed in arrival order, RETIRE is sent. -/
def execCommitAck (i : Nat) (s : State) : Out :=
  s.powered (
    let m := s.mig i
    if m.state ≠ .commit then s
    else
      let f := m.srcFrame
      let d := m.dstFrame
      let o := s.ownedOf f
      let s := (s.setMig i { m with state := .done, heldAcc := [] }).setStub { old := f, fwd := d, live := true, holders := o.holders }
      let s := State.rekeyLines { s with owned := s.owned.filter fun x => x.frame != f } f d
      let s := m.heldAcc.foldl (fun s a => s.relayFrom f a) s
      (List.range 72).foldl (fun s g => if o.holders.getLsbD g then s.sendRetire g f d else s) s)

/-! ### The destination (R329 to R334, R340) -/

/-- MOVE_OPEN (R329, R333). -/
def execMoveOpen (srcFrame dstFrame chip slot : Nat) (s : State) : Out :=
  s.powered (
    let ok := s.frameHere dstFrame && (s.stub dstFrame).isNone && !(s.incoming.any fun x => x.dst == dstFrame)
    let s := if ok then { s with incoming := s.incoming ++ [{ dst := dstFrame, src := srcFrame, chip := chip, slot := slot }] } else s
    s.send (.opened chip slot ok))

/-- TILE (R330, R340). -/
def execTile (dstFrame idx : Nat) (data : List Byte) (poison : BitVec 64) (s : State) : Out :=
  s.powered (
    if idx < 512 && data.length == 4096 && s.incoming.any fun x => x.dst == dstFrame then
      let a := framePa dstFrame + 4096 * idx
      let s := s.writeHome a data
      { s with
        poison := s.poison ++ tilePoison a poison
        incoming := s.incoming.map fun (x : Incoming) =>
          (if x.dst == dstFrame then { x with tiles := x.tiles.filter (· != idx) ++ [idx] } else x) }
    else s)

/-! ### Relays and completions (R331, R332) -/

/-- An access performed at its page's owner here (R331, R336, R340): its requester's group holds the page from then on, and a peer's is
answered with REDIR. -/
def State.answerHere (s : State) (m : Access) : State :=
  let f := frameOf m.pa
  let ok := s.homeOk m.pa && frameChip f == s.chip && !s.poisoned m.pa (opReads m.op)
  let r := if ok then s.performAccess m.op m.pa else (s, [])
  if m.chip = s.chip then r.1
  else
    let o := s.ownedOf f
    ((r.1.setOwned { o with holders := o.holders ||| groupBit m.chip }).send (.answer m.chip m.req r.2 ok)).send (.redir m.chip m.req f f)

/-- An access relayed to a frame (R330, R331, R336): at a stub it goes on; in FINAL it is held; the owner performs it and completes it to
its requester with REDIR. -/
def State.relayed (s : State) (m : Access) : State :=
  let f := frameOf m.pa
  if (s.stub f).any (·.live) then s.relayFrom f m
  else if s.frameHeld f then s.holdAccess f [m]
  else s.answerHere m

/-- RELAY (R331): nothing is performed for a page before its COMMIT; a relay that comes before it waits. -/
def execRelay (m : Access) (s : State) : Out :=
  let f := frameOf m.pa
  s.powered (if s.incoming.any fun x => x.dst == f then
      { s with incoming := s.incoming.map fun (x : Incoming) => (if x.dst == f then { x with relays := x.relays ++ [m] } else x) }
    else s.relayed m)

/-- COMMIT (R331, R334): the page is owned here; relays that came before are performed in order. -/
def execCommit (dstFrame : Nat) (holders : BitVec 72) (behind oldest : Nat) (s : State) : Out :=
  s.powered (match s.incoming.find? fun x => x.dst == dstFrame with
    | none => s
    | some x =>
      let s := { s with incoming := s.incoming.filter fun y => y.dst != dstFrame, moved := s.moved.put x.src dstFrame }
      let s := s.setOwned { frame := dstFrame, holders := holders ||| groupBit s.chip, behind := behind + 1,
                            oldest := if behind = 0 then x.chip else oldest, newest := x.chip }
      x.relays.foldl State.relayed ((s.rekeyLines x.src dstFrame).send (.commitAck x.chip dstFrame)))

/-- An owner cache entry written; at 16,384 entries another is dropped (R326). -/
def State.putOwner (s : State) (named owner : Nat) : State :=
  let c := if s.ownerCache.length < 16384 || (s.ownerCache.find named).isSome then s.ownerCache else s.ownerCache.drop 1
  { s with ownerCache := Tab.put c named owner }

/-- A move of a page from one frame to another is known. Between peers the page's bytes then stand in the new frame, where they are put
once (log 10). -/
def State.pageMoved (s : State) (f g : Nat) : State :=
  let s := if (s.moved.find f).isNone && frameChip f != s.chip && frameChip g != s.chip then s.copyMem (framePa f) (framePa g) (2 ^ 21)
    else s
  { s.rekeyLines f g with moved := s.moved.put f g }

/-- The owner of a named frame as a completion with REDIR tells it (R332): later accesses go there, once those that this chip issued
before have completed. -/
def State.redirected (s : State) (named owner : Nat) : State :=
  let old := s.ownerFrame named
  let s := if old ≠ owner then s.pageMoved old owner else s
  let s := s.putOwner named owner
  if s.inEgress owner then { s with redirs := s.redirs ++ [owner] } else s

/-- REDIR_COMPLETION (R332). -/
def execRedirCompletion (named owner : Nat) (s : State) : Out := s.powered (s.redirected named owner)

/-- OWNER_CACHE_DROP (R326): it changes no result, since the stubs relay. -/
def execOwnerCacheDrop (i : Nat) (s : State) : Out := s.powered { s with ownerCache := s.ownerCache.eraseIdx i }

/-! ### Reclaiming a stub (R335 to R337) -/

/-- Addresses of the entries with V of a table, which is read at its pages' owners (R331). -/
def State.validEntries (s : State) (table n : Nat) : List Nat :=
  (s.ownerParts table (8 * n)).flatMap fun p =>
    ((Memory.range s.mem p.1 p.2.2).filter fun c => (c.1 - p.1) % 8 == 7 && 128 ≤ c.2.toNat).map fun c => table + p.2.1 + (c.1 - p.1) - 7

/-- Addresses of the leaves below a table of a level. -/
def State.leaves (s : State) : Nat → Nat → Nat → List Nat
  | 0, _, _ => []
  | n + 1, level, table =>
    (s.validEntries table (if level = 1 then 2 ^ 18 else 512)).flatMap fun a =>
      let e := BitVec.ofNat 64 (s.phys a 8)
      if pteKind e = 0 then s.leaves n (level + 1) (ptePa e) else [a]

/-- Addresses of the tile table entries of a task. -/
def State.tileEntries (s : State) (task : Nat) : List Nat :=
  (List.range 4096).flatMap fun n =>
    match s.tensorDir task n with
    | .ok _ d => s.validEntries d.1 d.2.1
    | _ => []

/-- Addresses of every leaf and tile table entry of the tasks here that have not ended. -/
def State.mapEntries (s : State) : List Nat :=
  ((List.range s.tasks.length).filter fun j => (s.task j).status != .ended).flatMap fun j =>
    s.leaves 4 1 (s.task j).desc.root ++ s.tileEntries j

/-- An entry that names a frame names another one, at the same offset: a write at its page's owner (R331). -/
def State.renameEntry (s : State) (old fwd a : Nat) : State :=
  let e := s.phys a 8
  if e / 2 ^ 21 % 2 ^ 34 = old then s.unitWrite a (toLe 8 (e - old * 2 ^ 21 + fwd % 2 ^ 34 * 2 ^ 21)) else s

/-- A window's block stands in a frame. -/
def State.windowIn (s : State) (w : Window) (f : Nat) : Bool :=
  match s.flat w.pav w.task w.addr.toNat .fetch with
  | .ok key => frameOf key == f
  | _ => false

/-- What was known of a retired stub: a stub that leads to it leads on to where it led (R331), and a live stub of this chip that leads to it
keeps it known until that stub is gone. -/
def State.forgetStub (s : State) (old fwd : Nat) : State :=
  if s.stubs.any fun x => x.live && x.fwd == old then
    { s with retired := s.retired.filter (· != old) ++ [old], moved := s.moved.map fun x => if x.2 = old then (x.1, fwd) else x }
  else { s with moved := (s.moved.filter fun x => x.1 != old).map fun x => if x.2 = old then (x.1, fwd) else x }

/-- RETIRE cannot be acknowledged yet (R336): an access that used the old frame is still outstanding, or an entry to be rewritten stands on
a page that a move holds. -/
def State.retireWaits (s : State) (old fwd : Nat) : Bool :=
  s.frameBusy old || (s.lines.any fun l => l.named.contains old) || s.redirHeld fwd || s.mapEntries.any fun a => s.areaHeld a 8

/-- RETIRE (R336): the Lodge rewrites every leaf and tile table entry that names the old frame, and runs TLBI, which completes once no
line that used the old frame is on its way; the owner cache drops its entries; then the chip acknowledges. -/
def execRetire (old fwd chip : Nat) (s : State) : Out :=
  s.powered (
    if s.retireWaits old fwd then s
    else
    let s := if s.hop old != old || frameChip old == s.chip then s else s.pageMoved old fwd
    let s := { s with windows := s.windows.filter fun w => !s.windowIn w old }
    let s := (s.mapEntries.foldl (fun s a => s.renameEntry old fwd a) s).forgetStub old fwd
    { s with
      tlb := s.tlb.filter fun e => bits e.leaf 54 21 != old
      tiles := s.tiles.filter fun e => bits e.entry 54 21 != old
      ownerCache := s.ownerCache.filter fun x => x.1 != old && x.2 != old }.send (.retireAck chip old s.chip))

/-- Every chip of every marked group has acknowledged. -/
def State.allAcked (s : State) (x : Stub) : Bool :=
  (List.range 72).all fun g => !x.holders.getLsbD g || (s.groupChips g).all fun c => x.acks.contains c

/-- RETIRE_ACK (R330, R335, R336): the stub goes FREE when every group has acknowledged, and STUB_GONE goes forward. -/
def execRetireAck (old chip : Nat) (s : State) : Out :=
  s.powered (match (s.stub old).filter (·.live) with
    | none => s
    | some x =>
      let x := { x with acks := x.acks.filter (· != chip) ++ [chip] }
      if s.allAcked x then
        { s with
          stubs := s.stubs.filter fun y => y.old != old
          moved := if s.retired.contains x.fwd then s.moved.filter fun y => y.1 != x.fwd else s.moved
          retired := s.retired.filter (· != x.fwd) }.send (.stubGone (frameChip x.fwd) x.fwd)
      else s.setStub x)

/-- HOLD (R337): this chip's Lodge sends it to the peer that holds the named frame; at a stub the holder bit is set, and it goes on; the
owner sets the bit too, and its completion carries REDIR. Once COMMIT is on its way this chip does what the stub will do: the bit that it
sets goes into the stub's vector, and HOLD goes on behind COMMIT. -/
def execHold (frame chip : Nat) (s : State) : Out :=
  s.powered (
    if frameChip frame != s.chip then s.send (.holdAt (frameChip frame) frame chip)
    else match (s.stub frame).filter (·.live) with
    | some x => (s.markStub x chip true).send (.holdAt (frameChip x.fwd) x.fwd chip)
    | none =>
      let o := s.ownedOf frame
      (s.setOwned { o with holders := o.holders ||| groupBit chip }).send
        (match s.migs.find? fun m => m.2.state == .commit && m.2.srcFrame == frame with
          | some m => .holdAt (frameChip m.2.dstFrame) m.2.dstFrame chip
          | none => .redir chip 0 frame frame))

/-- The oldest stub behind a page is gone (R334, R338): BEHIND falls, and what was known of that stub is forgotten: the frame is plain
memory of its chip. -/
def State.stubGoneHere (s : State) (o : Owned) : State :=
  { s.setOwned { o with behind := o.behind - 1, oldest := o.newest } with
    moved := s.moved.filter fun x => !(frameChip x.1 == o.oldest && x.2 == o.frame) }

/-- What was known of the stubs that lead to a frame is forgotten: they are gone (R338). -/
def State.forgetInto (s : State) (f : Nat) : State := { s with moved := s.moved.filter fun x => x.2 != f }

/-- STUB_GONE (R334, R338): it follows the forward pointers to the owner, which lowers BEHIND; behind a COMMIT that is on its way it
follows that to the new owner. -/
def execStubGone (frame : Nat) (s : State) : Out :=
  s.powered (match (s.stub frame).filter (·.live), s.migs.find? fun m => m.2.state == .commit && m.2.srcFrame == frame with
    | some x, _ => (s.forgetInto frame).send (.stubGone (frameChip x.fwd) x.fwd)
    | none, some m => (s.forgetInto frame).send (.stubGone (frameChip m.2.dstFrame) m.2.dstFrame)
    | none, none => if s.owned.any fun x => x.frame == frame then s.stubGoneHere (s.ownedOf frame) else s)

/-- The link to a destination fails before COMMIT (R340): REFUSED with LINK, and the held accesses are performed here and answered. -/
def State.migLinkFail (s : State) (i : Nat) : State :=
  let m := s.mig i
  if (m.state == .precopy || m.state == .final || m.state == .waitChain || m.state == .waitStub) && !s.reached (frameChip m.dstFrame) then
    let s := s.setMig i { m with state := .refused, reason := 4, heldAcc := [], dirty := [] }
    let s := { s with stubs := s.stubs.filter fun x => x.old != m.srcFrame }
    m.heldAcc.foldl State.answerHere s
  else s

end Sys2Proof.Machine
end

