-- ==== Sys2Proof/Machine/Mesh.lean ====
section
/-! DEFINITION. The mesh's escape network (R394 to R396), transmission errors (R398 to R400), the Colonnade ports (R401, R404), and
REGISTER_WRITE with the registers that have no row of their own (R6, R409). -/

namespace Sys2Proof.Machine

/-! ### Escape (R395, R396) -/

def State.flow (s : State) (i : Nat) : Flow := (s.flows.find i).getD {}

/-- Source, destination and class of a flow. -/
def flowSrc (i : Nat) : Nat := i / 2 ^ 14
def flowDst (i : Nat) : Nat := i / 4 % 4096
def flowCls (i : Nat) : Nat := i % 4

/-- Escape places of a destination that are taken. -/
def State.escapePlaces (s : State) (dst : Nat) : Nat :=
  (s.flows.map fun (f : Nat × Flow) => if flowDst f.1 = dst then f.2.escaped else 0).sum

/-- Packets of a flow in flight: at most 256 (R395). -/
def Flow.flying (f : Flow) : Nat := f.normal + f.queued + f.escaped

/-- A flow's packets that can reserve one of their destination's 64 escape places do so (R395). -/
def State.reservePlaces (s : State) (i : Nat) : State :=
  let f := s.flow i
  let n := Nat.min f.queued (64 - s.escapePlaces (flowDst i))
  if n = 0 then s else { s with flows := s.flows.put i { f with queued := f.queued - n, escaped := f.escaped + n } }

/-- The flows of a destination, the one given first, reserve the places that are free. -/
def State.reserveAll (s : State) (i : Nat) : State :=
  ((s.flows.map Prod.fst).filter fun j => j != i && flowDst j == flowDst i).foldl State.reservePlaces (s.reservePlaces i)

/-- A later packet of a diverted flow goes onto the escape network; a source with 256 packets in flight sends none (R395). -/
def State.joinEscape (s : State) (i : Nat) (f : Flow) : State :=
  if 256 ≤ f.flying then s else { s with flows := s.flows.put i { f with queued := f.queued + 1 } }.reserveAll i

/-- A router diverts n packets of a flow: it marks the flow and counts it, and the source is told (R272, R395). Three free values are
drawn. -/
def State.divertAt (s : State) (i router n : Nat) (f : Flow) : State :=
  (State.addPerf
    { s with ticks := s.ticks + 3, flows := s.flows.put i { f with
        diverted := true, routers := f.routers ++ [router], normal := f.normal - n, queued := f.queued + n } } router 8 1).reserveAll i

/-- ESCAPE_DIVERT (R394, R395): class 0 is never diverted. Which router diverts, how many of the flow's packets are in flight, and how
many of them stand ahead of the stall point are free (log 55). A later packet of a diverted flow goes onto the escape network; while
packets stand ahead of the stall point, another router may instead divert some of those in turn, which is free too. -/
def execEscapeDivert (i : Nat) (s : State) : Out :=
  s.powered (
    let f := s.flow i
    let router := Config.freeChoice s.ticks % 4096
    if flowCls i = 0 ∨ 4096 ≤ flowSrc i then s
    else if !f.diverted then
      let flying := 1 + Config.freeChoice (s.ticks + 1) % 256
      s.divertAt i router (1 + Config.freeChoice (s.ticks + 2) % flying) { f with normal := flying }
    else if f.normal = 0 then s.joinEscape i f
    else if Config.freeChoice (s.ticks + 1) % 2 = 0 then State.joinEscape { s with ticks := s.ticks + 3 } i f
    else if f.routers.contains router then { s with ticks := s.ticks + 3 }
    else s.divertAt i router (1 + Config.freeChoice (s.ticks + 2) % f.normal) f)

/-- ESCAPE_HANDOFF (R395, R396): the destination hands on the flow's packets in sequence order, those of the normal network, whose
numbers are lower, before those in escape places; with the last one the routers clear their marks and the flow is in the normal network
again. -/
def execEscapeHandoff (i : Nat) (s : State) : Out :=
  s.powered (
    let f := s.flow i
    if 0 < f.normal then { s with flows := s.flows.put i { f with normal := f.normal - 1, next := f.next + 1 } }
    else if f.escaped = 0 then s
    else if f.flying = 1 then
      { s with flows := s.flows.put i { next := f.next + 1 } }.reserveAll i |>.addPerf (flowDst i) 9 1
    else
      { s with flows := s.flows.put i { f with escaped := f.escaped - 1, next := f.next + 1 } }.reserveAll i |>.addPerf (flowDst i) 9 1)

/-! ### Ports (R401, R404) -/

def State.port (s : State) (p : Nat) : Port := (s.cports.find p).getD {}
def State.setPort (s : State) (p : Nat) (x : Port) : State := if p < 24 then { s with cports := s.cports.put p x } else s

/-- Collectives whose CHIP0 is not reached any more end with UNCORR (R408). -/
def State.collUnreached (s : State) : State :=
  (s.engines.filter fun (x : Nat × Engine) => x.2.kind == .coll && x.2.state == .coll
      && x.2.collKey.chip0 != s.chip && !s.reached x.2.collKey.chip0).foldl
    (fun s x => s.finishEngine x.1 x.2 5 x.2.l) s

/-- What peers that are not reached any more leave behind: moves to them are refused, and collectives end (R340, R408). -/
def State.unreached (s : State) : State := ((List.range 8).foldl State.migLinkFail s).collUnreached

/-- A port out of service (R340, R401, R408). -/
def State.portDown (s : State) (p : Nat) (fenced : Bool) : State :=
  (s.setPort p { s.port p with up := false, training := false, fenced := (s.port p).fenced || fenced }).unreached

/-- PORT_FAIL (R340, R401). -/
def execPortFail (p : Nat) (s : State) : Out := s.powered (s.portDown p false)

/-- RETRAIN (R404). -/
def execRetrain (p : Nat) (s : State) : Out := .next (if s.dark then s else s.setPort p { s.port p with training := true })

/-- PORT_TRAINED (R401, R404): only a training that RETRAIN started returns a port to service. -/
def execPortTrained (p : Nat) (peer : BitVec 13) (s : State) : Out :=
  .next (if (s.port p).training && !s.dark then s.setPort p { s.port p with up := true, fenced := false, peer := peer, training := false } else s)

/-! ### Transmission errors (R398 to R400) -/

/-- FLIT_CRC_REPLAY (R398): a replay changes no value and no order; it is counted. -/
def execFlitCrcReplay (l : LinkRef) (s : State) : Out :=
  .next (if s.dark then s else match l with
    | .port p =>
      let x := s.port p
      s.setPort p { x with replays := if x.replays = BitVec.allOnes 32 then x.replays else x.replays + 1 }
    | _ => { s with meshReplays := s.meshReplays + 1 })

/-- A Terrace fenced: every task that holds a grove there ends with ABORTED, and the Terrace leaves the usable set (R399, R410). -/
def State.fence (s : State) (t : Nat) : State :=
  if (s.terrace t).state ≠ 2 then s
  else
    let hit := (List.range s.tasks.length).filter fun j =>
      !(s.task j).status.gone && (s.task j).groves.any fun g => g < 256 && g / 32 == t
    (hit.foldl (fun s j => s.endTask j true) s).modTerrace t fun te => { te with state := 3 }

/-- CORRUPT_HEADER_FENCE (R399, R410). -/
def execCorruptHeaderFence (l : LinkRef) (s : State) : Out :=
  s.powered (match l with
    | .mesh t => s.fence t
    | .die t u => (s.fence t).fence u
    | .port p => s.portDown p true)

/-- PAYLOAD_UNCORRECTABLE (R340, R400): only the context that the header names is affected; data toward a home, a class-0 answer and an
engine's read are sent again. -/
def execPayloadUncorrectable (c : PayloadCtx) (s : State) : Out :=
  s.powered (match c with
    | .strandRead k => s.askDiscard k
    | .redirToLoad k named owner => (s.redirected named owner).askDiscard k
    | .engineRead _ | .toHome | .class0Answer _ => s)

/-! ### REGISTER_WRITE (R6) -/

/-- A write of the endpoint's BAR behind the two doorbells: MBOX takes it, reserved bytes ignore it (R409). -/
def State.barWrite (s : State) (off : Nat) (d : List Byte) : State :=
  if 4096 ≤ off ∧ off + d.length ≤ 2 ^ 20 then { s with boot := { s.boot with mbox := Memory.writeN s.boot.mbox off d } } else s

/-- A byte of the endpoint's BAR as it is read (R409). -/
def State.barByte (s : State) (off : Nat) : Byte :=
  if off < 8 then ((toLe 8 s.boot.hdb.toNat)[off]?).getD 0
  else if off < 16 then ((toLe 8 s.boot.ldb.toNat)[off - 8]?).getD 0
  else if 4096 ≤ off ∧ off < 2 ^ 20 then Memory.read s.boot.mbox off
  else 0

/-- A register with no row of its own written: reserved bits keep 0, and a value outside a field's range is ignored (R6). -/
def State.writeDev (s : State) (r : DevReg) (v : Word) : State :=
  match r with
  | .tagwin t => s.writeTagwin t v
  | .rclim t => s.writeRclim t v
  | .seed t => s.writeSeed t v
  | .itb t => s.writeItb t v
  | .ringhold => s.writeRinghold v
  | .lqcfg q => s.writeLqcfg q v
  | .colid => if s.anyHeld then s else { s with colid := BitVec.ofNat 13 (bits v 12 0) }
  | .croute c => if 8192 ≤ c then s else { s with croute := s.croute.put c (v &&& 0x8000000000FFFFFF) }.unreached
  | .esccfg => if bits v 19 0 = 0 then s else { s with escTime := bits v 19 0 }
  | .heatctl => s.writeHeatctl v
  | .pwrlim => if bits v 15 0 < 1800 ∨ 3600 < bits v 15 0 then s
               else { s with boot := { s.boot with pwrlim := BitVec.ofNat 64 (bits v 15 0) } }
  | .eccstat t => s.writeEccstat t v
  | .migdst i => s.writeMigdst i v
  | .xreply t => s.writeXreply t v
  | .bar off => if 16 ≤ off then s.barWrite off (toLe 8 v.toNat) else s
  | .meas _ | .guard => s

/-- REGISTER_WRITE (R6, R14, R43, R187, R269, R314, R328, R329, R341, R394, R403, R404, R408 to R410, R414, R420, R426): in SAFE only PWRLIM, through the management link. -/
def execRegisterWrite (r : DevReg) (v : Word) (s : State) : Out :=
  .next (if s.dark && !(s.boot.stage == .safe && r == .pwrlim) then s else s.writeDev r v)

end Sys2Proof.Machine
end

