-- ==== Sys2Proof/Machine/BringUp.lean ====
section
/-! DEFINITION. Start-up, measurement and attestation, the guard, soft errors, and the host's interface (R409 to R426). SHA-256 is that
of FIPS 180-4 (log 14). -/

namespace Sys2Proof.Machine

/-! ### SHA-256 -/

/-- The whole part of the e-th root of x, found bit by bit from bit n down. -/
def rootOf (e x : Nat) : Nat → Nat → Nat
  | 0, r => r
  | n + 1, r => rootOf e x n (if (r + 2 ^ n) ^ e ≤ x then r + 2 ^ n else r)

/-- The primes up to 311: the first 64. -/
def shaPrimes : List Nat := (List.range 312).filter fun p => 2 ≤ p && (List.range p).all fun d => d < 2 || p % d != 0

/-- The first 32 bits of the fractional part of a prime's e-th root. -/
def rootWord (e p : Nat) : BitVec 32 := BitVec.ofNat 32 (rootOf e (p * 2 ^ (32 * e)) 40 0)

/-- An exclusive or of rotations of a word. -/
def turns (x : BitVec 32) (ns : List Nat) : BitVec 32 := ns.foldl (fun v n => v ^^^ x.rotateRight n) 0

/-- The message schedule extended by n words; the 16 newest words stand first, the newest before them all. -/
def shaExtend : Nat → List (BitVec 32) → List (BitVec 32)
  | 0, ws => ws
  | n + 1, ws =>
    let back (i : Nat) : BitVec 32 := (ws[i - 1]?).getD 0
    let low := turns (back 15) [7, 18] ^^^ (back 15).ushiftRight 3
    let high := turns (back 2) [17, 19] ^^^ (back 2).ushiftRight 10
    shaExtend n (([back 16, back 7, low, high].foldl (· + ·) 0) :: ws)

/-- A round on the working variables, with its constant and its schedule word. -/
def shaRound : List (BitVec 32) → BitVec 32 × BitVec 32 → List (BitVec 32)
  | [a, b, c, d, e, f, g, h], (k, w) =>
    let mix := [h, turns e [6, 11, 25], g ^^^ (e &&& (f ^^^ g)), k, w].foldl (· + ·) 0
    let pick := turns a [2, 13, 22] + ((a &&& b) ||| (c &&& (a ||| b)))
    [mix + pick, a, b, c, d + mix, e, f, g]
  | vs, _ => vs

/-- A number as n big-endian bytes. -/
def toBe (n v : Nat) : List Byte := (toLe n v).reverse

/-- Big-endian words of 4 bytes. -/
def beWords : Nat → List Byte → List (BitVec 32)
  | 0, _ => []
  | n + 1, d => BitVec.ofNat 32 (leNat (d.take 4).reverse) :: beWords n (d.drop 4)

/-- The hash value after n more blocks of a padded message. -/
def shaBlocks : Nat → List Byte → List (BitVec 32) → List (BitVec 32)
  | 0, _, h => h
  | n + 1, d, h =>
    let ws := (shaExtend 48 (beWords 16 d).reverse).reverse
    shaBlocks n (d.drop 64) (h.zipWith (· + ·) ((shaPrimes.map (rootWord 3)).zip ws |>.foldl shaRound h))

/-- SHA-256 of a list of bytes: the message is followed by a 1 bit, zeros, and its length in bits in the last 8 bytes of a block. -/
def sha256 (d : List Byte) : BitVec 256 :=
  let n := ceilDiv (d.length + 9) 64
  let padded := d ++ 128#8 :: List.replicate (64 * n - (d.length + 9)) 0#8 ++ toBe 8 (8 * d.length)
  let h := shaBlocks n padded ((shaPrimes.take 8).map (rootWord 2))
  BitVec.ofNat 256 (leNat (h.reverse.flatMap fun x => toLe 4 x.toNat))

/-! ### Measurement and attestation (R413 to R418) -/

/-- MEASi := SHA-256(MEASi ‖ d). -/
def State.extendMeas (s : State) (i : Nat) (d : List Byte) : State :=
  if i < 4 then
    { s with boot := { s.boot with meas := s.boot.meas.set i (sha256 (toBe 32 ((s.boot.meas[i]?).getD 0).toNat ++ d)) } }
  else s

/-- MEAS_EXTEND (R414). -/
def execMeasExtend (i : Nat) (digest : List Byte) (s : State) : Out := .next (if s.dark then s else s.extendMeas i digest)

/-- DEVID (R415): the 60-byte public key as it is read. -/
def devid : List Byte := (List.range 60).map Config.deviceKey

/-- QUOTE_REQUEST (R418): served in the order of the request writes. -/
def execQuoteRequest (nonce : List Byte) (s : State) : Out :=
  .next { s with boot := { s.boot with quotes := s.boot.quotes ++ [nonce] } }

/-- The next one-time index of this start's block (R416, R417). -/
def Boot.nextIndex (b : Boot) : Option Nat := match b.block with
  | some c => if b.quoteUsed < 2 ^ 28 then some (2 ^ 28 * (c - 1) + b.quoteUsed) else none
  | none => none

/-- QUOTE_SERVE (R416 to R418). -/
def execQuoteServe (s : State) : Out :=
  .next (if s.dark then s else match s.boot.quotes with
    | [] => s
    | nonce :: rest =>
      let head := nonce.take 32 ++ List.replicate (32 - nonce.length) 0 ++ s.boot.meas.flatMap (fun m => toBe 32 m.toNat) ++ toLe 2 s.chip
      match s.boot.nextIndex with
      | none => { s with boot := { s.boot with quotes := rest, quote := head ++ List.replicate 3610 0 ++ toLe 4 1 } }
      | some q =>
        let body := head ++ toLe 6 q
        let sig := Config.hssSign q body
        { s with boot := { s.boot with quotes := rest, quoteUsed := s.boot.quoteUsed + 1,
                                       quote := body ++ sig.take 3604 ++ List.replicate (3604 - sig.length) 0 ++ toLe 4 0 } })

/-! ### Stages (R410 to R413, R416) -/

/-- The module reset as a whole: only flash and blown fuses stay. -/
def State.resetTo (s : State) (st : Stage) : State :=
  { State.reset with boot := { State.reset.boot with stage := st, flash := s.boot.flash, fuses := s.boot.fuses } }

/-- The boot ROM: an image that verifies is measured and runs, and the next fuse is blown; otherwise SAFE (R410, R413, R416, R417). -/
def State.bootRom (s : State) : State :=
  if s.boot.flash.isEmpty || !Config.romAccepts s.boot.flash then { s with boot := { s.boot with stage := .safe } }
  else
    let s := s.extendMeas 0 (toBe 32 (sha256 s.boot.flash).toNat)
    let more := s.boot.fuses < 4096
    { s with boot := { s.boot with stage := .stage1, fuses := if more then s.boot.fuses + 1 else s.boot.fuses,
                                   block := if more then some (s.boot.fuses + 1) else none, quoteUsed := 0 } }

/-- POWER_GOOD (R410, R413, R414, R416): the module is reset and the boot ROM runs. -/
def execPowerGood (s : State) : Out :=
  .next (if s.boot.stage = .off ∨ s.boot.stage = .stage0 then (s.resetTo .stage0).bootRom else s)

/-- SAFE_IMAGE_ARRIVE (R410). -/
def execSafeImageArrive (image : List Byte) (s : State) : Out :=
  .next (if s.boot.stage = .safe then ({ s with boot := { s.boot with flash := image } }).resetTo .stage0 else s)

/-- MEMORY_TRAINING_DONE (R306, R307, R410, R411): failed devices are mapped out; the first Terrace's test begins. -/
def execMemoryTrainingDone (gddrOut lpddrOut : Nat) (s : State) : Out :=
  .next (
    if s.boot.stage ≠ .stage1 then s
    else if 64 ≤ gddrOut then { s with boot := { s.boot with stage := .safe } }
    else
      { s with boot := { s.boot with stage := .stage2, gddr := 64 - gddrOut, lpddr := 16 - lpddrOut } }.modTerrace 0 fun te =>
        { te with state := 1 })

/-- GROVEOK of a Terrace's harvest (R412). -/
def groveOkOf (harvest : List (BitVec 16)) : BitVec 32 :=
  BitVec.ofNat 32 ((List.range 32).foldl (fun v g => if (harvest[g]?).getD 0 = BitVec.allOnes 16 then v else v + 2 ^ g) 0)

/-- After a test during STAGE2 the next Terrace is tested; after the last one the module runs (R410, R411). The end of a Terrace's second
test (ADMIT) starts nothing: the next Terrace has begun already. -/
def State.nextTest (s : State) (t : Nat) : State :=
  if s.boot.stage ≠ .stage2 then s
  else if t < 7 then if (s.terrace (t + 1)).state = 0 then s.modTerrace (t + 1) fun te => { te with state := 1 } else s
  else { s with boot := { s.boot with stage := .run } }

/-- HARV of a Terrace's groves (R412). -/
def State.setHarvest (s : State) (t : Nat) (harvest : List (BitVec 16)) : State :=
  { s with harv := (List.range 32).foldl (fun (h : Tab (BitVec 16)) g => h.put (32 * t + g) ((harvest[g]?).getD 0)) s.harv }

/-- What a test leaves of its Terrace: its state, and the pavilions that it harvested (R410, R412). -/
def State.tested (s : State) (t : Nat) (state : BitVec 3) (harvest : List (BitVec 16)) : State :=
  (s.setHarvest t harvest).modTerrace t fun te => { te with state := state, groveOk := groveOkOf harvest }

/-- TERRACE_TEST_DONE (R303, R410 to R412): an admitted Terrace's refresh period starts; groves that ended tasks had kept there are
free again (log 33). -/
def execTerraceTestDone (t : Nat) (pass : Bool) (harvest : List (BitVec 16)) (s : State) : Out :=
  s.powered (
    if (s.terrace t).state ≠ 1 then s
    else if pass then
      let s := (s.tested t 2 harvest).modTerrace t fun te => { te with seg := 0 }
      let s := { s with boot := { s.boot with served := true } }
      let s : State := { s with tasks := s.tasks.map fun (x : Task) =>
        (if x.status == TaskStatus.ended then { x with groves := x.groves.filter fun g => g / 32 != t } else x) }
      s.nextTest t
    else (s.tested t 4 harvest).nextTest t)

/-- ADMIT (R412). -/
def execAdmit (t : Nat) (s : State) : Out :=
  s.powered (
    if ((s.terrace t).state == 3 || (s.terrace t).state == 4) && !s.terraceHeld t then s.modTerrace t fun te => { te with state := 1 }
    else s)

/-! ### Power and temperature (R419 to R422) -/

/-- Power is removed: every volatile state is lost. -/
def State.powerOff (s : State) : State := s.resetTo .off

/-- The guard's next step (R421). -/
def Boot.guardNext (b : Boot) (tj power : Nat) : BitVec 3 :=
  let lim := bits b.pwrlim 15 0
  if (100 ≤ tj ∨ lim < power) ∧ b.guardState < 3 then b.guardState + 1
  else if tj < 95 ∧ 100 * power ≤ 95 * lim ∧ 0 < b.guardState then b.guardState - 1
  else b.guardState

/-- GUARD as it is read (R420): TJMAX begins anew with each read. -/
def State.readGuard (s : State) : Word × State :=
  (BitVec.ofNat 64 (s.boot.guardState.toNat * 2 ^ 61 + s.boot.tjMax.toNat * 2 ^ 48 + s.boot.power.toNat),
   { s with boot := { s.boot with tjMax := 0 } })

/-- GUARD_TICK (R410, R420 to R422). Whether GUARD has been read since the last tick is free (log 13). -/
def execGuardTick (tj power : Nat) (s : State) : Out :=
  .next (
    if s.boot.stage = .off then s
    else if 115 ≤ tj then s.powerOff
    else
      let s := if Config.freeChoice s.ticks % 2 = 1 then s.tick.readGuard.2 else s.tick
      { s with boot := { s.boot with guardState := s.boot.guardNext tj power, power := BitVec.ofNat 16 power,
                                     tjMax := if s.boot.tjMax.toNat < tj then BitVec.ofNat 8 tj else s.boot.tjMax } })

/-- COOLANT_FLOW_LOST (R421). -/
def execCoolantFlowLost (s : State) : Out := .next s.powerOff

/-- POWER_LOST (R410, R422). -/
def execPowerLost (s : State) : Out := .next s.powerOff

/-! ### Soft errors (R423 to R426) -/

/-- A count of ECCSTAT, saturating. -/
def satInc (x : BitVec 32) : BitVec 32 := if x = BitVec.allOnes 32 then x else x + 1

/-- An error counted in a Terrace's ECCSTAT (R426). -/
def State.eccCount (s : State) (t : Nat) (uncorrectable : Bool) : State :=
  s.modTerrace t fun te => if uncorrectable then { te with uncorr := satInc te.uncorr } else { te with corr := satInc te.corr }

/-- The Terrace that counts an error at a key (log 33). Keys from 2^58 on name places that hold no bytes of memory: 2^20 for the
accumulators and the SRAM of each pavilion (R423). -/
def keyTerrace (key : Nat) : Nat :=
  if 2 ^ 58 ≤ key then terraceOf ((key - 2 ^ 58) / 2 ^ 20 % 4096)
  else if 2 ^ 57 ≤ key then (key - 2 ^ 57) / 2 ^ 31
  else if 2 ^ 56 ≤ key then terraceOf ((key - 2 ^ 56) / 65536 / 16)
  else sliceOf (key % 2 ^ 42)

/-- An 8-byte word poisoned (R425). -/
def State.poisonWord (s : State) (key : Nat) : State :=
  if s.poison.contains (key / 8) then s else { s with poison := s.poison ++ [key / 8] }

/-- A word of the weight store in its Terrace's refresh window (R303, R423). -/
def State.inRefresh (s : State) (key : Nat) : Bool :=
  s.refreshing (keyTerrace key) && (key - 2 ^ 57) % 2 ^ 31 / 2 ^ 25 == (s.terrace (keyTerrace key)).seg

/-- PATROL_SCRUB (R423, R425): an error found at a key is corrected and counted, or counted and poisons the word. Patrol scrubbing reads
the words of memories, and the weight store only inside refresh windows; a correction anywhere else is an ordinary access's (log 96), and
an uncorrectable error there has a row of its own. -/
def execPatrolScrub (pa : Nat) (uncorrectable : Bool) (s : State) : Out :=
  .next (
    if s.dark then s
    else if !uncorrectable then s.eccCount (keyTerrace pa) false
    else if 2 ^ 58 ≤ pa || (2 ^ 57 ≤ pa && !s.inRefresh pa) then s
    else (s.eccCount (keyTerrace pa) true).poisonWord pa)

/-- SOFT_ERROR_DETECTED (R10, R37, R40, R42, R46, R424): the strand's region is discarded; once its boundary instruction has
been performed, the error poisons the tokens of the slot that the block is to fire next with them. -/
def execSoftErrorDetected (e : SoftError) (s : State) : Out :=
  s.powered (match s.strand e.strand with
    | none => s
    | some t =>
      let s := s.eccCount (terraceOf t.pav) true
      if t.phase == .run && t.block.any (·.performed) then
        s.modBlock e.strand fun b => { b with slots := b.slots.modify e.slot fun o => { o with bad := o.status == .idle || o.status == .waiting } }
      else s.askDiscard e.strand)

/-- UNCORRECTABLE_POISON (R425, R426). -/
def execUncorrectablePoison (p : Place) (s : State) : Out :=
  .next (if s.dark then s else match p with
    | .mem pa => (s.eccCount (keyTerrace pa) true).poisonWord pa
    | .bank key => (s.eccCount (keyTerrace key) true).poisonWord key
    | .acc id =>
      { s.eccCount (terraceOf (id / 64)) true with accPoison := if s.accPoison.contains id then s.accPoison else s.accPoison ++ [id] }
    | .reg k n => match s.strand k with
      | none => s
      | some t => (s.eccCount (terraceOf t.pav) true).modStrand k fun t => { t with poison := t.poison ||| BitVec.twoPow 128 n })

/-! ### The host (R409) -/

/-- HDB (R409): an interrupt on the Lodge. -/
def execHdb (v : Word) (s : State) : Out :=
  .next (if s.dark then s else { s with boot := { s.boot with hdb := v, lodgeIrq := s.boot.lodgeIrq + 1 } })

/-- LODGE_DOORBELL (R409): MSI-X vector 0 to the host. -/
def execLodgeDoorbell (v : Word) (s : State) : Out :=
  .next (if s.dark then s else { s with boot := { s.boot with ldb := v, msix := s.boot.msix + 1 } })

/-- Bytes of physical memory as a party of device scope reads them, at their pages' owners; none where one cannot be read (R274, R306,
R326, R425). -/
def State.deviceRead (s : State) (a n : Nat) : Option (List Byte) :=
  if (s.ownerParts a n).all fun p => s.keyOk (a + p.2.1) && !s.poisoned p.1 p.2.2 then
    some ((s.ownerParts a n).flatMap fun p => s.deviceN p.1 p.2.2)
  else none

/-- ROOT_PORT_REQUEST (R409): a request that the I/O translation admits reaches memory, and a read of as many bytes as `data` has is
completed with what stands there; another request ends with Completer Abort and is logged. A read of a page held for FINAL is taken once
the page is free (R330). -/
def execRootPortRequest (port pa : Nat) (wr : Bool) (data : List Byte) (s : State) : Out :=
  .next (
    if s.dark then s
    else if !Config.ioTranslates port pa then { s with boot := { s.boot with aer := s.boot.aer ++ [(port, pa)] } }
    else if wr then s.physWrite pa data
    else if s.areaHeld pa data.length then s
    else { s with boot := { s.boot with rootData := s.boot.rootData ++ [(port, s.deviceRead pa data.length)] } })

end Sys2Proof.Machine
end

