-- ==== Sys2Proof/Machine/Deques.lean ====
section
/-! DEFINITION. Claims on deques (R38, R161 to R163, R355): who gets an entry for which several slots ask at once. Two requests stand
in one cycle when both slots may fire (log 76). -/

namespace Sys2Proof.Machine

/-- An entry that is visible and unclaimed. -/
def DqState.free : DqState → Bool
  | .visible => true
  | _ => false

/-- The entries of a deque that a claim may take. -/
def Deque.free (d : Deque) : List (Nat × Word × DqState) := d.entries.filter fun e => e.2.2.free

/-- The DQPOP (false) or DQSTEAL (true) of a slot that may fire, with its deque handle. -/
def BlockRun.dequeRequest (b : BlockRun) (j : Nat) : Option (Bool × Word) :=
  match b.gateAt j, b.instr j with
  | .go l _ _, some (.dqpop ..) => some (false, l)
  | .go l _ _, some (.dqsteal ..) => some (true, l)
  | _, _ => none

/-- The pavilions whose strands ask for an entry of a deque: by DQSTEAL, or by DQPOP, which its own pavilion's alone may name (R161). -/
def State.dequeRequests (s : State) (pav dq : Nat) (steal : Bool) : List Nat :=
  (List.range s.strands.length).flatMap fun k => match s.firing k with
    | none => []
    | some (t, b) => (List.range b.words.length).filterMap fun j => match b.dequeRequest j with
        | some (st, h) =>
          if st == steal && (s.task t.task).mate t.pav (bits h 7 4) == pav && bits h 3 0 == dq && bits h 63 8 == 0
            && (st || pav == t.pav) then some t.pav else none
        | none => none

/-- The last visible unclaimed entry is asked for by its owner and by a thief (R163). -/
def State.dequeTie (s : State) (pav dq : Nat) : Bool :=
  (s.deque pav dq).free.length == 1 && !(s.dequeRequests pav dq true).isEmpty && !(s.dequeRequests pav dq false).isEmpty

/-- The thief pavilion whose turn it is: the first of those that ask, after the one that won last (R355). -/
def State.thiefTurn (s : State) (pav dq : Nat) : Option Nat :=
  let asks := s.dequeRequests pav dq true
  let from1 := ((s.deque pav dq).last.map fun l => l % 16 + 1).getD 0
  ((List.range 16).map fun i => groveOf pav * 16 + (from1 + i) % 16).find? asks.contains

/-- A claim of an entry (R38): it is absent for everyone until the publish removes it or a discard returns it. A tie goes to the owner
and to a thief in turn (R163). -/
def claimEff (c : Ctx) (s : State) (pav dq : Nat) (steal : Bool) (e : Option (Nat × Word × DqState)) : Eff :=
  match e with
  | none => .val s 0
  | some (id, v, _) =>
    let d := s.deque pav dq
    let d' := { d with entries := d.entries.map fun x => if x.1 = id then (x.1, x.2.1, .claimed c.k) else x
                       thief := if s.dequeTie pav dq then !steal else d.thief
                       last := if steal then some c.t.pav else d.last }
    let s := s.setDeque pav dq d'
    .val (s.modStrand c.k fun t => { t with region := { t.region with claims := t.region.claims ++ [(pav, dq, id)] } }) v

/-- DQPOP (R162, R163): the bottom visible entry. -/
def execDqpop (p : Pred) (a b : Target) (s : State) : Out :=
  fireEff p .left a b (fun c s l _ _ =>
    checked (dequeChecks c s l true)
      (let pav := dequePav c s l
       let d := s.deque pav (bits l 3 0)
       if s.dequeTie pav (bits l 3 0) && d.thief then .wait
       else claimEff c s pav (bits l 3 0) false (d.entries.reverse.find? fun e => e.2.2.free))) s

/-- DQSTEAL (R162, R163, R355): the top visible entry of any pavilion of the grove; PERF 6 counts it there (R272). -/
def execDqsteal (p : Pred) (a b : Target) (s : State) : Out :=
  fireEff p .left a b (fun c s l _ _ =>
    checked (dequeChecks c s l false)
      (let pav := dequePav c s l
       let d := s.deque pav (bits l 3 0)
       let e := d.entries.find? fun e => e.2.2.free
       if e.isSome && (s.thiefTurn pav (bits l 3 0) != some c.t.pav || (s.dequeTie pav (bits l 3 0) && !d.thief)) then .wait
       else claimEff c (if e.isSome then s.addPerf pav 6 1 else s) pav (bits l 3 0) true e)) s

end Sys2Proof.Machine
end

