-- ==== Sys2Proof/Machine/Flags.lean ====
section
/-! DEFINITION. The N9 has no flags register: tests send 1 or 0 as a token (R138, R149). These are the conditions of the
tests, and the classification of floating values that FCLASS sends (R154). -/

namespace Sys2Proof.Machine

def testEq (x y : Word) : Word := boolWord (x == y)
def testNe (x y : Word) : Word := boolWord (x != y)
/-- Signed less than. -/
def testLt (x y : Word) : Word := boolWord (x.slt y)
def testLe (x y : Word) : Word := boolWord (x.sle y)
/-- Unsigned less than. -/
def testLtu (x y : Word) : Word := boolWord (x.ult y)
def testLeu (x y : Word) : Word := boolWord (x.ule y)
/-- Bit right[5:0] of left. -/
def testBit (x y : Word) : Word := boolWord (x.getLsbD (bits y 5 0))

end Sys2Proof.Machine
end

