-- ==== Sys2Proof/Machine/Float.lean ====
section
/-! DEFINITION. Scalar floating point (R138, R153 to R155). -/

namespace Sys2Proof.Machine

/-- The format field of OP 0x16 and OP 0x17 (R127): 0 FP32, 1 FP64, 2 FP16, 3 BF16. -/
def scalarFmt (f : BitVec 2) : Fmt :=
  match f.toNat with
  | 0 => .fp32 | 1 => .fp64 | 2 => .fp16 | _ => .bf16

/-- A floating operand read from the low bits of its token (R138). -/
def fin (f : BitVec 2) (x : Word) : Num := decodeF (scalarFmt f) x.toNat

/-- A result rounded once and placed in the low bits (R138, R154). -/
def fout (f : BitVec 2) (x : Num) : Word := BitVec.ofNat 64 (roundF (scalarFmt f) .rne x)

/-- The arithmetic form of two floating operands. -/
def float2 (f : BitVec 2) (g : Num → Num → Num) (x y : Word) : Word := fout f (g (fin f x) (fin f y))

/-- FADD (R154). -/
def execFadd (p : Pred) (f : BitVec 2) (a b : Target) (s : State) : Out := value2 p a b (float2 f Num.add) s

/-- FSUB (R154). -/
def execFsub (p : Pred) (f : BitVec 2) (a b : Target) (s : State) : Out := value2 p a b (float2 f Num.sub) s

/-- FMUL (R154). -/
def execFmul (p : Pred) (f : BitVec 2) (a b : Target) (s : State) : Out := value2 p a b (float2 f Num.mul) s

/-- FDIV (R154). -/
def execFdiv (p : Pred) (f : BitVec 2) (a b : Target) (s : State) : Out := value2 p a b (float2 f Num.div) s

/-- FSQRT (R154). -/
def execFsqrt (p : Pred) (f : BitVec 2) (a b : Target) (s : State) : Out := value1 p a b (fun x => fout f (fin f x).sqrt) s

/-- FMIN (R154). -/
def execFmin (p : Pred) (f : BitVec 2) (a b : Target) (s : State) : Out := value2 p a b (float2 f Num.min) s

/-- FMAX (R154). -/
def execFmax (p : Pred) (f : BitVec 2) (a b : Target) (s : State) : Out := value2 p a b (float2 f Num.max) s

/-- FCEQ (R154). -/
def execFceq (p : Pred) (f : BitVec 2) (a b : Target) (s : State) : Out :=
  value2 p a b (fun x y => boolWord ((fin f x).eq (fin f y))) s

/-- FCLT (R154). -/
def execFclt (p : Pred) (f : BitVec 2) (a b : Target) (s : State) : Out :=
  value2 p a b (fun x y => boolWord ((fin f x).lt (fin f y))) s

/-- FCLE (R154). -/
def execFcle (p : Pred) (f : BitVec 2) (a b : Target) (s : State) : Out :=
  value2 p a b (fun x y => boolWord ((fin f x).le (fin f y))) s

/-- FCLASS (R154). -/
def execFclass (p : Pred) (f : BitVec 2) (a b : Target) (s : State) : Out :=
  value1 p a b (fun x => BitVec.ofNat 64 (fclass (scalarFmt f) x.toNat)) s

/-- FFMA (R153): one rounding of the exact product and sum. -/
def execFfma (f : BitVec 2) (a b : Target) (s : State) : Out :=
  value3 a b (fun l r c => fout f ((fin f l).fma (fin f r) (fin f c))) s

/-- The source of FCVT (R155). -/
def fcvtSource (f : BitVec 2) (src : Nat) (x : Word) : Num :=
  match src with
  | 0 => fin f x
  | 1 => Num.ofInt x.toInt
  | _ => Num.ofInt x.toNat

/-- The result of FCVT placed (R138, R155): integers sign-extended to 64 bits, floats and PS8 in the low bits. -/
def fcvtPlace (d : Fmt) (v : Nat) : Word :=
  if d.isInt then BitVec.ofInt 64 (signedOf d.width v) else BitVec.ofNat 64 v

/-- FCVT (R155). -/
def execFcvt (p : Pred) (f : BitVec 2) (a b : Target) (s : State) : Out :=
  fireEff p .both a b (fun _ s x c _ =>
    if bits c 63 6 ≠ 0 ∨ bits c 5 4 = 3 then .fault { code := .illegal }
    else
      let d := Fmt.ofTag (bits c 2 0)
      .val s (fcvtPlace d (cvt d (RM.ofBit (bit c 3)) (fcvtSource f (bits c 5 4) x)))) s

end Sys2Proof.Machine
end

