-- ==== Sys2Proof/Machine/Scalar.lean ====
section
/-! DEFINITION. Integer arithmetic, logic and fields, the immediate forms and the tests (R149 to R153). -/

namespace Sys2Proof.Machine

/-- Bits [127:64] of the signed product (R150). -/
def mulHigh (x y : Word) : Word := BitVec.ofInt 64 ((x.toInt * y.toInt) / 2 ^ 64)

/-- Bits [127:64] of the unsigned product (R150). -/
def mulHighU (x y : Word) : Word := BitVec.ofNat 64 (x.toNat * y.toNat / 2 ^ 64)

/-- DIV (R151): truncated toward zero; -1 for a zero divisor; -2^63 by -1 gives -2^63. -/
def divS (x y : Word) : Word := if y = 0 then -1 else x.sdiv y

/-- REM (R151): the sign of x; x for a zero divisor. -/
def remS (x y : Word) : Word := if y = 0 then x else x.srem y

/-- DIVU (R151). -/
def divU (x y : Word) : Word := if y = 0 then -1 else x.udiv y

/-- REMU (R151). -/
def remU (x y : Word) : Word := if y = 0 then x else x.umod y

/-- Leading zero bits among the low n bits, from the top. -/
def clzGo (x : Word) : Nat → Nat
  | 0 => 0
  | n + 1 => if x.getLsbD n then 0 else clzGo x n + 1

/-- CLZ (R150). -/
def clz (x : Word) : Word := BitVec.ofNat 64 (clzGo x 64)

/-- CTZ (R150). -/
def ctz (x : Word) : Word := clz x.reverse

/-- POPC (R150). -/
def popc (x : Word) : Word := BitVec.ofNat 64 ((List.range 64).filter fun i => x.getLsbD i).length

/-- A field length y[5:0], with 0 meaning 64 (R150). -/
def fieldLen (y : Word) : Nat := if bits y 5 0 = 0 then 64 else bits y 5 0

/-- The low n bits. -/
def keepLow (x : Word) (n : Nat) : Word := BitVec.ofNat 64 (x.toNat % 2 ^ n)

/-- The low n bits, sign-extended; n from 1 to 64. -/
def signExt (x : Word) (n : Nat) : Word := BitVec.ofInt 64 (signedOf n x.toNat)

/-- BFX (R150): (x >> p) with bits at and above n cleared; n = 0 means 64. -/
def bfx (x y : Word) : Word :=
  let n := bits y 13 8
  keepLow (x >>> bits y 5 0) (if n = 0 then 64 else n)

/-- BFI (R150): x with bits [p+n-1:p] replaced by y[16+n-1:16]; unchanged for n = 0 or n > 48; bits at or above 64 dropped. -/
def bfi (x y : Word) : Word :=
  let p := bits y 5 0
  let n := bits y 13 8
  if n = 0 ∨ 48 < n then x
  else
    let m : Word := BitVec.ofNat 64 ((2 ^ n - 1) * 2 ^ p)
    (x &&& ~~~m) ||| ((keepLow (y >>> 16) n <<< p) &&& m)

/-- ADD (R150). -/
def execAdd (p : Pred) (a b : Target) (s : State) : Out := value2 p a b (fun x y => x + y) s

/-- SUB (R150). -/
def execSub (p : Pred) (a b : Target) (s : State) : Out := value2 p a b (fun x y => x - y) s

/-- MUL (R150). -/
def execMul (p : Pred) (a b : Target) (s : State) : Out := value2 p a b (fun x y => x * y) s

/-- MULH (R150). -/
def execMulh (p : Pred) (a b : Target) (s : State) : Out := value2 p a b mulHigh s

/-- MULHU (R150). -/
def execMulhu (p : Pred) (a b : Target) (s : State) : Out := value2 p a b mulHighU s

/-- DIV (R150, R151). -/
def execDiv (p : Pred) (a b : Target) (s : State) : Out := value2 p a b divS s

/-- DIVU (R150, R151). -/
def execDivu (p : Pred) (a b : Target) (s : State) : Out := value2 p a b divU s

/-- REM (R150, R151). -/
def execRem (p : Pred) (a b : Target) (s : State) : Out := value2 p a b remS s

/-- REMU (R150, R151). -/
def execRemu (p : Pred) (a b : Target) (s : State) : Out := value2 p a b remU s

/-- AND (R150). -/
def execAnd (p : Pred) (a b : Target) (s : State) : Out := value2 p a b (fun x y => x &&& y) s

/-- OR (R150). -/
def execOr (p : Pred) (a b : Target) (s : State) : Out := value2 p a b (fun x y => x ||| y) s

/-- XOR (R150). -/
def execXor (p : Pred) (a b : Target) (s : State) : Out := value2 p a b (fun x y => x ^^^ y) s

/-- ANDN (R150). -/
def execAndn (p : Pred) (a b : Target) (s : State) : Out := value2 p a b (fun x y => x &&& ~~~y) s

/-- SHL (R150). -/
def execShl (p : Pred) (a b : Target) (s : State) : Out := value2 p a b (fun x y => x <<< bits y 5 0) s

/-- SHR (R150). -/
def execShr (p : Pred) (a b : Target) (s : State) : Out := value2 p a b (fun x y => x >>> bits y 5 0) s

/-- SAR (R150). -/
def execSar (p : Pred) (a b : Target) (s : State) : Out := value2 p a b (fun x y => x.sshiftRight (bits y 5 0)) s

/-- ROTL (R150). -/
def execRotl (p : Pred) (a b : Target) (s : State) : Out := value2 p a b (fun x y => x.rotateLeft (bits y 5 0)) s

/-- CLZ (R150). -/
def execClz (p : Pred) (a b : Target) (s : State) : Out := value1 p a b clz s

/-- CTZ (R150). -/
def execCtz (p : Pred) (a b : Target) (s : State) : Out := value1 p a b ctz s

/-- POPC (R150). -/
def execPopc (p : Pred) (a b : Target) (s : State) : Out := value1 p a b popc s

/-- MIN (R150). -/
def execMin (p : Pred) (a b : Target) (s : State) : Out := value2 p a b (fun x y => if x.slt y then x else y) s

/-- MAX (R150). -/
def execMax (p : Pred) (a b : Target) (s : State) : Out := value2 p a b (fun x y => if x.slt y then y else x) s

/-- MINU (R150). -/
def execMinu (p : Pred) (a b : Target) (s : State) : Out := value2 p a b (fun x y => if x.ult y then x else y) s

/-- MAXU (R150). -/
def execMaxu (p : Pred) (a b : Target) (s : State) : Out := value2 p a b (fun x y => if x.ult y then y else x) s

/-- SEXT (R150). -/
def execSext (p : Pred) (a b : Target) (s : State) : Out := value2 p a b (fun x y => signExt x (fieldLen y)) s

/-- ZEXT (R150). -/
def execZext (p : Pred) (a b : Target) (s : State) : Out := value2 p a b (fun x y => keepLow x (fieldLen y)) s

/-- BFX (R150). -/
def execBfx (p : Pred) (a b : Target) (s : State) : Out := value2 p a b bfx s

/-- BFI (R150). -/
def execBfi (p : Pred) (a b : Target) (s : State) : Out := value2 p a b bfi s

/-- TEQ (R149). -/
def execTeq (p : Pred) (a b : Target) (s : State) : Out := value2 p a b testEq s

/-- TNE (R149). -/
def execTne (p : Pred) (a b : Target) (s : State) : Out := value2 p a b testNe s

/-- TLT (R149). -/
def execTlt (p : Pred) (a b : Target) (s : State) : Out := value2 p a b testLt s

/-- TLE (R149). -/
def execTle (p : Pred) (a b : Target) (s : State) : Out := value2 p a b testLe s

/-- TLTU (R149). -/
def execTltu (p : Pred) (a b : Target) (s : State) : Out := value2 p a b testLtu s

/-- TLEU (R149). -/
def execTleu (p : Pred) (a b : Target) (s : State) : Out := value2 p a b testLeu s

/-- TBIT (R149). -/
def execTbit (p : Pred) (a b : Target) (s : State) : Out := value2 p a b testBit s

/-- ADDI (R152). -/
def execAddi (p : Pred) (imm : BitVec 15) (a : Target) (s : State) : Out := value1 p a .none (fun x => x + sext imm) s

/-- ANDI (R152). -/
def execAndi (p : Pred) (imm : BitVec 15) (a : Target) (s : State) : Out := value1 p a .none (fun x => x &&& sext imm) s

/-- ORI (R152). -/
def execOri (p : Pred) (imm : BitVec 15) (a : Target) (s : State) : Out := value1 p a .none (fun x => x ||| sext imm) s

/-- XORI (R152). -/
def execXori (p : Pred) (imm : BitVec 15) (a : Target) (s : State) : Out := value1 p a .none (fun x => x ^^^ sext imm) s

/-- SHLI (R152). -/
def execShli (p : Pred) (n : BitVec 6) (a : Target) (s : State) : Out := value1 p a .none (fun x => x <<< n.toNat) s

/-- SHRI (R152). -/
def execShri (p : Pred) (n : BitVec 6) (a : Target) (s : State) : Out := value1 p a .none (fun x => x >>> n.toNat) s

/-- SARI (R152). -/
def execSari (p : Pred) (n : BitVec 6) (a : Target) (s : State) : Out := value1 p a .none (fun x => x.sshiftRight n.toNat) s

/-- TEQI (R149). -/
def execTeqi (p : Pred) (imm : BitVec 15) (a : Target) (s : State) : Out := value1 p a .none (fun x => testEq x (sext imm)) s

/-- TLTI (R149). -/
def execTlti (p : Pred) (imm : BitVec 15) (a : Target) (s : State) : Out := value1 p a .none (fun x => testLt x (sext imm)) s

/-- SEL (R153). -/
def execSel (a b : Target) (s : State) : Out := value3 a b (fun l r c => if bit c 0 then l else r) s

/-- LEA (R153). -/
def execLea (p : Pred) (n : BitVec 2) (a b : Target) (s : State) : Out := value2 p a b (fun l r => l + (r <<< n.toNat)) s

end Sys2Proof.Machine
end

