-- ==== Sys2Proof/Machine/Dispatch.lean ====
section
/-! DEFINITION. One arm for every constructor of `Instr`: a direct call of its meaning, or a rejection by name. -/

namespace Sys2Proof.Machine

def exec (i : Instr) (s : State) : Host.Outcome State Fault Refusal :=
  match i with
  | .read r a b => Sys2Proof.Machine.execRead r a b s
  | .write r => Sys2Proof.Machine.execWrite r s
  | .readp r a b => Sys2Proof.Machine.execReadp r a b s
  | .writep r => Sys2Proof.Machine.execWritep r s
  | .mov p a b => Sys2Proof.Machine.execMov p a b s
  | .nul a b => Sys2Proof.Machine.execNul a b s
  | .stop p => Sys2Proof.Machine.execStop p s
  | .yield p => Sys2Proof.Machine.execYield p s
  | .self p a b => Sys2Proof.Machine.execSelf p a b s
  | .genc imm a => Sys2Proof.Machine.execGenc imm a s
  | .appc p imm a => Sys2Proof.Machine.execAppc p imm a s
  | .bro p off => Sys2Proof.Machine.execBro p off s
  | .bri p => Sys2Proof.Machine.execBri p s
  | .call p => Sys2Proof.Machine.execCall p s
  | .calli p => Sys2Proof.Machine.execCalli p s
  | .ret p => Sys2Proof.Machine.execRet p s
  | .add p a b => Sys2Proof.Machine.execAdd p a b s
  | .sub p a b => Sys2Proof.Machine.execSub p a b s
  | .mul p a b => Sys2Proof.Machine.execMul p a b s
  | .mulh p a b => Sys2Proof.Machine.execMulh p a b s
  | .mulhu p a b => Sys2Proof.Machine.execMulhu p a b s
  | .div p a b => Sys2Proof.Machine.execDiv p a b s
  | .divu p a b => Sys2Proof.Machine.execDivu p a b s
  | .rem p a b => Sys2Proof.Machine.execRem p a b s
  | .remu p a b => Sys2Proof.Machine.execRemu p a b s
  | .and p a b => Sys2Proof.Machine.execAnd p a b s
  | .or p a b => Sys2Proof.Machine.execOr p a b s
  | .xor p a b => Sys2Proof.Machine.execXor p a b s
  | .andn p a b => Sys2Proof.Machine.execAndn p a b s
  | .shl p a b => Sys2Proof.Machine.execShl p a b s
  | .shr p a b => Sys2Proof.Machine.execShr p a b s
  | .sar p a b => Sys2Proof.Machine.execSar p a b s
  | .rotl p a b => Sys2Proof.Machine.execRotl p a b s
  | .clz p a b => Sys2Proof.Machine.execClz p a b s
  | .ctz p a b => Sys2Proof.Machine.execCtz p a b s
  | .popc p a b => Sys2Proof.Machine.execPopc p a b s
  | .min p a b => Sys2Proof.Machine.execMin p a b s
  | .max p a b => Sys2Proof.Machine.execMax p a b s
  | .minu p a b => Sys2Proof.Machine.execMinu p a b s
  | .maxu p a b => Sys2Proof.Machine.execMaxu p a b s
  | .sext p a b => Sys2Proof.Machine.execSext p a b s
  | .zext p a b => Sys2Proof.Machine.execZext p a b s
  | .bfx p a b => Sys2Proof.Machine.execBfx p a b s
  | .bfi p a b => Sys2Proof.Machine.execBfi p a b s
  | .addi p imm a => Sys2Proof.Machine.execAddi p imm a s
  | .andi p imm a => Sys2Proof.Machine.execAndi p imm a s
  | .ori p imm a => Sys2Proof.Machine.execOri p imm a s
  | .xori p imm a => Sys2Proof.Machine.execXori p imm a s
  | .shli p n a => Sys2Proof.Machine.execShli p n a s
  | .shri p n a => Sys2Proof.Machine.execShri p n a s
  | .sari p n a => Sys2Proof.Machine.execSari p n a s
  | .teqi p imm a => Sys2Proof.Machine.execTeqi p imm a s
  | .tlti p imm a => Sys2Proof.Machine.execTlti p imm a s
  | .teq p a b => Sys2Proof.Machine.execTeq p a b s
  | .tne p a b => Sys2Proof.Machine.execTne p a b s
  | .tlt p a b => Sys2Proof.Machine.execTlt p a b s
  | .tle p a b => Sys2Proof.Machine.execTle p a b s
  | .tltu p a b => Sys2Proof.Machine.execTltu p a b s
  | .tleu p a b => Sys2Proof.Machine.execTleu p a b s
  | .tbit p a b => Sys2Proof.Machine.execTbit p a b s
  | .fadd p f a b => Sys2Proof.Machine.execFadd p f a b s
  | .fsub p f a b => Sys2Proof.Machine.execFsub p f a b s
  | .fmul p f a b => Sys2Proof.Machine.execFmul p f a b s
  | .fdiv p f a b => Sys2Proof.Machine.execFdiv p f a b s
  | .fsqrt p f a b => Sys2Proof.Machine.execFsqrt p f a b s
  | .fmin p f a b => Sys2Proof.Machine.execFmin p f a b s
  | .fmax p f a b => Sys2Proof.Machine.execFmax p f a b s
  | .fceq p f a b => Sys2Proof.Machine.execFceq p f a b s
  | .fclt p f a b => Sys2Proof.Machine.execFclt p f a b s
  | .fcle p f a b => Sys2Proof.Machine.execFcle p f a b s
  | .fcvt p f a b => Sys2Proof.Machine.execFcvt p f a b s
  | .fclass p f a b => Sys2Proof.Machine.execFclass p f a b s
  | .sel a b => Sys2Proof.Machine.execSel a b s
  | .ffma f a b => Sys2Proof.Machine.execFfma f a b s
  | .lea p n a b => Sys2Proof.Machine.execLea p n a b s
  | .fork p => Sys2Proof.Machine.execFork p s
  | .forkn p => Sys2Proof.Machine.execForkn p s
  | .send p => Sys2Proof.Machine.execSend p s
  | .fralloc p a b => Sys2Proof.Machine.execFralloc p a b s
  | .frfree p => Sys2Proof.Machine.execFrfree p s
  | .tagget p a b => Sys2Proof.Machine.execTagget p a b s
  | .tagset p => Sys2Proof.Machine.execTagset p s
  | .dqpush p a b => Sys2Proof.Machine.execDqpush p a b s
  | .dqpop p a b => Sys2Proof.Machine.execDqpop p a b s
  | .dqsteal p a b => Sys2Proof.Machine.execDqsteal p a b s
  | .rgn scope cls drainpref efence => Sys2Proof.Machine.execRgn scope cls drainpref efence s
  | .rcnt a => Sys2Proof.Machine.execRcnt a s
  | .gbar p a b => Sys2Proof.Machine.execGbar p a b s
  | .gbarx p => Sys2Proof.Machine.execGbarx p s
  | .mring p a b => Sys2Proof.Machine.execMring p a b s
  | .msend p => Sys2Proof.Machine.execMsend p s
  | .mwait p a b => Sys2Proof.Machine.execMwait p a b s
  | .trap p code => Sys2Proof.Machine.execTrap p code s
  | .mfsr p n a => Sys2Proof.Machine.execMfsr p n a s
  | .mtsr p n => Sys2Proof.Machine.execMtsr p n s
  | .resume p a => Sys2Proof.Machine.execResume p a s
  | .tlbi p => Sys2Proof.Machine.execTlbi p s
  | .perf p c a => Sys2Proof.Machine.execPerf p c a s
  | .idle p a => Sys2Proof.Machine.execIdle p a s
  | .ldb p lsid off a => Sys2Proof.Machine.execLdb p lsid off a s
  | .ldh p lsid off a => Sys2Proof.Machine.execLdh p lsid off a s
  | .ldw p lsid off a => Sys2Proof.Machine.execLdw p lsid off a s
  | .ldd p lsid off a => Sys2Proof.Machine.execLdd p lsid off a s
  | .ldsb p lsid off a => Sys2Proof.Machine.execLdsb p lsid off a s
  | .ldsh p lsid off a => Sys2Proof.Machine.execLdsh p lsid off a s
  | .ldsw p lsid off a => Sys2Proof.Machine.execLdsw p lsid off a s
  | .pref p lsid off => Sys2Proof.Machine.execPref p lsid off s
  | .stb p lsid off => Sys2Proof.Machine.execStb p lsid off s
  | .sth p lsid off => Sys2Proof.Machine.execSth p lsid off s
  | .stw p lsid off => Sys2Proof.Machine.execStw p lsid off s
  | .std p lsid off => Sys2Proof.Machine.execStd p lsid off s
  | .aadd p w a b => Sys2Proof.Machine.execAadd p w a b s
  | .aswp p w a b => Sys2Proof.Machine.execAswp p w a b s
  | .acas w a b => Sys2Proof.Machine.execAcas w a b s
  | .amin p w a b => Sys2Proof.Machine.execAmin p w a b s
  | .amax p w a b => Sys2Proof.Machine.execAmax p w a b s
  | .aminu p w a b => Sys2Proof.Machine.execAminu p w a b s
  | .amaxu p w a b => Sys2Proof.Machine.execAmaxu p w a b s
  | .aand p w a b => Sys2Proof.Machine.execAand p w a b s
  | .aor p w a b => Sys2Proof.Machine.execAor p w a b s
  | .axor p w a b => Sys2Proof.Machine.execAxor p w a b s
  | .amaxrs p w a b => Sys2Proof.Machine.execAmaxrs p w a b s
  | .radd p w => Sys2Proof.Machine.execRadd p w s
  | .rmin p w => Sys2Proof.Machine.execRmin p w s
  | .rmax p w => Sys2Proof.Machine.execRmax p w s
  | .rand p w => Sys2Proof.Machine.execRand p w s
  | .ror p w => Sys2Proof.Machine.execRor p w s
  | .rxor p w => Sys2Proof.Machine.execRxor p w s
  | .rfadd p w => Sys2Proof.Machine.execRfadd p w s
  | .cpy p => Sys2Proof.Machine.execCpy p s
  | .cpyt p => Sys2Proof.Machine.execCpyt p s
  | .coll p => Sys2Proof.Machine.execColl p s
  | .wsld p => Sys2Proof.Machine.execWsld p s
  | .wsref p a b => Sys2Proof.Machine.execWsref p a b s
  | .bufdef p => Sys2Proof.Machine.execBufdef p s
  | .bufinfo p a b => Sys2Proof.Machine.execBufinfo p a b s
  | .waitf p a b => Sys2Proof.Machine.execWaitf p a b s
  | .waite p a b => Sys2Proof.Machine.execWaite p a b s
  | .advp p => Sys2Proof.Machine.execAdvp p s
  | .advc p => Sys2Proof.Machine.execAdvc p s
  | .sload p => Sys2Proof.Machine.execSload p s
  | .sstore p => Sys2Proof.Machine.execSstore p s
  | .vadd p a b => Sys2Proof.Machine.execVadd p a b s
  | .vsub p a b => Sys2Proof.Machine.execVsub p a b s
  | .vmul p a b => Sys2Proof.Machine.execVmul p a b s
  | .vfma a b => Sys2Proof.Machine.execVfma a b s
  | .vmin p a b => Sys2Proof.Machine.execVmin p a b s
  | .vmax p a b => Sys2Proof.Machine.execVmax p a b s
  | .vabs p a b => Sys2Proof.Machine.execVabs p a b s
  | .vneg p a b => Sys2Proof.Machine.execVneg p a b s
  | .vexp2 p a b => Sys2Proof.Machine.execVexp2 p a b s
  | .vrcp p a b => Sys2Proof.Machine.execVrcp p a b s
  | .vrsq p a b => Sys2Proof.Machine.execVrsq p a b s
  | .vcvt p a b => Sys2Proof.Machine.execVcvt p a b s
  | .vsel p a b => Sys2Proof.Machine.execVsel p a b s
  | .vcmp p a b => Sys2Proof.Machine.execVcmp p a b s
  | .vand p a b => Sys2Proof.Machine.execVand p a b s
  | .vor p a b => Sys2Proof.Machine.execVor p a b s
  | .vxor p a b => Sys2Proof.Machine.execVxor p a b s
  | .vshl p a b => Sys2Proof.Machine.execVshl p a b s
  | .vshr p a b => Sys2Proof.Machine.execVshr p a b s
  | .vredsum p a b => Sys2Proof.Machine.execVredsum p a b s
  | .vredmax p a b => Sys2Proof.Machine.execVredmax p a b s
  | .vredmin p a b => Sys2Proof.Machine.execVredmin p a b s
  | .vscan p a b => Sys2Proof.Machine.execVscan p a b s
  | .vperm p a b => Sys2Proof.Machine.execVperm p a b s
  | .vbcast p a b => Sys2Proof.Machine.execVbcast p a b s
  | .visect p a b => Sys2Proof.Machine.execVisect p a b s
  | .tld p a b => Sys2Proof.Machine.execTld p a b s
  | .tldt p a b => Sys2Proof.Machine.execTldt p a b s
  | .tst p a b => Sys2Proof.Machine.execTst p a b s
  | .tzero p a b => Sys2Proof.Machine.execTzero p a b s
  | .tmma a b => Sys2Proof.Machine.execTmma a b s
  | .tcvt p a b => Sys2Proof.Machine.execTcvt p a b s
  | .tdrain p a b => Sys2Proof.Machine.execTdrain p a b s
  | .steer a b => Sys2Proof.Machine.execSteer a b s
  | .merge p a b => Sys2Proof.Machine.execMerge p a b s
  | .gdef p => Sys2Proof.Machine.execGdef p s
  | .gseed p a b => Sys2Proof.Machine.execGseed p a b s
  | .kput p => Sys2Proof.Machine.execKput p s
  | .kdel p => Sys2Proof.Machine.execKdel p s
  | .kappend p => Sys2Proof.Machine.execKappend p s
  | .kmerge p => Sys2Proof.Machine.execKmerge p s
  | .matchQ a b => Sys2Proof.Machine.execMatchQ a b s
  | .matchc a b => Sys2Proof.Machine.execMatchc a b s
  | .mscan p => Sys2Proof.Machine.execMscan p s
  | .ksum p => Sys2Proof.Machine.execKsum p s
  | .matchb p a b => Sys2Proof.Machine.execMatchb p a b s
  | .mdom p => Sys2Proof.Machine.execMdom p s
  | .topk p a b => Sys2Proof.Machine.execTopk p a b s
  | .itbl p => Sys2Proof.Machine.execItbl p s
  | .itperm p a b => Sys2Proof.Machine.execItperm p a b s
  | .igather p => Sys2Proof.Machine.execIgather p s
  | .walk p => Sys2Proof.Machine.execWalk p s
  | .strandPlace k pav => Sys2Proof.Machine.execStrandPlace k pav s
  | .blockFetch k => Sys2Proof.Machine.execBlockFetch k s
  | .blockCommit k => Sys2Proof.Machine.execBlockCommit k s
  | .loadReturn k slot => Sys2Proof.Machine.execLoadReturn k slot s
  | .regionEnd k => Sys2Proof.Machine.execRegionEnd k s
  | .publishStep2 k => Sys2Proof.Machine.execPublishStep2 k s
  | .queuedPublishResume k => Sys2Proof.Machine.execQueuedPublishResume k s
  | .linePerformedAtHome n => Sys2Proof.Machine.execLinePerformedAtHome n s
  | .heldStrandRecord t => Sys2Proof.Machine.execHeldStrandRecord t s
  | .sendArriveHome m => Sys2Proof.Machine.execSendArriveHome m s
  | .heldSendDeliver n => Sys2Proof.Machine.execHeldSendDeliver n s
  | .forkChildCreate n => Sys2Proof.Machine.execForkChildCreate n s
  | .tagsetRelease k => Sys2Proof.Machine.execTagsetRelease k s
  | .homeAtomicPerform k slot => Sys2Proof.Machine.execHomeAtomicPerform k slot s
  | .homeReductionPerform k => Sys2Proof.Machine.execHomeReductionPerform k s
  | .barrierArrival m => Sys2Proof.Machine.execBarrierArrival m s
  | .groveReturn task g => Sys2Proof.Machine.execGroveReturn task g s
  | .ringRecordArrive m => Sys2Proof.Machine.execRingRecordArrive m s
  | .ringHoldExpire pav ring n => Sys2Proof.Machine.execRingHoldExpire pav ring n s
  | .msendReturnArrive k cv creg status bytes block slot tag => Sys2Proof.Machine.execMsendReturnArrive k cv creg status bytes block slot tag s
  | .engineStart e => Sys2Proof.Machine.execEngineStart e s
  | .engineSlotResume e => Sys2Proof.Machine.execEngineSlotResume e s
  | .engineComplete e => Sys2Proof.Machine.execEngineComplete e s
  | .drainPlace n => Sys2Proof.Machine.execDrainPlace n s
  | .collContributionArrive m => Sys2Proof.Machine.execCollContributionArrive m s
  | .collResultArrive e status vals => Sys2Proof.Machine.execCollResultArrive e status vals s
  | .domainGrant q => Sys2Proof.Machine.execDomainGrant q s
  | .storeQueryGrant q store => Sys2Proof.Machine.execStoreQueryGrant q store s
  | .matchMerge q => Sys2Proof.Machine.execMatchMerge q s
  | .storeDecisions q store => Sys2Proof.Machine.execStoreDecisions q store s
  | .storeKputInsert m => Sys2Proof.Machine.execStoreKputInsert m s
  | .storeKdel m => Sys2Proof.Machine.execStoreKdel m s
  | .collectionKappend e => Sys2Proof.Machine.execCollectionKappend e s
  | .collectionKmerge e => Sys2Proof.Machine.execCollectionKmerge e s
  | .collectionScanGrant e => Sys2Proof.Machine.execCollectionScanGrant e s
  | .itpermPerform k slot => Sys2Proof.Machine.execItpermPerform k slot s
  | .tlbiComplete e => Sys2Proof.Machine.execTlbiComplete e s
  | .residentIterationStart task blk tag toks => Sys2Proof.Machine.execResidentIterationStart task blk tag toks s
  | .residentIterationEnd k => Sys2Proof.Machine.execResidentIterationEnd k s
  | .reconfigTokenPass task => Sys2Proof.Machine.execReconfigTokenPass task s
  | .taskLaunch q => Sys2Proof.Machine.execTaskLaunch q s
  | .taskEnd task aborted => Sys2Proof.Machine.execTaskEnd task aborted s
  | .preemptChoice q => Sys2Proof.Machine.execPreemptChoice q s
  | .preemptSave task => Sys2Proof.Machine.execPreemptSave task s
  | .taskResume task => Sys2Proof.Machine.execTaskResume task s
  | .idleTimeout k slot => Sys2Proof.Machine.execIdleTimeout k slot s
  | .refreshWindowStart t seg => Sys2Proof.Machine.execRefreshWindowStart t seg s
  | .refreshWindowEnd t seg => Sys2Proof.Machine.execRefreshWindowEnd t seg s
  | .migSlotWake slot accepts => Sys2Proof.Machine.execMigSlotWake slot accepts s
  | .precopyPassEnd slot => Sys2Proof.Machine.execPrecopyPassEnd slot s
  | .finalDrained slot => Sys2Proof.Machine.execFinalDrained slot s
  | .mdomAttach m => Sys2Proof.Machine.execMdomAttach m s
  | .mdomDetach m => Sys2Proof.Machine.execMdomDetach m s
  | .mdomServe m => Sys2Proof.Machine.execMdomServe m s
  | .mdomRebuild m => Sys2Proof.Machine.execMdomRebuild m s
  | .mdomClear m => Sys2Proof.Machine.execMdomClear m s
  | .xreplyMapped t recno => Sys2Proof.Machine.execXreplyMapped t recno s
  | .xreplyInvalid t recno => Sys2Proof.Machine.execXreplyInvalid t recno s
  | .weightStoreWrite t off data => Sys2Proof.Machine.execWeightStoreWrite t off data s
  | .fabricPageMove task page pav => Sys2Proof.Machine.execFabricPageMove task page pav s
  | .lqDoorbell q tail => Sys2Proof.Machine.execLqDoorbell q tail s
  | .mtsrFring t v => Sys2Proof.Machine.execMtsrFring t v s
  | .mtsrMdt task v => Sys2Proof.Machine.execMtsrMdt task v s
  | .mtsrRoute task v => Sys2Proof.Machine.execMtsrRoute task v s
  | .mtsrFstat t v => Sys2Proof.Machine.execMtsrFstat t v s
  | .registerWrite r v => Sys2Proof.Machine.execRegisterWrite r v s
  | .heatSnapshot => Sys2Proof.Machine.execHeatSnapshot s
  | .ownerCacheDrop n => Sys2Proof.Machine.execOwnerCacheDrop n s
  | .migGo slot v accepts => Sys2Proof.Machine.execMigGo slot v accepts s
  | .moveOpen srcFrame dstFrame chip slot => Sys2Proof.Machine.execMoveOpen srcFrame dstFrame chip slot s
  | .tile dstFrame idx data poison => Sys2Proof.Machine.execTile dstFrame idx data poison s
  | .commit dstFrame holders behind oldest => Sys2Proof.Machine.execCommit dstFrame holders behind oldest s
  | .commitAck slot => Sys2Proof.Machine.execCommitAck slot s
  | .relay m => Sys2Proof.Machine.execRelay m s
  | .redirCompletion named owner => Sys2Proof.Machine.execRedirCompletion named owner s
  | .retire oldFrame fwdFrame chip => Sys2Proof.Machine.execRetire oldFrame fwdFrame chip s
  | .retireAck oldFrame chip => Sys2Proof.Machine.execRetireAck oldFrame chip s
  | .hold frame chip => Sys2Proof.Machine.execHold frame chip s
  | .stubGone frame => Sys2Proof.Machine.execStubGone frame s
  | .escapeDivert n => Sys2Proof.Machine.execEscapeDivert n s
  | .escapeHandoff n => Sys2Proof.Machine.execEscapeHandoff n s
  | .flitCrcReplay l => Sys2Proof.Machine.execFlitCrcReplay l s
  | .corruptHeaderFence l => Sys2Proof.Machine.execCorruptHeaderFence l s
  | .payloadUncorrectable c => Sys2Proof.Machine.execPayloadUncorrectable c s
  | .portFail p => Sys2Proof.Machine.execPortFail p s
  | .retrain p => Sys2Proof.Machine.execRetrain p s
  | .portTrained p peer => Sys2Proof.Machine.execPortTrained p peer s
  | .powerGood => Sys2Proof.Machine.execPowerGood s
  | .safeImageArrive image => Sys2Proof.Machine.execSafeImageArrive image s
  | .memoryTrainingDone gddrOut lpddrOut => Sys2Proof.Machine.execMemoryTrainingDone gddrOut lpddrOut s
  | .terraceTestDone t pass harvest => Sys2Proof.Machine.execTerraceTestDone t pass harvest s
  | .admitTerrace t => Sys2Proof.Machine.execAdmit t s
  | .guardTick tj power => Sys2Proof.Machine.execGuardTick tj power s
  | .coolantFlowLost => Sys2Proof.Machine.execCoolantFlowLost s
  | .measExtend n digest => Sys2Proof.Machine.execMeasExtend n digest s
  | .quoteRequest nonce => Sys2Proof.Machine.execQuoteRequest nonce s
  | .quoteServe => Sys2Proof.Machine.execQuoteServe s
  | .hdb v => Sys2Proof.Machine.execHdb v s
  | .rootPortRequest port pa wr data => Sys2Proof.Machine.execRootPortRequest port pa wr data s
  | .patrolScrub pa uncorrectable => Sys2Proof.Machine.execPatrolScrub pa uncorrectable s
  | .softErrorDetected e => Sys2Proof.Machine.execSoftErrorDetected e s
  | .uncorrectablePoison p => Sys2Proof.Machine.execUncorrectablePoison p s
  | .lodgeDoorbell v => Sys2Proof.Machine.execLodgeDoorbell v s
  | .powerLost => Sys2Proof.Machine.execPowerLost s

end Sys2Proof.Machine
end

