-- ==== Sys2Proof/Machine/Issue.lean ====
section
/-! DEFINITION. What happens next (R15, R288, R354; logs 3 and 15): which instruction of a block issues, or which event of the
module occurs. A meaning itself says whether its event can occur; here the events are only offered, in an order that keeps the
orders the spec gives and otherwise lets each occur in its turn. -/

namespace Sys2Proof.Machine

/-! ### Instructions of blocks (R15, R171, R354) -/

/-- A list from a position on, and then from its start. -/
def rotated {α : Type} (l : List α) (n : Nat) : List α :=
  if l.length ≤ 1 then l else l.drop (n % l.length) ++ l.take (n % l.length)

/-- The event changes the state: it can occur. -/
def State.canOccur (s : State) (e : Instr) : Bool :=
  match exec e s with
  | .next s' => s' != s
  | _ => false

/-- The instruction of a slot that is ready: one that has not fired and may, or one that waits and can go on. -/
def State.readyAt (s : State) (k : Nat) (b : BlockRun) (j : Nat) : Option Instr :=
  match b.instr j, b.slots[j]? with
  | some i, some o =>
    match o.status with
    | .idle => if b.gateAt j == .notReady then none else some i
    | .waiting => if { s with cur := ⟨k, j⟩ }.canOccur i then some i else none
    | _ => none
  | _, _ => none

/-- The lowest ready slot of a strand's block (log 15): of two ready branches the second is then the higher (R18). -/
def State.readySlot (s : State) (k : Nat) (b : BlockRun) : Option (Nat × Instr) :=
  (List.range b.words.length).findSome? fun j => (s.readyAt k b j).map fun i => (j, i)

/-- A strand with a slot to issue. -/
structure Offer where
  k     : Nat
  pav   : Nat
  young : Bool
  age   : Nat
  slot  : Nat
  instr : Instr

/-- The strands with a ready slot. -/
def State.readyOffers (s : State) : List Offer :=
  (List.range s.strands.length).filterMap fun k => match s.firing k with
    | none => none
    | some (t, b) => (s.readySlot k b).map fun x => ⟨k, t.pav, t.region.young, t.region.age, x.1, x.2⟩

/-- The older of two offers of a pavilion (R147, R354). -/
def Offer.older (a b : Offer) : Bool := if a.young == b.young then a.age < b.age else b.young

/-- The oldest of a list. -/
def oldestOffer : Offer → List Offer → Offer
  | a, [] => a
  | a, b :: rest => oldestOffer (if b.older a then b else a) rest

/-- The instruction that issues: pavilions in rotation, in each the oldest region (R354). -/
def State.issueReady (s : State) (turn : Nat) : Option (Instr × State) :=
  match rotated s.readyOffers turn with
  | [] => none
  | o :: rest =>
    let c := oldestOffer o (rest.filter fun x => x.pav == o.pav)
    some (c.instr, { s with cur := ⟨c.k, c.slot⟩ })

/-! ### Events -/

/-- The first event held that can go on (log 3): what is held keeps its order of arrival, and goes before what arrives later. -/
def heldFirst : List Instr → List Instr → State → Option (Instr × State)
  | _, [], _ => none
  | before, e :: rest, s =>
    let s' := { s with waiting := before.reverse ++ rest }
    match exec e s' with
    | .next r => if r != s'.hold e then some (e, s') else heldFirst (e :: before) rest s
    | _ => heldFirst (e :: before) rest s

/-- The event in flight that arrives next (R288: the order of grants). -/
def State.arrival (s : State) : Option (Instr × State) :=
  match s.agenda with
  | [] => none
  | e :: rest => some (e, { s with agenda := rest })

/-- Events of a strand. -/
def State.strandOffers (s : State) (k : Nat) : List Instr :=
  match s.strand k with
  | none => []
  | some t =>
    if t.state == .waiting then
      (List.range 16).map fun i => .strandPlace k (groveOf t.pav * 16 + (i + Config.freeTurn s.rot) % 16)
    else if t.state == .ended && t.queue.isEmpty then []
    else
      [.blockFetch k, .blockCommit k, .residentIterationEnd k, .regionEnd k, .homeReductionPerform k, .publishStep2 k,
       .queuedPublishResume k, .tagsetRelease k]
      ++ match t.kind with
        | .iteration b => [.residentIterationStart t.task b t.tag t.seeds]
        | .ordinary => []

/-- Events of an engine operation. -/
def engineOffers (i : Nat) : List Instr :=
  [.engineStart i, .engineSlotResume i, .engineComplete i, .tlbiComplete i, .collectionKappend i, .collectionKmerge i,
   .collectionScanGrant i]

/-- The head of a queue lacks groves that victims could give up (R356). -/
def State.preemptOffer (s : State) (q : Nat) : Bool :=
  match s.lacking q with
  | 0 => false
  | n => !((enough n (s.victims (s.queue q).prio)).getD []).isEmpty

/-- Events of tasks and queues. -/
def State.taskOffers (s : State) : List Instr :=
  (s.queues.map fun (x : Nat × LaunchQueue) => .taskLaunch x.1)
  ++ (s.queues.filter fun (x : Nat × LaunchQueue) => s.preemptOffer x.1).map (fun x => .preemptChoice x.1)
  ++ (List.range s.tasks.length).flatMap fun i =>
    [.taskEnd i false, .preemptSave i, .taskResume i]
    ++ ((List.range (s.task i).groves.length).map fun g => .groveReturn i g)
    ++ if (s.task i).token then [.reconfigTokenPass i] else []

/-- Events that occur as soon as their conditions hold. In STAGE0 the boot ROM runs; in OFF power good comes from outside (log 4). -/
def State.offers (s : State) : List Instr :=
  ((List.range s.strands.length).flatMap s.strandOffers)
  ++ (s.engines.flatMap fun (x : Nat × Engine) => engineOffers x.1)
  ++ ((List.range s.stagings.length).map .drainPlace)
  ++ ((List.range s.lines.length).map .linePerformedAtHome)
  ++ ((List.range s.heldSends.length).map .heldSendDeliver)
  ++ ((List.range s.waitKids.length).map .forkChildCreate)
  ++ ((List.range 8).map .heldStrandRecord)
  ++ s.taskOffers
  ++ (s.migs.flatMap fun (x : Nat × MigSlot) => [.migSlotWake x.1 (Config.freeTurn s.rot % 2 == 0), .finalDrained x.1])
  ++ (if s.boot.stage = .stage0 then [.powerGood] else []) ++ [.quoteServe]

/-- Events that occur when a span of time has passed (R186, R273, R303, R330). -/
def State.timedOffers (s : State) : List Instr :=
  ((List.range s.strands.length).flatMap fun k => match s.firing k with
    | none => []
    | some (_, b) => (List.range b.words.length).map fun j => .idleTimeout k j)
  ++ (s.rings.flatMap fun (r : Ring) => (List.range r.held.length).map fun i => .ringHoldExpire r.pav r.ring i)
  ++ ((List.range 8).map fun t => .refreshWindowEnd t (s.terrace t).seg)
  ++ (s.migs.map fun (x : Nat × MigSlot) => .precopyPassEnd x.1)

/-- The events that are offered, those that have waited longest first: one that occurs goes behind all others, so that an event that
can occur again and again occurs (R50). -/
def State.inTurn (s : State) : List Instr :=
  let l := s.offers ++ s.timedOffers
  (s.due.filter l.contains) ++ l.filter fun e => !s.due.contains e

/-- The first event in turn that can occur, among those that need no span of time or, where one passes, among all. -/
def State.occurs (s : State) (timed : Bool) : Option (Instr × State) :=
  (s.inTurn.find? fun e => (timed || !s.timedOffers.contains e) && s.canOccur e).map fun e => (e, { s with due := s.inTurn.erase e })

/-! ### The choice -/

/-- What happens when no instruction is ready: an event held that can go on, else the one in flight that arrives next, else the one
whose turn it is, for which a span of time may have to pass; none when the module is at rest. -/
def State.pickEvent (s : State) : Option (Instr × State) :=
  match heldFirst [] s.waiting s with
  | some x => some x
  | none => match s.arrival with
    | some x => some x
    | none => match s.occurs (Config.freeTurn s.rot % 2 = 0) with
      | some x => some x
      | none => s.occurs true

/-- What happens next: a ready instruction issues (a block holds finitely many, and only events fetch blocks), else an event
occurs (log 15). -/
def State.pick (s : State) : Option (Instr × State) :=
  match s.issueReady s.rot with
  | some x => some x
  | none => s.pickEvent

/-- The rotation advances with every step. -/
def State.turned (s : State) : State := { s with rot := s.rot + 1 }

/-! ### A word placed for the next step (log 5) -/

/-- The operands of a placed word: zeros where it takes operands, and a predicate that lets it fire. -/
def placedSlot (w : Word32) : Slot :=
  let z : Option Token := some (.value 0)
  match decode w with
  | .ok i =>
    { l := if i.uses = .none then none else z
      r := if i.uses = .none ∨ i.uses = .left then none else z
      p := if i.pr = .onTrue then some (.value 1) else if i.pr = .onFalse ∨ i.uses = .three then z else none }
  | .error _ => {}

/-- A strand whose window holds one word and a STOP behind it. -/
def placedStrand (task : Nat) (w : Word32) : Strand :=
  { task := task, pav := 0, state := .ready, phase := .run
    block := some { addr := 0, hdr := 0x04000000, words := [w, 0x10080000], slots := [placedSlot w, {}] } }

/-- A task whose descriptor declares every register and buffer. -/
def placedTask : Task :=
  { number := 0, queue := 0, prio := 0, privileged := true, groves := [0], desc := { regs := 128, buffers := 32, groves := 1, barriers := 256, saveMb := 32 } }

end Sys2Proof.Machine
end

