-- ==== Sys2Proof/Machine/Step.lean ====
section
/-! DEFINITION. The step: one instruction of a block issues, or one event of the module occurs (Issue.lean). -/

namespace Sys2Proof.Machine

/-- One step (log 15). A module at rest stays as it is; one without supply stops (R410). -/
def step (s : State) : Host.Outcome State Fault Refusal :=
  match s.pick with
  | some (i, s') => exec i s'.turned
  | none => if s.boot.stage = .off then .fault .noPower else .next s.turned

/-- The word placed in the window of a strand, so that the next step issues it (log 5): the module runs, the strand stands alone
in it, nothing else is in flight, and the turn is the issue's. -/
def State.withFetchWord (s : State) (_nbits w : Nat) : State :=
  { s with
    boot := { s.boot with stage := .run }, agenda := [], waiting := [], rot := 0, cur := ⟨0, 1⟩
    tasks := [placedTask], nextTask := 1, strands := [placedStrand 0 (BitVec.ofNat 32 w)] }

end Sys2Proof.Machine
end

