-- ==== Sys2Proof/WellFormed.lean ====
section
/-! DEFINITION. Well-formed instructions: an instruction word that an encoding exists for (R117 to R126, R131), and an
event that names units, registers and ranges the module has. Each check refuses by name. -/

namespace Sys2Proof

/-- Why an instruction is ill formed. -/
inductive IllFormed where
  /-- READP or WRITEP of an odd register (LC16). -/
  | oddRegister
  /-- A READP that delivers neither register: its word is WRITEP's (R123). -/
  | noTarget
  /-- A reserved scope of RGN (R125, LC4). -/
  | reservedScope
  /-- A system register number that is not assigned (R269, LC4). -/
  | noSuchRegister
  /-- An event at a unit that the module does not have. -/
  | noSuchUnit
  /-- An event whose data do not fit what it names. -/
  | badRange
deriving DecidableEq, Repr

/-- A Terrace of the module (R1). -/
def terraceOk (t : Nat) : Option IllFormed := if t < 8 then none else some .noSuchUnit

/-- A Colonnade port (R404). -/
def portOk (p : Nat) : Option IllFormed := if p < 24 then none else some .noSuchUnit

/-- What is wrong with an instruction, if anything is. -/
def Instr.ill (i : Instr) : Option IllFormed :=
  match i with
  | .readp r a b => if r.toNat % 2 = 1 then some .oddRegister else if a = .none ∧ b = .none then some .noTarget else none
  | .writep r => if r.toNat % 2 = 1 then some .oddRegister else none
  | .rgn scope _ _ _ => if 4 < scope.toNat then some .reservedScope else none
  | .mfsr _ n _ => if sysRegAssigned n.toNat then none else some .noSuchRegister
  | .mtsr _ n => if sysRegAssigned n.toNat then none else some .noSuchRegister
  | .strandPlace _ pav => if pav < 4096 then none else some .noSuchUnit
  | .heldStrandRecord t => terraceOk t
  | .ringHoldExpire pav ring _ => if pav < 4096 ∧ ring < 16 then none else some .noSuchUnit
  | .xreplyMapped t _ => terraceOk t
  | .xreplyInvalid t _ => terraceOk t
  | .refreshWindowStart t seg => if seg < 64 then terraceOk t else some .noSuchUnit
  | .refreshWindowEnd t seg => if seg < 64 then terraceOk t else some .noSuchUnit
  | .weightStoreWrite t off data => if off + data.length ≤ 2 ^ 31 then terraceOk t else some .badRange
  | .lqDoorbell q _ => if q < 64 then none else some .noSuchUnit
  | .taskLaunch q => if q < 64 then none else some .noSuchUnit
  | .preemptChoice q => if q < 64 then none else some .noSuchUnit
  | .mtsrFring t _ => terraceOk t
  | .mtsrFstat t _ => terraceOk t
  | .migGo slot _ _ => if slot < 8 then none else some .noSuchUnit
  | .migSlotWake slot _ => if slot < 8 then none else some .noSuchUnit
  | .precopyPassEnd slot => if slot < 8 then none else some .noSuchUnit
  | .finalDrained slot => if slot < 8 then none else some .noSuchUnit
  | .commitAck slot => if slot < 8 then none else some .noSuchUnit
  | .tile _ idx data _ => if idx < 512 ∧ data.length = 4096 then none else some .badRange
  | .portFail p => portOk p
  | .retrain p => portOk p
  | .portTrained p _ => portOk p
  | .terraceTestDone t _ harvest => if harvest.length = 32 then terraceOk t else some .badRange
  | .admitTerrace t => terraceOk t
  | .measExtend i digest => if i < 4 ∧ digest.length = 32 then none else some .badRange
  | .quoteRequest nonce => if nonce.length = 32 then none else some .badRange
  | .rootPortRequest _ _ _ data => if data.length ≤ 4096 then none else some .badRange
  | .read .. | .write .. | .mov .. | .nul .. | .stop .. | .yield .. | .self .. | .genc .. | .appc ..
  | .bro .. | .bri .. | .call .. | .calli .. | .ret .. | .add .. | .sub .. | .mul .. | .mulh .. | .mulhu ..
  | .div .. | .divu .. | .rem .. | .remu .. | .and .. | .or .. | .xor .. | .andn .. | .shl .. | .shr ..
  | .sar .. | .rotl .. | .clz .. | .ctz .. | .popc .. | .min .. | .max .. | .minu .. | .maxu .. | .sext ..
  | .zext .. | .bfx .. | .bfi .. | .addi .. | .andi .. | .ori .. | .xori .. | .shli .. | .shri ..
  | .sari .. | .teqi .. | .tlti .. | .teq .. | .tne .. | .tlt .. | .tle .. | .tltu .. | .tleu .. | .tbit ..
  | .fadd .. | .fsub .. | .fmul .. | .fdiv .. | .fsqrt .. | .fmin .. | .fmax .. | .fceq .. | .fclt ..
  | .fcle .. | .fcvt .. | .fclass .. | .sel .. | .ffma .. | .lea .. | .fork .. | .forkn .. | .send ..
  | .fralloc .. | .frfree .. | .tagget .. | .tagset .. | .dqpush .. | .dqpop .. | .dqsteal .. | .rcnt ..
  | .gbar .. | .gbarx .. | .mring .. | .msend .. | .mwait .. | .trap .. | .resume .. | .tlbi .. | .perf ..
  | .idle .. | .ldb .. | .ldh .. | .ldw .. | .ldd .. | .ldsb .. | .ldsh .. | .ldsw .. | .pref .. | .stb ..
  | .sth .. | .stw .. | .std .. | .aadd .. | .aswp .. | .acas .. | .amin .. | .amax .. | .aminu ..
  | .amaxu .. | .aand .. | .aor .. | .axor .. | .amaxrs .. | .radd .. | .rmin .. | .rmax .. | .rand ..
  | .ror .. | .rxor .. | .rfadd .. | .cpy .. | .cpyt .. | .coll .. | .wsld .. | .wsref .. | .bufdef ..
  | .bufinfo .. | .waitf .. | .waite .. | .advp .. | .advc .. | .sload .. | .sstore .. | .vadd ..
  | .vsub .. | .vmul .. | .vfma .. | .vmin .. | .vmax .. | .vabs .. | .vneg .. | .vexp2 .. | .vrcp ..
  | .vrsq .. | .vcvt .. | .vsel .. | .vcmp .. | .vand .. | .vor .. | .vxor .. | .vshl .. | .vshr ..
  | .vredsum .. | .vredmax .. | .vredmin .. | .vscan .. | .vperm .. | .vbcast .. | .visect .. | .tld ..
  | .tldt .. | .tst .. | .tzero .. | .tmma .. | .tcvt .. | .tdrain .. | .steer .. | .merge .. | .gdef ..
  | .gseed .. | .kput .. | .kdel .. | .kappend .. | .kmerge .. | .matchQ .. | .matchc .. | .mscan ..
  | .ksum .. | .matchb .. | .mdom .. | .topk .. | .itbl .. | .itperm .. | .igather .. | .walk ..
  | .blockFetch .. | .blockCommit .. | .loadReturn .. | .regionEnd .. | .publishStep2 ..
  | .queuedPublishResume .. | .linePerformedAtHome .. | .sendArriveHome .. | .heldSendDeliver ..
  | .forkChildCreate .. | .tagsetRelease .. | .homeAtomicPerform .. | .homeReductionPerform ..
  | .barrierArrival .. | .groveReturn .. | .ringRecordArrive .. | .msendReturnArrive .. | .engineStart ..
  | .engineSlotResume .. | .engineComplete .. | .drainPlace .. | .collContributionArrive ..
  | .collResultArrive .. | .domainGrant .. | .storeQueryGrant .. | .matchMerge .. | .storeDecisions ..
  | .storeKputInsert .. | .storeKdel .. | .collectionKappend .. | .collectionKmerge ..
  | .collectionScanGrant .. | .itpermPerform .. | .tlbiComplete .. | .residentIterationStart ..
  | .residentIterationEnd .. | .reconfigTokenPass .. | .taskEnd .. | .preemptSave .. | .taskResume ..
  | .idleTimeout .. | .mdomAttach .. | .mdomDetach .. | .mdomServe .. | .mdomRebuild .. | .mdomClear ..
  | .fabricPageMove .. | .mtsrMdt .. | .mtsrRoute .. | .registerWrite .. | .heatSnapshot ..
  | .ownerCacheDrop .. | .moveOpen .. | .commit .. | .relay .. | .redirCompletion .. | .retire ..
  | .retireAck .. | .hold .. | .stubGone .. | .escapeDivert .. | .escapeHandoff .. | .flitCrcReplay ..
  | .corruptHeaderFence .. | .payloadUncorrectable .. | .powerGood .. | .safeImageArrive ..
  | .memoryTrainingDone .. | .guardTick .. | .coolantFlowLost .. | .quoteServe .. | .hdb ..
  | .patrolScrub .. | .softErrorDetected .. | .uncorrectablePoison .. | .lodgeDoorbell .. | .powerLost .. => none

/-- A well-formed instruction. -/
def Instr.wf (i : Instr) : Bool := i.ill.isNone

end Sys2Proof
end

