-- ==== Sys2Proof/Safety.lean ====
section
/-! DEFINITION. The terms in which claims about the machine are stated: when a slot may fire, what its firing leaves, what
an entry of the deferred list is, and the invariant of memory. -/

namespace Sys2Proof.Machine

/-! ### Memory -/

/-- Memory and the accumulators stand in their canonical form. -/
def State.memOk (s : State) : Prop := Memory.wf s.mem ∧ Memory.wf s.accW ∧ Memory.wf s.accC

/-- A task's TAGWIN is from 1 to 2,048 and its RCLIM from 1 to 255 (R14, R43). -/
def Task.Ok (t : Task) : Prop := 1 ≤ t.tagwin ∧ t.tagwin ≤ 2048 ∧ 1 ≤ t.rclim ∧ t.rclim ≤ 255

/-- What every step keeps: memory and the accumulators in their canonical form, eight Terraces (R1), and the registers whose
fields refuse values: RINGHOLD and ESCCFG are never 0 (R187, R394), PWRLIM stays in its range (R420), and so do every task's TAGWIN and
RCLIM (R14, R43). -/
structure State.Inv (s : State) : Prop where
  memory   : s.memOk
  terraces : s.terraces.length = 8
  ringHold : s.ringHold ≠ 0
  escTime  : s.escTime ≠ 0
  pwrlim   : 1800 ≤ s.boot.pwrlim.toNat ∧ s.boot.pwrlim.toNat ≤ 3600
  tasks    : ∀ t ∈ s.tasks, t.Ok

/-! ### Firing (R15 to R18) -/

/-- The token is a value: no null, and no cancel. -/
def isValue : Option Token → Bool
  | some (.value _) => true
  | _ => false

/-- The predicate operand lets the slot fire (R15). -/
def predOk : Pred → Option Token → Bool
  | .always, _ => true
  | .onTrue, some (.value v) => bit v 0
  | .onFalse, some (.value v) => !bit v 0
  | _, _ => false

/-- Every operand that the form uses holds a value, no operand is a cancel, the predicate lets the slot fire, the slot has not fired,
and no uncorrectable error stands in its tokens (R40). -/
def Slot.mayFire (o : Slot) (p : Pred) (u : Uses) : Bool :=
  (o.status == .idle || o.status == .waiting) && !o.cancelled && predOk p o.p && (usedOperands u o).all isValue && !o.bad

/-- A token put on a target, if there is one. -/
def BlockRun.take (b : BlockRun) (tg : Target) : Option Token → Option BlockRun
  | none => some b
  | some tok => b.put tg tok

/-- The block once slot j has fired and its tokens stand on its two targets; none when an operand is taken already. -/
def BlockRun.fired (b : BlockRun) (j : Nat) (ta tb : Target) (x y : Option Token) : Option BlockRun :=
  ((b.setStatus j .done).take ta x).bind fun b => b.take tb y

/-- The machine once the slot of c has fired: strand t1 goes on with block b2 in its window, BLOCKED while something of the block is
still to come (R10), and PERF 4 has counted the instruction once (R272). -/
def State.firedAt (s1 : State) (c : Ctx) (t1 : Strand) (b2 : BlockRun) : State :=
  (s1.setStrand c.k { t1 with block := some b2, state := if b2.awaits then .blocked else .running }).addPerf c.t.pav 4
    (if c.o.fired then 0 else 1)

/-- Instruction i completes at the slot of c: exec answers the state in which its effect has led to s1, the slot is done and its
tokens stand on its targets. -/
def Completes (i : Instr) (s : State) (c : Ctx) (s1 : State) (ta tb : Target) (x y : Option Token) : Prop :=
  ∀ t1 b1 b2, s1.strand c.k = some t1 → t1.block = some b1 → b1.fired c.j ta tb x y = some b2 →
    exec i s = .next (s1.firedAt c t1 b2)

/-- The same with one value for both targets. -/
def CompletesWith (i : Instr) (s : State) (c : Ctx) (s1 : State) (ta tb : Target) (v : Word) : Prop :=
  Completes i s c s1 ta tb (some (.value v)) (some (.value v))

/-- The slot of c issues, with values on the operands of the form and a predicate that lets it fire. -/
def Issues (s : State) (c : Ctx) (p : Pred) (u : Uses) : Prop := s.ctx = some c ∧ c.o.mayFire p u = true

/-- An instruction that computes one value from its operands, and does nothing else. -/
def SendsValue (i : Instr) (p : Pred) (u : Uses) (ta tb : Target) (f : Word → Word → Word → Word) : Prop :=
  ∀ s c, Issues s c p u → CompletesWith i s c s ta tb (f (opVal c.o.l) (opVal c.o.r) (opVal c.o.p))

/-- The instruction has fired and waits for its answer: the strand is BLOCKED (R10), and PERF 4 has counted it (R272). -/
def State.leftAt (s1 : State) (c : Ctx) : State :=
  ((s1.setSent c.k c.j).settle c.k).addPerf c.t.pav 4 (if c.o.fired then 0 else 1)

/-- The instruction has left its slot for another unit, whose event answers it: e is in flight. -/
def State.sentAt (s1 : State) (c : Ctx) (e : Instr) : State := (s1.push e).leftAt c

/-- The slot waits, and its strand is BLOCKED (R10). -/
def State.waitsAt (s : State) (c : Ctx) : State :=
  (s.setStatus c.k c.j .waiting).modStrand c.k fun t => { t with state := .blocked }

/-- Where an access to n bytes at a key is performed: at the key of the page's owner, which is not held for a move, whose home can
perform it under the name it has, and whose bytes are not poisoned (R287, R306, R330, R332, R401, R425). -/
def State.PerformedAt (s : State) (named n key : Nat) : Prop :=
  key = s.ownerKey named ∧ s.frameHeld (frameOf key) = false ∧ s.redirHeld (frameOf key) = false ∧ s.keyOk named = true ∧
    (n ≠ 0 → s.poisoned key n = false)

/-! ### Deferred instructions (R134) -/

/-- An entry at the end of the region's deferred list, with the block and slot of its instruction. -/
def State.deferred (s : State) (c : Ctx) (d : Deferred) : State :=
  s.modStrand c.k fun t =>
    { t with region := { t.region with deferred := t.region.deferred ++ [{ d with block := c.b.addr, slot := c.j }] } }

/-- The strand of c with that entry at the end of its region's list. -/
def Strand.noted (t : Strand) (c : Ctx) (d : Deferred) : Strand :=
  { t with region := { t.region with deferred := t.region.deferred ++ [{ d with block := c.b.addr, slot := c.j }] } }

/-- A deferred instruction that takes an entry of its own: while the list has room and what `ok` says holds, its entry stands
at the end of the list, and it sends `v`, if it has a result. -/
def Defers (i : Instr) (p : Pred) (u : Uses) (ta tb : Target) (ok : State → Ctx → Prop) (d : State → Ctx → Deferred)
    (v : State → Ctx → Option Word) : Prop :=
  ∀ s c, Issues s c p u → c.t.region.deferred.length < 32 → ok s c →
    Completes i s c (s.deferred c (d s c)) ta tb ((v s c).map .value) ((v s c).map .value)

/-- A deferred instruction that would take a 33rd entry, while what `ok` says holds, takes F_REGION_OVERFLOW (R33). -/
def RefusesFull (i : Instr) (p : Pred) (u : Uses) (ok : State → Ctx → Prop) : Prop :=
  ∀ s c, Issues s c p u → 32 ≤ c.t.region.deferred.length → c.b.performed = false → ok s c →
    exec i s = .next (s.takeFault c.k ⟨{ code := .regionOverflow }, c.b.addr, c.j⟩)

/-! ### Runs of vector instructions (R204) -/

/-- Every run is usable, what is needed of it is there, and nothing that is read is poisoned. -/
def RunsServed (c : Ctx) (s : State) (runs : List Run) : Prop :=
  ∀ r ∈ runs, runBad c s r = false ∧ runReady c s r = true ∧ (r.prod || !runPoisoned c s r) = true

/-- A vector instruction of two sources (R204, R205, R217): once both runs are filled as far as they are read, and the result's
slots are free, it writes g of the elements, pair by pair, packed from the result's first slot on, and sends the completion token
with the number of elements; LENMIS says that the lengths differ. -/
def VecMaps2 (i : Instr) (p : Pred) (a b : Target) (ok : Fmt → Bool) (g : Fmt → Nat → Nat → Nat) : Prop :=
  ∀ s c x y n, Issues s c p .both → x = vref (opVal c.o.l) → y = vref (opVal c.o.r) → n = min x.len y.len →
    x.low = false → y.ctl = 0 → x.fmt = y.fmt → ok x.fmt = true →
    RunsServed c s [x.run n, y.run n, x.dst (runBytes x.fmt n)] →
    CompletesWith i s c
      (writeRun c s x.dbuf x.dk (pack x.fmt (((elems c s x n).zip (elems c s y n)).map fun e => g x.fmt e.1 e.2))) a b
      (completion (decide (x.len ≠ y.len)) false false n)

/-- A vector instruction of one source (R204, R205, R217). -/
def VecMaps1 (i : Instr) (p : Pred) (a b : Target) (ok : Fmt → Bool) (g : Fmt → Nat → Nat) : Prop :=
  ∀ s c x, Issues s c p .left → x = vref (opVal c.o.l) → x.low = false → ok x.fmt = true →
    RunsServed c s [x.run x.len, x.dst (runBytes x.fmt x.len)] →
    CompletesWith i s c (writeRun c s x.dbuf x.dk (pack x.fmt ((elems c s x x.len).map (g x.fmt)))) a b
      (completion false false false x.len)

/-- A vector instruction that sends one value of its source's elements (R219). -/
def VecFolds (i : Instr) (p : Pred) (a b : Target) (g : Fmt → List Nat → Word) : Prop :=
  ∀ s c x, Issues s c p .left → x = vref (opVal c.o.l) → x.low = false → arithFmt x.fmt = true →
    RunsServed c s [x.run x.len] → CompletesWith i s c s a b (g x.fmt (elems c s x x.len))

end Sys2Proof.Machine

namespace Sys2Proof

/-- The instructions that compute a value from operands, registers of their strand or counters, and those that only resolve a
write, a store, a reduction or a branch. -/
def Instr.isLocal : Instr → Prop
  | .read .. | .readp .. | .write .. | .writep .. | .mov .. | .nul .. | .self .. | .genc .. | .appc .. | .bro .. | .bri ..
  | .call .. | .calli .. | .ret .. | .stop .. | .yield .. | .add .. | .sub .. | .mul .. | .mulh .. | .mulhu .. | .div ..
  | .divu .. | .rem .. | .remu .. | .and .. | .or .. | .xor .. | .andn .. | .shl .. | .shr .. | .sar .. | .rotl .. | .clz ..
  | .ctz .. | .popc .. | .min .. | .max .. | .minu .. | .maxu .. | .sext .. | .zext .. | .bfx .. | .bfi .. | .addi ..
  | .andi .. | .ori .. | .xori .. | .shli .. | .shri .. | .sari .. | .teqi .. | .tlti .. | .teq .. | .tne .. | .tlt ..
  | .tle .. | .tltu .. | .tleu .. | .tbit .. | .fadd .. | .fsub .. | .fmul .. | .fdiv .. | .fsqrt .. | .fmin .. | .fmax ..
  | .fceq .. | .fclt .. | .fcle .. | .fcvt .. | .fclass .. | .sel .. | .ffma .. | .lea .. | .tagget .. | .rcnt .. | .rgn ..
  | .pref .. | .stb .. | .sth .. | .stw .. | .std .. | .radd .. | .rmin .. | .rmax .. | .rand .. | .ror .. | .rxor ..
  | .rfadd .. | .steer .. | .merge .. | .bufinfo .. | .waitf .. | .waite .. | .gseed .. => True
  | _ => False

end Sys2Proof
end

