-- ==== Sys2Proof/Certificates/Slice0/Obligations.lean ====
section
/-! DEFINITION. The statements about the machine, for the provers. `Parts` are claims of one shape that an obligation puts
together; the obligations stand at the end of each section. Each is a proposition about `exec`, `step`, `decode` or `encode`, or
about an operation that these use; its docstring names the rules of spec/ that it rests on. -/

open Sys2Proof Sys2Proof.Machine

/-! ### Values (R142, R143, R149 to R155, R160, R173) -/

/-- R142, R143: MOV sends its operand; GENC sends the sign extension of its immediate, and APPC its operand shifted left by 15
with the immediate in the low bits. A null that MOV takes stays a null. NULL sends a null to both targets, fires when the block begins,
and has no predicated form. -/
def Sys2Proof.Parts.ConstantsComplete : Prop :=
  (∀ p a b, SendsValue (.mov p a b) p .left a b fun x _ _ => x) ∧
  (∀ p a b s c, s.ctx = some c → (c.o.status = .idle ∨ c.o.status = .waiting) → c.o.cancelled = false → predOk p c.o.p = true →
    c.o.l = some .null →
    exec (.mov p a b) s = .next ((s.setStatus c.k c.j .done).deliver2 c.k a b (some .null) (some .null))) ∧
  (∀ (x : BlockRun) j a b, x.instr j = some (.nul a b) → x.slots[j]? = some {} → x.gateAt j = .go 0 0 0) ∧
  (∀ a b w pr, encode (.nul a b) = some w → (pr = 0x01000000 ∨ pr = 0x02000000 ∨ pr = 0x03000000) →
    ∃ e, decode (w ||| pr) = .error e) ∧
  (∀ imm a, SendsValue (.genc imm a) .always .none a .none fun _ _ _ => BitVec.signExtend 64 imm) ∧
  (∀ p imm a, SendsValue (.appc p imm a) p .left a .none fun x _ _ => BitVec.ofNat 64 (x.toNat * 2 ^ 15 + imm.toNat)) ∧
  (∀ a b s c, Issues s c .always .none → Completes (.nul a b) s c s a b (some .null) (some .null))

/-- R150: the integer instructions of two operands and of one. -/
def Sys2Proof.Parts.IntegersComplete : Prop :=
  (∀ p a b, SendsValue (.add p a b) p .both a b fun x y _ => BitVec.ofNat 64 (x.toNat + y.toNat)) ∧
  (∀ p a b, SendsValue (.sub p a b) p .both a b fun x y _ => BitVec.ofInt 64 (x.toNat - y.toNat)) ∧
  (∀ p a b, SendsValue (.mul p a b) p .both a b fun x y _ => BitVec.ofNat 64 (x.toNat * y.toNat)) ∧
  (∀ p a b, SendsValue (.mulh p a b) p .both a b fun x y _ => BitVec.ofInt 64 (x.toInt * y.toInt / 2 ^ 64)) ∧
  (∀ p a b, SendsValue (.mulhu p a b) p .both a b fun x y _ => BitVec.ofNat 64 (x.toNat * y.toNat / 2 ^ 64)) ∧
  (∀ p a b, SendsValue (.and p a b) p .both a b fun x y _ => x &&& y) ∧
  (∀ p a b, SendsValue (.or p a b) p .both a b fun x y _ => x ||| y) ∧
  (∀ p a b, SendsValue (.xor p a b) p .both a b fun x y _ => x ^^^ y) ∧
  (∀ p a b, SendsValue (.andn p a b) p .both a b fun x y _ => x &&& ~~~y) ∧
  (∀ p a b, SendsValue (.shl p a b) p .both a b fun x y _ => BitVec.ofNat 64 (x.toNat * 2 ^ (y.toNat % 64))) ∧
  (∀ p a b, SendsValue (.shr p a b) p .both a b fun x y _ => BitVec.ofNat 64 (x.toNat / 2 ^ (y.toNat % 64))) ∧
  (∀ p a b, SendsValue (.sar p a b) p .both a b fun x y _ => BitVec.ofInt 64 (x.toInt / 2 ^ (y.toNat % 64))) ∧
  (∀ p a b, SendsValue (.rotl p a b) p .both a b fun x y _ => x.rotateLeft (y.toNat % 64)) ∧
  (∀ p a b, SendsValue (.clz p a b) p .left a b fun x _ _ => clz x) ∧
  (∀ p a b, SendsValue (.ctz p a b) p .left a b fun x _ _ => ctz x) ∧
  (∀ p a b, SendsValue (.popc p a b) p .left a b fun x _ _ => popc x) ∧
  (∀ p a b, SendsValue (.min p a b) p .both a b fun x y _ => if x.toInt ≤ y.toInt then x else y) ∧
  (∀ p a b, SendsValue (.max p a b) p .both a b fun x y _ => if x.toInt ≤ y.toInt then y else x) ∧
  (∀ p a b, SendsValue (.minu p a b) p .both a b fun x y _ => if x.toNat ≤ y.toNat then x else y) ∧
  (∀ p a b, SendsValue (.maxu p a b) p .both a b fun x y _ => if x.toNat ≤ y.toNat then y else x) ∧
  (∀ p a b, SendsValue (.sext p a b) p .both a b fun x y _ => signExt x (fieldLen y)) ∧
  (∀ p a b, SendsValue (.zext p a b) p .both a b fun x y _ => BitVec.ofNat 64 (x.toNat % 2 ^ fieldLen y)) ∧
  (∀ p a b, SendsValue (.bfx p a b) p .both a b fun x y _ => bfx x y) ∧
  (∀ p a b, SendsValue (.bfi p a b) p .both a b fun x y _ => bfi x y)

/-- R142, R143, R150: the constants, MOV and NULL, and the integer instructions complete with their results. -/
def Obligations.ConstantsAndIntegersComplete : Prop :=
  Parts.ConstantsComplete ∧ Parts.IntegersComplete

/-- R151: division truncates toward zero; a zero divisor gives -1 for the quotients and the dividend for the remainders, and
-2^63 by -1 wraps. None of them raises a fault. The word of `div s4.l` is 0x24140084. -/
def Obligations.DivisionsComplete : Prop :=
  (∀ p a b, SendsValue (.div p a b) p .both a b fun x y _ => if y = 0 then -1 else BitVec.ofInt 64 (x.toInt.tdiv y.toInt)) ∧
  (∀ p a b, SendsValue (.divu p a b) p .both a b fun x y _ => if y = 0 then -1 else BitVec.ofNat 64 (x.toNat / y.toNat)) ∧
  (∀ p a b, SendsValue (.rem p a b) p .both a b fun x y _ => if y = 0 then x else BitVec.ofInt 64 (x.toInt.tmod y.toInt)) ∧
  (∀ p a b, SendsValue (.remu p a b) p .both a b fun x y _ => if y = 0 then x else BitVec.ofNat 64 (x.toNat % y.toNat)) ∧
  decode 0x24140084#32 = .ok (.div .always (.left 4) .none)

/-- R150: what CLZ, CTZ and POPC count, and what the field instructions do, bit by bit. -/
def Obligations.BitCounts : Prop :=
  (∀ x : Word, clz x = BitVec.ofNat 64 (if x = 0 then 64 else 63 - Nat.log2 x.toNat)) ∧
  (∀ x : Word, ∀ i, i < 64 → x.getLsbD i = true → (∀ j, j < i → x.getLsbD j = false) → ctz x = BitVec.ofNat 64 i) ∧
  (ctz 0 = 64) ∧
  (∀ x y : Word, popc (x &&& y) + popc (x ||| y) = popc x + popc y) ∧ (popc 0 = 0) ∧
  (∀ i, i < 64 → popc (BitVec.twoPow 64 i) = 1) ∧
  (∀ x y : Word, ∀ i, i < 64 → (bfx x y).getLsbD i =
    (decide (i < (if y.toNat / 256 % 64 = 0 then 64 else y.toNat / 256 % 64)) && x.getLsbD (i + y.toNat % 64))) ∧
  (∀ x y : Word, ∀ i, i < 64 → (bfi x y).getLsbD i =
    if (y.toNat / 256 % 64 ≤ 48 ∧ y.toNat % 64 ≤ i ∧ i < y.toNat % 64 + y.toNat / 256 % 64)
    then y.getLsbD (16 + (i - y.toNat % 64)) else x.getLsbD i)

/-- R152, R149, R153: the immediate forms, the tests, SEL and LEA. -/
def Obligations.ImmediatesAndTestsComplete : Prop :=
  (∀ p imm a, SendsValue (.addi p imm a) p .left a .none fun x _ _ => x + BitVec.signExtend 64 imm) ∧
  (∀ p imm a, SendsValue (.andi p imm a) p .left a .none fun x _ _ => x &&& BitVec.signExtend 64 imm) ∧
  (∀ p imm a, SendsValue (.ori p imm a) p .left a .none fun x _ _ => x ||| BitVec.signExtend 64 imm) ∧
  (∀ p imm a, SendsValue (.xori p imm a) p .left a .none fun x _ _ => x ^^^ BitVec.signExtend 64 imm) ∧
  (∀ p n a, SendsValue (.shli p n a) p .left a .none fun x _ _ => BitVec.ofNat 64 (x.toNat * 2 ^ n.toNat)) ∧
  (∀ p n a, SendsValue (.shri p n a) p .left a .none fun x _ _ => BitVec.ofNat 64 (x.toNat / 2 ^ n.toNat)) ∧
  (∀ p n a, SendsValue (.sari p n a) p .left a .none fun x _ _ => BitVec.ofInt 64 (x.toInt / 2 ^ n.toNat)) ∧
  (∀ p imm a, SendsValue (.teqi p imm a) p .left a .none fun x _ _ => if x.toInt = imm.toInt then 1 else 0) ∧
  (∀ p imm a, SendsValue (.tlti p imm a) p .left a .none fun x _ _ => if x.toInt < imm.toInt then 1 else 0) ∧
  (∀ p a b, SendsValue (.teq p a b) p .both a b fun x y _ => if x = y then 1 else 0) ∧
  (∀ p a b, SendsValue (.tne p a b) p .both a b fun x y _ => if x = y then 0 else 1) ∧
  (∀ p a b, SendsValue (.tlt p a b) p .both a b fun x y _ => if x.toInt < y.toInt then 1 else 0) ∧
  (∀ p a b, SendsValue (.tle p a b) p .both a b fun x y _ => if x.toInt ≤ y.toInt then 1 else 0) ∧
  (∀ p a b, SendsValue (.tltu p a b) p .both a b fun x y _ => if x.toNat < y.toNat then 1 else 0) ∧
  (∀ p a b, SendsValue (.tleu p a b) p .both a b fun x y _ => if x.toNat ≤ y.toNat then 1 else 0) ∧
  (∀ p a b, SendsValue (.tbit p a b) p .both a b fun x y _ => if x.getLsbD (y.toNat % 64) then 1 else 0) ∧
  (∀ a b, SendsValue (.sel a b) .always .three a b fun l r c => if c.getLsbD 0 then l else r) ∧
  (∀ p n a b, SendsValue (.lea p n a b) p .both a b fun l r _ => BitVec.ofNat 64 (l.toNat + r.toNat * 2 ^ n.toNat))

/-- R153, R154: the floating instructions, on values of their format in the low bits of their operands; one rounding, to nearest
even, of the exact result; the comparisons send 1 or 0. -/
def Sys2Proof.Parts.FloatsComplete : Prop :=
  (∀ p f a b, SendsValue (.fadd p f a b) p .both a b fun x y _ => fout f ((fin f x).add (fin f y))) ∧
  (∀ p f a b, SendsValue (.fsub p f a b) p .both a b fun x y _ => fout f ((fin f x).sub (fin f y))) ∧
  (∀ p f a b, SendsValue (.fmul p f a b) p .both a b fun x y _ => fout f ((fin f x).mul (fin f y))) ∧
  (∀ p f a b, SendsValue (.fdiv p f a b) p .both a b fun x y _ => fout f ((fin f x).div (fin f y))) ∧
  (∀ p f a b, SendsValue (.fsqrt p f a b) p .left a b fun x _ _ => fout f (fin f x).sqrt) ∧
  (∀ p f a b, SendsValue (.fmin p f a b) p .both a b fun x y _ => fout f ((fin f x).min (fin f y))) ∧
  (∀ p f a b, SendsValue (.fmax p f a b) p .both a b fun x y _ => fout f ((fin f x).max (fin f y))) ∧
  (∀ p f a b, SendsValue (.fceq p f a b) p .both a b fun x y _ => if (fin f x).eq (fin f y) then 1 else 0) ∧
  (∀ p f a b, SendsValue (.fclt p f a b) p .both a b fun x y _ => if (fin f x).lt (fin f y) then 1 else 0) ∧
  (∀ p f a b, SendsValue (.fcle p f a b) p .both a b fun x y _ => if (fin f x).le (fin f y) then 1 else 0) ∧
  (∀ p f a b, SendsValue (.fclass p f a b) p .left a b fun x _ _ => BitVec.ofNat 64 (fclass (scalarFmt f) x.toNat)) ∧
  (∀ f a b, SendsValue (.ffma f a b) .always .three a b fun x y z => fout f ((fin f x).fma (fin f y) (fin f z)))

/-- R155: FCVT converts its left operand as its control word says; a reserved source, or a nonzero bit where the word requires
zero, raises F_ILLEGAL. -/
def Sys2Proof.Parts.FcvtCompletes : Prop :=
  ∀ p f a b s c, Issues s c p .both →
    (bits (opVal c.o.r) 63 6 = 0 → bits (opVal c.o.r) 5 4 ≠ 3 →
      CompletesWith (.fcvt p f a b) s c s a b
        (fcvtPlace (Fmt.ofTag (bits (opVal c.o.r) 2 0))
          (cvt (Fmt.ofTag (bits (opVal c.o.r) 2 0)) (RM.ofBit (bit (opVal c.o.r) 3))
            (fcvtSource f (bits (opVal c.o.r) 5 4) (opVal c.o.l))))) ∧
    (bits (opVal c.o.r) 63 6 ≠ 0 ∨ bits (opVal c.o.r) 5 4 = 3 → c.b.performed = false →
      exec (.fcvt p f a b) s = .next (s.takeFault c.k ⟨{ code := .illegal }, c.b.addr, c.j⟩))

/-- R153 to R155: the floating instructions complete with their results; FCVT refuses a reserved control word. -/
def Obligations.FloatingInstructionsComplete : Prop :=
  Parts.FloatsComplete ∧ Parts.FcvtCompletes

/-! ### Registers, branches and control (R141 to R148, R160, R171, R173) -/

/-- R141: READ sends the register to both targets, READP sends gN to TA and g(N+1) to TB, when no completion of theirs is
outstanding (R22), none of them is poisoned (R425) and none holds a completion to be raised (R189); what they read is live-in
unless the region has written it (R35). -/
def Sys2Proof.Parts.ReadsComplete : Prop :=
  (∀ r a b s c, Issues s c .always .none →
    c.t.pending.getLsbD r.toNat = false → c.t.poison.getLsbD r.toNat = false → c.t.trapErr.getLsbD r.toNat = false →
    CompletesWith (.read r a b) s c (s.modStrand c.k fun t => t.markLive r.toNat) a b (c.t.reg r.toNat)) ∧
  (∀ r a b s c, Issues s c .always .none →
    (∀ n, n = r.toNat ∨ n = r.toNat + 1 →
      c.t.pending.getLsbD n = false ∧ c.t.poison.getLsbD n = false ∧ c.t.trapErr.getLsbD n = false) →
    Completes (.readp r a b) s c (s.modStrand c.k fun t => (t.markLive r.toNat).markLive (r.toNat + 1)) a b
      (some (.value (c.t.reg r.toNat))) (some (.value (c.t.reg (r.toNat + 1)))))

/-- R22, R189, R425: a READ of a register whose completion is outstanding waits, unless its engine operation is held; a READ of
a poisoned register takes F_UNCORR; a READ of a register that holds a completion to be raised takes F_ENGINE, whose DETAIL is the
register's value. -/
def Sys2Proof.Parts.ReadStops : Prop :=
  ∀ r a b s c, Issues s c .always .none →
    (c.t.pending.getLsbD r.toNat = true → s.heldFor c.k r.toNat = none →
      exec (.read r a b) s = .next (s.waitsAt c)) ∧
    (c.t.pending.getLsbD r.toNat = false → c.t.poison.getLsbD r.toNat = true → c.b.performed = false →
      exec (.read r a b) s = .next (s.takeFault c.k ⟨{ code := .uncorr }, c.b.addr, c.j⟩)) ∧
    (c.t.pending.getLsbD r.toNat = false → c.t.poison.getLsbD r.toNat = false → c.t.trapErr.getLsbD r.toNat = true →
      c.b.performed = false →
      exec (.read r a b) s = .next (s.takeFault c.k ⟨{ code := .engine, detail := c.t.reg r.toNat }, c.b.addr, c.j⟩))

/-- R141, R17, R134: WRITE gives the block's declared write of gN its value, WRITEP those of gN and g(N+1); a null gives no
value, which leaves the register as it is. -/
def Sys2Proof.Parts.WritesComplete : Prop :=
  (∀ r s c, Issues s c .always .left →
    Completes (.write r) s c
      (s.modBlock c.k fun b => { b with writes := b.writes ++ [(c.j, r.toNat, some (opVal c.o.l))] })
      .none .none none none) ∧
  (∀ r s c, Issues s c .always .both →
    Completes (.writep r) s c
      (s.modBlock c.k fun b => { b with writes := b.writes ++
        [(c.j, r.toNat, some (opVal c.o.l)), (c.j, r.toNat + 1, some (opVal c.o.r))] })
      .none .none none none) ∧
  (∀ r s c, s.ctx = some c → (c.o.status = .idle ∨ c.o.status = .waiting) → c.o.l = some .null → c.o.r ≠ some .cancel →
    c.o.p ≠ some .cancel →
    exec (.write r) s = .next ((s.setStatus c.k c.j .done).modBlock c.k fun b =>
      { b with writes := b.writes ++ [(c.j, r.toNat, none)] }))

/-- R22, R141, R189, R425: the reads and writes of a strand's registers, and when a READ waits or faults. -/
def Obligations.RegistersComplete : Prop :=
  Parts.ReadsComplete ∧ Parts.ReadStops ∧ Parts.WritesComplete

/-- R144, R145, R146: the branch of a block. The address of BRO and CALL is relative to the block, modulo 2^57; the others name
it whole; an address above the flat window or one that is not word aligned, and a frame pointer that is neither 0 nor an aligned
flat address, are not taken. STOP ends the strand. -/
def Sys2Proof.Parts.BranchesFire : Prop :=
  (∀ p off s c, Issues s c p .none → c.b.branch = none →
    Completes (.bro p off) s c
      (s.modBlock c.k fun b => { b with branch := some (c.j, .goto (BitVec.ofNat 64
        ((c.b.addr + 4 * BitVec.signExtend 64 off).toNat % 2 ^ 57))) }) .none .none none none) ∧
  (∀ p s c, Issues s c p .left → c.b.branch = none → (opVal c.o.l).toNat < 2 ^ 57 → (opVal c.o.l).toNat % 4 = 0 →
    Completes (.bri p) s c (s.modBlock c.k fun b => { b with branch := some (c.j, .goto (opVal c.o.l)) })
      .none .none none none) ∧
  (∀ p s c next, Issues s c p .both → c.b.branch = none →
    next = BitVec.ofNat 64 ((c.b.addr + opVal c.o.l).toNat % 2 ^ 57) → next.toNat % 4 = 0 →
    (opVal c.o.r).toNat % 8 = 0 → (opVal c.o.r).toNat < 2 ^ 57 →
    Completes (.call p) s c (s.modBlock c.k fun b => { b with branch := some (c.j, .call next (opVal c.o.r)) })
      .none .none none none) ∧
  (∀ p s c, Issues s c p .both → c.b.branch = none → (opVal c.o.l).toNat < 2 ^ 57 → (opVal c.o.l).toNat % 4 = 0 →
    (opVal c.o.r).toNat % 8 = 0 → (opVal c.o.r).toNat < 2 ^ 57 →
    Completes (.calli p) s c (s.modBlock c.k fun b => { b with branch := some (c.j, .call (opVal c.o.l) (opVal c.o.r)) })
      .none .none none none ∧
    Completes (.ret p) s c (s.modBlock c.k fun b => { b with branch := some (c.j, .ret (opVal c.o.l) (opVal c.o.r)) })
      .none .none none none) ∧
  (∀ p s c, Issues s c p .none → c.b.branch = none →
    Completes (.stop p) s c (s.modBlock c.k fun b => { b with branch := some (c.j, .stop) }) .none .none none none)

/-- R18, R132, R145: a second branch that fires takes F_ILLEGAL, DUP_BRANCH; an address that BRI
names above the flat window takes F_PROTECT, one that is not word aligned F_ALIGN, with the
address in ADDR. So do the addresses that CALL, CALLI and RET name; a nonzero frame pointer of
theirs that is not a multiple of 8, or lies above the flat window, takes F_ALIGN. That these two
come also where a branch has fired, ahead of DUP_BRANCH, is the model's choice (log 62). -/
def Sys2Proof.Parts.BranchFaults : Prop :=
  (∀ p off s c br, Issues s c p .none → c.b.branch = some br → c.b.performed = false →
    exec (.bro p off) s = .next (s.takeFault c.k ⟨{ code := .illegal, sub := 2 }, c.b.addr, c.j⟩)) ∧
  (∀ p s c, Issues s c p .left → c.b.performed = false → 2 ^ 57 ≤ (opVal c.o.l).toNat →
    exec (.bri p) s = .next (s.takeFault c.k ⟨{ code := .protect, addr := opVal c.o.l }, c.b.addr, c.j⟩)) ∧
  (∀ p s c, Issues s c p .left → c.b.performed = false → (opVal c.o.l).toNat < 2 ^ 57 → (opVal c.o.l).toNat % 4 ≠ 0 →
    exec (.bri p) s = .next (s.takeFault c.k ⟨{ code := .align, addr := opVal c.o.l }, c.b.addr, c.j⟩)) ∧
  (∀ p s c i next, Issues s c p .both → c.b.performed = false →
    (i, next) ∈ [(Instr.call p, BitVec.ofNat 64 ((c.b.addr + opVal c.o.l).toNat % 2 ^ 57)), (.calli p, opVal c.o.l), (.ret p, opVal c.o.l)] →
    (2 ^ 57 ≤ next.toNat → exec i s = .next (s.takeFault c.k ⟨{ code := .protect, addr := next }, c.b.addr, c.j⟩)) ∧
    (next.toNat < 2 ^ 57 → next.toNat % 4 ≠ 0 →
      exec i s = .next (s.takeFault c.k ⟨{ code := .align, addr := next }, c.b.addr, c.j⟩)) ∧
    (next.toNat < 2 ^ 57 → next.toNat % 4 = 0 → opVal c.o.r ≠ 0 → ((opVal c.o.r).toNat % 8 ≠ 0 ∨ 2 ^ 57 ≤ (opVal c.o.r).toNat) →
      exec i s = .next (s.takeFault c.k ⟨{ code := .align, addr := opVal c.o.r }, c.b.addr, c.j⟩)))

/-- R18, R132, R144 to R146: the branches complete, and what they refuse. The order of the address
checks and DUP_BRANCH is the model's choice (log 62). -/
def Obligations.BranchesComplete : Prop :=
  Parts.BranchesFire ∧ Parts.BranchFaults

/-- R147, R148, R160, R171, R173: YIELD marks the block; SELF sends the block's address, FP, this chip's number or the
pavilion's number in its grove, and F_ILLEGAL on another selector; TAGGET sends the tag of the region, RCNT the count of
re-entries; RGN has no result. -/
def Sys2Proof.Parts.ControlFires : Prop :=
  (∀ p s c, Issues s c p .none →
    Completes (.yield p) s c (s.modBlock c.k fun b => { b with yields := true }) .none .none none none) ∧
  (∀ p a b s c, Issues s c p .left →
    (opVal c.o.l = 0 → CompletesWith (.self p a b) s c s a b c.b.addr) ∧
    (opVal c.o.l = 1 → CompletesWith (.self p a b) s c s a b c.t.fp) ∧
    (opVal c.o.l = 2 → CompletesWith (.self p a b) s c s a b (BitVec.ofNat 64 s.colid.toNat)) ∧
    (opVal c.o.l = 3 → CompletesWith (.self p a b) s c s a b
      (BitVec.ofNat 64 ((s.task c.t.task).logPav c.t.pav % 16))) ∧
    (3 < (opVal c.o.l).toNat → c.b.performed = false →
      exec (.self p a b) s = .next (s.takeFault c.k ⟨{ code := .illegal }, c.b.addr, c.j⟩))) ∧
  (∀ p a b s c, Issues s c p .none → CompletesWith (.tagget p a b) s c s a b c.t.region.tag) ∧
  (∀ a s c, Issues s c .always .none → CompletesWith (.rcnt a) s c s a .none (BitVec.ofNat 64 c.t.rcnt.toNat)) ∧
  (∀ sc cl d e s c, Issues s c .always .none → Completes (.rgn sc cl d e) s c s .none .none none none)

/-- R234, R236: STEER sends its left operand to TA when bit 0 of its third operand is 1 and to TB
when it is 0; the other target receives a cancelling token when bit 0 of its right operand is 1
and nothing when it is 0. MERGE sends the value that stands on either input, without waiting for
the other, once no older iteration of its resident block has its own still to send. That MERGE
sends the value also where a null stands on its other input is DEDUCED (log 7). -/
def Sys2Proof.Parts.SteeringCompletes : Prop :=
  (∀ a b s c, Issues s c .always .three → (opVal c.o.r).toNat ≤ 1 →
    Completes (.steer a b) s c s a b
      (if (opVal c.o.p).getLsbD 0 then some (.value (opVal c.o.l)) else if opVal c.o.r = 1 then some .cancel else none)
      (if (opVal c.o.p).getLsbD 0 then (if opVal c.o.r = 1 then some .cancel else none) else some (.value (opVal c.o.l)))) ∧
  (∀ p a b s c v, s.ctx = some c → (c.o.status = .idle ∨ c.o.status = .waiting) → predOk p c.o.p = true →
    c.o.bad = false → olderMerge c s = false →
    ((c.o.l = some (.value v) ∧ isValue c.o.r = false) ∨ (c.o.r = some (.value v) ∧ isValue c.o.l = false)) →
    CompletesWith (.merge p a b) s c s a b v)

/-- R147, R148, R160, R171, R173, R234, R236: YIELD, SELF, TAGGET, RCNT, RGN, STEER and MERGE
complete. MERGE beside a null: DEDUCED (log 7). -/
def Obligations.ControlCompletes : Prop :=
  Parts.ControlFires ∧ Parts.SteeringCompletes

/-! ### Memory (R164 to R169, R174 to R178) -/

/-- R165, R166: a load whose address is aligned and lies in a space it may name leaves for memory once every store of its block
with a lower LSID has resolved: the seven loads, of 1, 2, 4 and 8 bytes. -/
def Sys2Proof.Parts.LoadsLeave : Prop :=
  ∀ p lsid off a s c, Issues s c p .left → c.b.olderStoresDone lsid.toNat = true →
    (∀ w i, (i, w) ∈ [(Instr.ldb p lsid off a, 1), (.ldh p lsid off a, 2), (.ldw p lsid off a, 4), (.ldd p lsid off a, 8),
        (.ldsb p lsid off a, 1), (.ldsh p lsid off a, 2), (.ldsw p lsid off a, 4)] →
      (opVal c.o.l + BitVec.signExtend 64 off * BitVec.ofNat 64 w).toNat % w = 0 →
      s.fireCheck c.t (opVal c.o.l + BitVec.signExtend 64 off * BitVec.ofNat 64 w) w = none →
      exec i s = .next (s.sentAt c (.loadReturn c.k c.j)))

/-- R165, R168, R366, R427: a load or store of bytes of a bank window that have no purpose takes F_RESOURCE; any other whose address is
not a multiple of its width takes F_ALIGN. The address stands in ADDR, and nothing is stored. -/
def Sys2Proof.Parts.MisalignedAccessFaults : Prop :=
  ∀ p lsid off a s c w addr code, c.b.performed = false →
    addr = opVal c.o.l + BitVec.signExtend 64 off * BitVec.ofNat 64 w →
    (s.fireCheck c.t addr w = some .resource ∧ code = FaultCode.resource ∨
      s.fireCheck c.t addr w ≠ some .resource ∧ addr.toNat % w ≠ 0 ∧ code = FaultCode.align) →
    (∀ i, (i, w) ∈ [(Instr.ldb p lsid off a, 1), (.ldh p lsid off a, 2), (.ldw p lsid off a, 4), (.ldd p lsid off a, 8),
        (.ldsb p lsid off a, 1), (.ldsh p lsid off a, 2), (.ldsw p lsid off a, 4)] → Issues s c p .left →
      exec i s = .next (s.takeFault c.k ⟨{ code := code, addr := addr }, c.b.addr, c.j⟩)) ∧
    (∀ i, (i, w) ∈ [(Instr.stb p lsid off, 1), (.sth p lsid off, 2), (.stw p lsid off, 4), (.std p lsid off, 8)] → Issues s c p .both →
      exec i s = .next (s.takeFault c.k ⟨{ code := code, addr := addr }, c.b.addr, c.j⟩))

/-- R165, R166, R32: a load whose bytes all come from the strand itself (the older stores of its block, its region store buffer,
its queued publishes, its side log) sends them, little-endian, zero- or sign-extended, and reads no memory. -/
def Sys2Proof.Parts.LoadReturnsOwnBytes : Prop :=
  ∀ (s : State) k slot c i w off sgn a d, s.ctxAt k slot = some c → c.o.status = .sent → c.b.instr slot = some i →
    loadForm i = some (w, off, sgn, a) →
    s.loggedRed c.k (s.asOwn c.t.task c.t.pav (accessAddr (opVal c.o.l) off w)) w = false →
    d.length = w →
    (∀ n, n < w → s.ownByte c.k c.t c.b (lsidOf ((c.b.words[slot]?).getD 0))
      (s.asOwn c.t.task c.t.pav (accessAddr (opVal c.o.l) off w) + BitVec.ofNat 64 n) = d[n]?) →
    CompletesWith (.loadReturn k slot) s c s a .none
      (if sgn then BitVec.ofInt 64 (signedOf (8 * w) (leNat d)) else BitVec.ofNat 64 (leNat d))

/-- R165, R302, R311: a load none of whose bytes come from the strand itself sends what its line holds at home, as the strand
sees it; the line is pinned as the strand sees it, under what its earlier regions have still to perform, with the words of it that are
poisoned, and the translation is cached unless the address is a bank window's. -/
def Sys2Proof.Parts.LoadReturnsMemory : Prop :=
  ∀ (s : State) k slot c i w off sgn a key, s.ctxAt k slot = some c → c.o.status = .sent → c.b.instr slot = some i →
    loadForm i = some (w, off, sgn, a) → 0 < w →
    s.loggedRed c.k (s.asOwn c.t.task c.t.pav (accessAddr (opVal c.o.l) off w)) w = false →
    (∀ n, n < w → s.ownByte c.k c.t c.b (lsidOf ((c.b.words[slot]?).getD 0))
      (s.asOwn c.t.task c.t.pav (accessAddr (opVal c.o.l) off w) + BitVec.ofNat 64 n) = none) →
    s.access c.t (accessAddr (opVal c.o.l) off w) w .load = .ok key →
    s.PerformedAt key w (s.ownerKey key) →
    (∀ p ∈ c.t.region.pins, p.key ≠ key / 64 * 64 ∧ s.ownerKey p.key ≠ s.ownerKey (key / 64 * 64) ∧
      p.va ≠ lineOf (accessAddr (opVal c.o.l) off w)) →
    c.t.region.pins.length < 256 → s.pinCount c.t.pav < 1024 →
    ∀ pin : Pin, pin =
      { key := key / 64 * 64, va := lineOf (accessAddr (opVal c.o.l) off w)
        bytes := (List.range 64).map fun n =>
          (s.sentByte c.k c.t (s.asOwn c.t.task c.t.pav (lineOf (accessAddr (opVal c.o.l) off w)) + BitVec.ofNat 64 n)).getD
            (s.view c.k c.t.pav (s.ownerKey (key / 64 * 64) + n))
        bad := (List.range 8).filter fun n => s.poisoned (s.ownerKey (key / 64 * 64) + 8 * n) 8 } →
    ∀ s1, s1 = (s.modStrand c.k fun t => { t with region := { t.region with pins := t.region.pins ++ [pin] } }) →
    CompletesWith (.loadReturn k slot) s c
      (if isWindow (accessAddr (opVal c.o.l) off w) then s1
       else s1.cache c.t.pav c.t.task (accessAddr (opVal c.o.l) off w).toNat) a .none
      (loadValue sgn w ((List.range w).map fun n => (pin.bytes[bits (accessAddr (opVal c.o.l) off w) 5 0 + n]?).getD 0))

/-- R302, R339, R425: a load of a line that its region has pinned sends the pinned bytes, whatever memory holds by then, and reads no
home: the pin is found under the line's name, also when its page has moved since. A word that was poisoned when the line was pinned raises
F_UNCORR. -/
def Sys2Proof.Parts.LoadReturnsPinned : Prop :=
  ∀ (s : State) k slot c i w off sgn a key held bad, s.ctxAt k slot = some c → c.o.status = .sent → c.b.instr slot = some i →
    loadForm i = some (w, off, sgn, a) → 0 < w →
    s.loggedRed c.k (s.asOwn c.t.task c.t.pav (accessAddr (opVal c.o.l) off w)) w = false →
    (∀ n, n < w → s.ownByte c.k c.t c.b (lsidOf ((c.b.words[slot]?).getD 0))
      (s.asOwn c.t.task c.t.pav (accessAddr (opVal c.o.l) off w) + BitVec.ofNat 64 n) = none) →
    s.access c.t (accessAddr (opVal c.o.l) off w) w .load = .ok key →
    c.t.region.pins = [⟨key / 64 * 64, lineOf (accessAddr (opVal c.o.l) off w), held, bad⟩] →
    ((∀ n ∈ bad, n < bits (accessAddr (opVal c.o.l) off w) 5 0 / 8 ∨ (bits (accessAddr (opVal c.o.l) off w) 5 0 + w - 1) / 8 < n) →
      CompletesWith (.loadReturn k slot) s c
        (if isWindow (accessAddr (opVal c.o.l) off w) then s
         else s.cache c.t.pav c.t.task (accessAddr (opVal c.o.l) off w).toNat) a .none
        (loadValue sgn w ((List.range w).map fun n => (held[bits (accessAddr (opVal c.o.l) off w) 5 0 + n]?).getD 0))) ∧
    (bits (accessAddr (opVal c.o.l) off w) 5 0 / 8 ∈ bad → c.b.performed = false →
      exec (.loadReturn k slot) s = .next (s.takeFault c.k
        ⟨{ code := .uncorr, addr := accessAddr (opVal c.o.l) off w }, c.b.addr, c.j⟩))

/-- R165, R166, R302: a load leaves for memory, and returns the strand's own bytes or those of memory. -/
def Obligations.LoadsComplete : Prop :=
  Parts.LoadsLeave ∧ Parts.LoadReturnsOwnBytes ∧ Parts.LoadReturnsMemory ∧ Parts.LoadReturnsPinned

/-- R165, R168, R134: a store resolves with the low bytes of its right operand for the address left + IMM9 * width, and writes
nothing yet; one whose operand is a null resolves without writing; a store never waits for translation. -/
def Sys2Proof.Parts.StoresResolve : Prop :=
  ∀ p lsid off s c w i,
    (i, w) ∈ [(Instr.stb p lsid off, 1), (.sth p lsid off, 2), (.stw p lsid off, 4), (.std p lsid off, 8)] →
    (Issues s c p .both → (opVal c.o.l + BitVec.signExtend 64 off * BitVec.ofNat 64 w).toNat % w = 0 →
      s.storeCheck c.t (opVal c.o.l + BitVec.signExtend 64 off * BitVec.ofNat 64 w) w = none →
      Completes i s c (s.modBlock c.k fun b => { b with stores := b.stores ++
        [⟨c.j, lsid.toNat, s.asOwn c.t.task c.t.pav (opVal c.o.l + BitVec.signExtend 64 off * BitVec.ofNat 64 w),
          some (toLe w (opVal c.o.r).toNat)⟩] }) .none .none none none) ∧
    (s.ctx = some c → (c.o.status = .idle ∨ c.o.status = .waiting) → predOk p c.o.p = true → c.o.cancelled = false →
      (c.o.l = some .null ∨ c.o.r = some .null) →
      exec i s = .next ((s.setStatus c.k c.j .done).modBlock c.k fun b =>
        { b with stores := b.stores ++ [⟨c.j, lsid.toNat, 0, none⟩] }))

/-- R169: PREF has no result and changes nothing. -/
def Sys2Proof.Parts.PrefCompletes : Prop :=
  ∀ p lsid off s c, Issues s c p .left → Completes (.pref p lsid off) s c s .none .none none none

/-- R165, R168, R169: stores resolve, PREF completes, and a misaligned access takes F_ALIGN. R366,
R427: bytes of a bank window that have no purpose take F_RESOURCE, also where the address is
misaligned. -/
def Obligations.StoresComplete : Prop :=
  Parts.StoresResolve ∧ Parts.PrefCompletes ∧ Parts.MisalignedAccessFaults

/-- R174, R175, R40: a returning atomic at an aligned address leaves for its home once what a boundary instruction waits for has
come: the strand's earlier publishes, its side log, and the loads of its block. -/
def Sys2Proof.Parts.AtomicsLeave : Prop :=
  ∀ p w a b s c, boundaryReady c s = true → (opVal c.o.l).toNat % (if w then 4 else 8) = 0 →
    (Issues s c p .both → ∀ i, i ∈ [Instr.aadd p w a b, .aswp p w a b, .amin p w a b, .amax p w a b, .aminu p w a b,
        .amaxu p w a b, .aand p w a b, .aor p w a b, .axor p w a b, .amaxrs p w a b] →
      exec i s = .next (s.sentAt c (.homeAtomicPerform c.k c.j))) ∧
    (Issues s c .always .three → exec (.acas w a b) s = .next (s.sentAt c (.homeAtomicPerform c.k c.j)))

/-- R174, R175, R287: at its home, which this chip's earlier stores to the word reach before it, an atomic reads the word, stores what the operation makes of it and sends the old value; a
compare-and-swap whose comparison fails stores nothing. The words are of 8 bytes, or of 4 when W is 1. -/
def Sys2Proof.Parts.AtomicPerforms : Prop :=
  ∀ (s : State) k slot c i op w a b key, s.ctxAt k slot = some c → c.o.status = .sent → c.b.instr slot = some i →
    atomicForm i = some (op, w, a, b) → s.access c.t (opVal c.o.l) (wBytes w) .atomic = .ok key →
    s.PerformedAt key (wBytes w) (s.ownerKey key) →
    ∀ s0 old v, s0 = s.reachHome (s.ownerKey key) (wBytes w) → old = s0.home (s.ownerKey key) (wBytes w) →
    v = (opVal c.o.r).toNat % 2 ^ (8 * wBytes w) →
    ∀ s1, s1 = (if op = .cas ∧ old ≠ v then s0
        else s0.writeHome (s.ownerKey key) (toLe (wBytes w)
          (atomicNew op (8 * wBytes w) old v ((opVal c.o.p).toNat % 2 ^ (8 * wBytes w))))) →
    CompletesWith (.homeAtomicPerform k slot) s c (s1.modBlock c.k fun x => { x with performed := true }) a b
      (BitVec.ofNat 64 old)

/-- R174: the operations of the returning atomics, on words of n bits. -/
def Sys2Proof.Parts.AtomicOperations : Prop :=
  ∀ n old v third, old < 2 ^ n → v < 2 ^ n → third < 2 ^ n → 0 < n →
    atomicNew .add n old v third = (old + v) % 2 ^ n ∧ atomicNew .swp n old v third = v ∧
    atomicNew .cas n v v third = third ∧ (old ≠ v → atomicNew .cas n old v third = old) ∧
    atomicNew .minu n old v third = min old v ∧ atomicNew .maxu n old v third = max old v ∧
    ((BitVec.ofNat n (atomicNew .min n old v third)).toInt = min (BitVec.ofNat n old).toInt (BitVec.ofNat n v).toInt) ∧
    ((BitVec.ofNat n (atomicNew .max n old v third)).toInt = max (BitVec.ofNat n old).toInt (BitVec.ofNat n v).toInt) ∧
    BitVec.ofNat n (atomicNew .and n old v third) = BitVec.ofNat n old &&& BitVec.ofNat n v ∧
    BitVec.ofNat n (atomicNew .or n old v third) = BitVec.ofNat n old ||| BitVec.ofNat n v ∧
    BitVec.ofNat n (atomicNew .xor n old v third) = BitVec.ofNat n old ^^^ BitVec.ofNat n v ∧
    (∀ i, i < n → (BitVec.ofNat n (atomicNew .and n old v third)).getLsbD i =
      ((BitVec.ofNat n old).getLsbD i && (BitVec.ofNat n v).getLsbD i))

/-- R174, R175: a returning atomic leaves for its home, is performed there, and computes what its operation says. -/
def Obligations.AtomicsComplete : Prop :=
  Parts.AtomicsLeave ∧ Parts.AtomicPerforms ∧ Parts.AtomicOperations

/-- R176, R177: a reduction resolves with its operation, address and value, and has no result; RFADD does so only where DETERM is
0, and is F_ILLEGAL, DETERM where it is 1. -/
def Sys2Proof.Parts.ReductionsResolve : Prop :=
  ∀ p w s c, Issues s c p .both → (opVal c.o.l).toNat % (if w then 4 else 8) = 0 →
    s.storeCheck c.t (opVal c.o.l) (if w then 4 else 8) = none →
    (∀ i op, (i, op) ∈ [(Instr.radd p w, ROp.add), (.rmin p w, .min), (.rmax p w, .max), (.rand p w, .and), (.ror p w, .or),
        (.rxor p w, .xor)] →
      Completes i s c (s.modBlock c.k fun b => { b with reds := b.reds ++
        [⟨c.j, op, w, s.asOwn c.t.task c.t.pav (opVal c.o.l), opVal c.o.r⟩] }) .none .none none none) ∧
    ((s.task c.t.task).determ = false →
      Completes (.rfadd p w) s c (s.modBlock c.k fun b => { b with reds := b.reds ++
        [⟨c.j, .fadd, w, s.asOwn c.t.task c.t.pav (opVal c.o.l), opVal c.o.r⟩] }) .none .none none none) ∧
    ((s.task c.t.task).determ = true → c.b.performed = false →
      exec (.rfadd p w) s = .next (s.takeFault c.k ⟨{ code := .illegal, sub := 4 }, c.b.addr, c.j⟩))

/-- R34, R176, R287: step 1 of a publish that stands at a reduction performs it whole at its word's home, behind this chip's earlier
stores to the word, and goes on with the rest. -/
def Sys2Proof.Parts.ReductionPerforms : Prop :=
  ∀ (s : State) k t pb va op w off v rest key, s.strand k = some t → t.active = some pb → pb.started = true →
    pb.lines = ⟨va, .red op w off v⟩ :: rest → s.lineMeets t va = .key key →
    ∀ s0, s0 = s.reachHome (key + off) (wBytes w) → s0.poisoned (key + off) (wBytes w) = false →
    exec (.homeReductionPerform k) s = .next
      (((s0.writeHome (key + off) (toLe (wBytes w)
          (reduceNew op (8 * wBytes w) (s0.home (key + off) (wBytes w)) (v.toNat % 2 ^ (8 * wBytes w))))).modStrand k
        fun t => t.setActive { pb with lines := rest }).runStep1 k)

/-- R176, R177: a reduction resolves in its block, and is performed at its word's home when its region publishes. -/
def Obligations.ReductionsComplete : Prop :=
  Parts.ReductionsResolve ∧ Parts.ReductionPerforms

/-! ### Frames of a firing, for whole groups (R15, R16, R17) -/

/-- R15, R16, R17, R134: until its block commits, such an instruction changes nothing but its own strand's block, the strand's
state, its live-in mask and one performance count: as long as no fault is taken (the strand keeps its block), every other strand,
every register of its own strand, its FP, IP, tag and descriptors, memory and every table stay as they are. -/
def Obligations.LocalInstructionsFrame : Prop :=
  ∀ i s s' c t', i.isLocal → s.ctx = some c → exec i s = .next s' → s'.strand c.k = some t' → t'.block.isSome = true →
    s' = { s with strands := s'.strands, perf := s'.perf } ∧
    (∀ j, j ≠ c.k → s'.strand j = s.strand j) ∧
    t' = { c.t with block := t'.block, state := t'.state, liveIn := t'.liveIn } ∧
    (∀ n, n ≠ c.t.pav * 64 + 4 → s'.perf.find n = s.perf.find n) ∧
    (∀ n, Memory.read s'.mem n = Memory.read s.mem n)

/-! ### Instructions that take an entry of the deferred list (R33, R134) -/

/-- R33: FORK, FORKN, SEND, FRALLOC, FRFREE, TAGSET and GBARX, where they would take a 33rd entry, take F_REGION_OVERFLOW. -/
def Sys2Proof.Parts.FullDeferredListFaults : Prop :=
  (∀ p, RefusesFull (.fork p) p .both fun _ c => (opVal c.o.l).toNat % 4 = 0 ∧ (opVal c.o.l).toNat < 2 ^ 57 ∧
    tagDepth c.t.region.tag ≠ 5 ∧ (opVal c.o.r).toNat < 4096) ∧
  (∀ p, RefusesFull (.forkn p) p .both fun _ c => (opVal c.o.l).toNat % 4 = 0 ∧ (opVal c.o.l).toNat < 2 ^ 57 ∧
    tagDepth c.t.region.tag ≠ 5 ∧ (opVal c.o.r).toNat < 2 ^ 25 ∧ (opVal c.o.r).toNat / 4096 ≤ 4096) ∧
  (∀ p, RefusesFull (.send p) p .both fun s c => (opVal c.o.l).toNat < 2 ^ 63 ∧
    (opVal c.o.l).toNat / 2 ^ 57 < frameSlots (s.task c.t.task).desc.frame ∧ (opVal c.o.l).toNat % 8 = 0) ∧
  (∀ p a b, RefusesFull (.fralloc p a b) p .both fun s c => (opVal c.o.l).toNat < 2 ^ 63 ∧ tagOk (opVal c.o.r) = true ∧
    (opVal c.o.l).toNat % 8 = 0 ∧ ∃ named key h n,
      s.flat c.t.pav c.t.task ((opVal c.o.l).toNat % 2 ^ 57) .fetch = .ok named ∧ s.PerformedAt named 4 key ∧
      h = leNat (s.viewN c.k c.t.pav key 4) ∧ n = (opVal c.o.l).toNat / 2 ^ 57 + 1 ∧
      h / 2 ^ 24 % 2 = 1 ∧ h / 2 ^ 20 % 16 ≠ 0 ∧ h / 2 ^ 20 % 16 ≤ n ∧
      c.t.poolPtr.toNat + (40 + 8 * n + 63) / 64 * 64 ≤ c.t.poolEnd.toNat) ∧
  (∀ p, RefusesFull (.frfree p) p .left fun _ c => (∃ f ∈ c.t.frames, f.live = true ∧ f.base + 40 = opVal c.o.l) ∧
    ∀ d ∈ c.t.region.deferred ++ c.t.queue.flatMap (·.deferred), ¬(d.kind = .frfree ∧ d.l = opVal c.o.l)) ∧
  (∀ p, RefusesFull (.tagset p) p .left fun _ c => tagOk (opVal c.o.l) = true) ∧
  (∀ p, RefusesFull (.gbarx p) p .none fun _ _ => True)

/-- R156, R157, R159, R160: FORK and FORKN defer one child and N children of the block at left; SEND the value right for slot
[62:57] of the frame at left; FRFREE the free of an allocated frame; TAGSET the new tag. -/
def Sys2Proof.Parts.StrandInstructionsDefer : Prop :=
  (∀ p, Defers (.fork p) p .both .none .none
    (fun _ c => (opVal c.o.l).toNat % 4 = 0 ∧ (opVal c.o.l).toNat < 2 ^ 57 ∧ tagDepth c.t.region.tag ≠ 5 ∧
      (opVal c.o.r).toNat < 4096)
    (fun _ c => { kind := .fork, l := opVal c.o.l, x := (opVal c.o.r).toNat, y := 1 }) (fun _ _ => none)) ∧
  (∀ p, Defers (.forkn p) p .both .none .none
    (fun _ c => (opVal c.o.l).toNat % 4 = 0 ∧ (opVal c.o.l).toNat < 2 ^ 57 ∧ tagDepth c.t.region.tag ≠ 5 ∧
      (opVal c.o.r).toNat < 2 ^ 25 ∧ (opVal c.o.r).toNat / 4096 ≤ 4096)
    (fun _ c => { kind := .forkn, l := opVal c.o.l, x := (opVal c.o.r).toNat % 4096, y := (opVal c.o.r).toNat / 4096 })
    (fun _ _ => none)) ∧
  (∀ p, Defers (.send p) p .both .none .none
    (fun s c => (opVal c.o.l).toNat < 2 ^ 63 ∧
      (opVal c.o.l).toNat / 2 ^ 57 < frameSlots (s.task c.t.task).desc.frame ∧ (opVal c.o.l).toNat % 8 = 0)
    (fun _ c => { kind := .send, l := BitVec.ofNat 64 ((opVal c.o.l).toNat % 2 ^ 57), r := opVal c.o.r,
                  x := (opVal c.o.l).toNat / 2 ^ 57 }) (fun _ _ => none)) ∧
  (∀ p, Defers (.frfree p) p .left .none .none
    (fun _ c => (∃ f ∈ c.t.frames, f.live = true ∧ f.base + 40 = opVal c.o.l) ∧
      ∀ d ∈ c.t.region.deferred ++ c.t.queue.flatMap (·.deferred), ¬(d.kind = .frfree ∧ d.l = opVal c.o.l))
    (fun _ c => { kind := .frfree, l := opVal c.o.l }) (fun _ _ => none)) ∧
  (∀ p, Defers (.tagset p) p .left .none .none (fun _ c => tagOk (opVal c.o.l) = true)
    (fun _ c => { kind := .tagset, l := opVal c.o.l }) (fun _ _ => none))

/-- R158: FRALLOC takes from the strand's pool a frame of 40 bytes and 8 for each slot, rounded up to whole lines, for an entry block
that can be read, is an entry block (FENT, NIN at least 1) and has no more inputs than the frame has slots; it sends the frame's
FP, 40 bytes above its start, and defers the frame's header. -/
def Sys2Proof.Parts.FrallocCompletes : Prop :=
  ∀ p a b s c named key h n, Issues s c p .both → c.t.region.deferred.length < 32 →
    (opVal c.o.l).toNat < 2 ^ 63 → tagOk (opVal c.o.r) = true → (opVal c.o.l).toNat % 8 = 0 →
    s.flat c.t.pav c.t.task ((opVal c.o.l).toNat % 2 ^ 57) .fetch = .ok named → s.PerformedAt named 4 key →
    h = leNat (s.viewN c.k c.t.pav key 4) → n = (opVal c.o.l).toNat / 2 ^ 57 + 1 →
    h / 2 ^ 24 % 2 = 1 → h / 2 ^ 20 % 16 ≠ 0 → h / 2 ^ 20 % 16 ≤ n →
    c.t.poolPtr.toNat + (40 + 8 * n + 63) / 64 * 64 ≤ c.t.poolEnd.toNat →
    CompletesWith (.fralloc p a b) s c
      ((s.modStrand c.k fun t =>
          { t with poolPtr := c.t.poolPtr + BitVec.ofNat 64 ((40 + 8 * n + 63) / 64 * 64),
                   frames := t.frames ++ [⟨c.t.poolPtr, (40 + 8 * n + 63) / 64 * 64, true, opVal c.o.r⟩] }).deferred c
        { kind := .fralloc, l := c.t.poolPtr + 40, r := opVal c.o.r,
          x := (launchWord (h / 2 ^ 20 % 16) n (opVal c.o.l &&& 0x01FFFFFFFFFFFFFF)).toNat })
      a b (c.t.poolPtr + 40)

/-- R33, R156 to R160: FORK, FORKN, SEND, FRALLOC, FRFREE and TAGSET take their entries, and a full list refuses them. -/
def Obligations.StrandInstructionsComplete : Prop :=
  Parts.StrandInstructionsDefer ∧ Parts.FrallocCompletes ∧ Parts.FullDeferredListFaults

/-- R161, R162: DQPUSH reserves a place below the bottom of a deque of its own pavilion and sends 1; a zero value or a full deque
sends 0 and takes its deferred entry all the same, which launches nothing. -/
def Sys2Proof.Parts.DqpushCompletes : Prop :=
  ∀ p a b s c, Issues s c p .both → (opVal c.o.l).toNat < 256 → (opVal c.o.l).toNat / 16 = (s.task c.t.task).logPav c.t.pav % 16 →
    ∀ pav dq, pav = (s.task c.t.task).mate c.t.pav ((opVal c.o.l).toNat / 16) → dq = (opVal c.o.l).toNat % 16 →
    (opVal c.o.r = 0 ∨ 16 ≤ (s.deque pav dq).entries.length → c.t.region.deferred.length < 32 →
      CompletesWith (.dqpush p a b) s c (s.deferred c { kind := .failedPush, l := opVal c.o.l, r := opVal c.o.r }) a b 0) ∧
    (opVal c.o.r ≠ 0 → (s.deque pav dq).entries.length < 16 → c.t.region.deferred.length < 32 →
      CompletesWith (.dqpush p a b) s c
        ((s.setDeque pav dq { (s.deque pav dq) with
            entries := (s.deque pav dq).entries ++ [((s.deque pav dq).nextId, opVal c.o.r, .reserved c.k)],
            nextId := (s.deque pav dq).nextId + 1 }).deferred c
          { kind := .dqpush, l := opVal c.o.l, r := opVal c.o.r, x := pav * 16 + dq, y := (s.deque pav dq).nextId })
        a b 1)

/-- R38, R161 to R163, R355: DQPOP claims the bottom visible entry of a deque of its own pavilion
and DQSTEAL the top one of any pavilion of its grove: it sends the entry's value, no other strand
sees the entry, and the region holds the claim; with no visible entry it sends 0. DQSTEAL's own
count goes up when it finds one. Where the owner and a thief ask for the last entry in one cycle
the owner takes it and a thief in turn, and of several thieves it is the one whose turn it is; the
others wait. That two claims stand in one cycle when both slots may fire in one state is the
model's choice (log 76); that a stolen entry is counted at fire is DEDUCED (log 27). -/
def Sys2Proof.Parts.DqpopAndDqstealComplete : Prop :=
  ∀ p a b s c, Issues s c p .left → (opVal c.o.l).toNat < 256 →
    ∀ pav dq, pav = (s.task c.t.task).mate c.t.pav ((opVal c.o.l).toNat / 16) → dq = (opVal c.o.l).toNat % 16 →
    ((∀ e ∈ (s.deque pav dq).entries, e.2.2.free = false) →
      ((opVal c.o.l).toNat / 16 = (s.task c.t.task).logPav c.t.pav % 16 → CompletesWith (.dqpop p a b) s c s a b 0) ∧
      CompletesWith (.dqsteal p a b) s c s a b 0) ∧
    (∀ l1 l2 id v st, (s.deque pav dq).entries = l1 ++ (id, v, st) :: l2 → st.free = true →
      ∀ claim : Bool → State → State, (claim = fun steal x => (x.setDeque pav dq { (s.deque pav dq) with
          entries := (s.deque pav dq).entries.map fun e => (if e.1 = id then (e.1, e.2.1, DqState.claimed c.k) else e)
          thief := if s.dequeTie pav dq then !steal else (s.deque pav dq).thief
          last := if steal then some c.t.pav else (s.deque pav dq).last }).modStrand
            c.k fun t => { t with region := { t.region with claims := t.region.claims ++ [(pav, dq, id)] } }) →
      ((∀ e ∈ l2, e.2.2.free = false) → (opVal c.o.l).toNat / 16 = (s.task c.t.task).logPav c.t.pav % 16 →
        (s.dequeTie pav dq = false ∨ (s.deque pav dq).thief = false →
          CompletesWith (.dqpop p a b) s c (claim false s) a b v) ∧
        (s.dequeTie pav dq = true → (s.deque pav dq).thief = true → exec (.dqpop p a b) s = .next (s.waitsAt c))) ∧
      ((∀ e ∈ l1, e.2.2.free = false) →
        (s.thiefTurn pav dq = some c.t.pav → s.dequeTie pav dq = false ∨ (s.deque pav dq).thief = true →
          CompletesWith (.dqsteal p a b) s c (claim true (s.addPerf pav 6 1)) a b v) ∧
        (s.thiefTurn pav dq ≠ some c.t.pav ∨ (s.dequeTie pav dq = true ∧ (s.deque pav dq).thief = false) →
          exec (.dqsteal p a b) s = .next (s.waitsAt c))))

/-- R38, R161 to R163, R355: the deque instructions complete. What one cycle is: the model's
choice (log 76); when a stolen entry is counted: DEDUCED (log 27). -/
def Obligations.DequesComplete : Prop :=
  Parts.DqpushCompletes ∧ Parts.DqpopAndDqstealComplete

/-- R180, R182, R183, R185: GBARX defers its pass; MRING the definition (LOG2SIZE 6 to 16) or the end (0) of a ring, and sends its
handle; MSEND a record of LENW words. -/
def Sys2Proof.Parts.BarrierAndRingInstructionsDefer : Prop :=
  (∀ p, Defers (.gbarx p) p .none .none .none (fun _ _ => True) (fun _ _ => { kind := .gbarx }) (fun _ _ => none)) ∧
  (∀ p a b, Defers (.mring p a b) p .left a b
    (fun s c => bits (opVal c.o.l) 63 52 = 0 ∧ bits (opVal c.o.l) 43 21 = 0 ∧
      (bits (opVal c.o.l) 20 16 = 0 ∧ (s.ring c.t.pav (bits (opVal c.o.l) 51 48)).isSome = true ∨
        6 ≤ bits (opVal c.o.l) 20 16 ∧ bits (opVal c.o.l) 20 16 ≤ 16 ∧
          (s.ring c.t.pav (bits (opVal c.o.l) 51 48)).isSome = false ∧ regionDefines c (bits (opVal c.o.l) 51 48) = false ∧
          bits (opVal c.o.l) 15 0 % 2 ^ bits (opVal c.o.l) 20 16 = 0))
    (fun _ c => { kind := .mring, l := opVal c.o.l })
    (fun s c => some (BitVec.ofNat 64 (s.chip * 2 ^ 48 + (s.task c.t.task).logPav c.t.pav * 2 ^ 36 +
      bits (opVal c.o.l) 51 48 * 2 ^ 32 + bits (opVal c.o.l) 20 16 * 2 ^ 24)))) ∧
  (∀ p, Defers (.msend p) p .both .none .none
    (fun s c => bits (opVal c.o.l) 63 61 = 0 ∧ bits (opVal c.o.l) 31 29 = 0 ∧ bits (opVal c.o.l) 23 0 = 0 ∧
      6 ≤ bits (opVal c.o.l) 28 24 ∧ bits (opVal c.o.l) 28 24 ≤ 16 ∧
      bits (opVal c.o.r) 63 58 = 0 ∧ bits (opVal c.o.r) 40 36 = 0 ∧ bits (opVal c.o.r) 31 16 = 0 ∧
      bits (opVal c.o.r) 49 41 ≠ 0 ∧
      ((opVal c.o.r).getLsbD 57 = true → bits (opVal c.o.r) 56 50 < (s.task c.t.task).desc.regs) ∧
      bits (opVal c.o.r) 15 0 % 8 = 0 ∧ bits (opVal c.o.r) 15 0 + 8 * bits (opVal c.o.r) 49 41 ≤ 65536 ∧
      8 * (bits (opVal c.o.r) 49 41 + 1) ≤ 2 ^ bits (opVal c.o.l) 28 24)
    (fun _ c => { kind := .msend, l := opVal c.o.l, r := opVal c.o.r }) (fun _ _ => none))

/-- R188: MWAIT on a ring of its own pavilion sends the bank window address of the next record's payload and its header, and waits
while there is none; what the region takes is released when it publishes. -/
def Sys2Proof.Parts.MwaitCompletes : Prop :=
  ∀ p a b s c rg, Issues s c p .left → bits (opVal c.o.l) 63 61 = 0 → bits (opVal c.o.l) 31 29 = 0 → bits (opVal c.o.l) 23 0 = 0 →
    bits (opVal c.o.l) 60 48 = s.chip → bits (opVal c.o.l) 47 36 = (s.task c.t.task).logPav c.t.pav →
    s.ring c.t.pav (bits (opVal c.o.l) 35 32) = some rg →
    ∀ n taken, n = bits (opVal c.o.l) 35 32 → taken = (c.t.region.waits.find n).getD 0 →
    (rg.dataRecs[taken + queuedWaits c.t n]? = none →
      exec (.mwait p a b) s = .next (s.waitsAt c)) ∧
    (∀ off len, rg.dataRecs[taken + queuedWaits c.t n]? = some (off, len) → c.t.region.deferred.length < 32 →
      (∀ d ∈ c.t.region.deferred, ¬(d.kind = .mwait ∧ d.y = n)) →
      Completes (.mwait p a b) s c
        ((s.modStrand c.k fun t => { t with region := { t.region with waits := t.region.waits.put n (taken + 1) } }).deferred c
          { kind := .mwait, y := n, x := 1 })
        a b (some (.value (BitVec.ofNat 64 (0xFF * 2 ^ 56 + rg.fe * 2 ^ 16 + rg.base + off + 8))))
        (some (.value (BitVec.ofNat 64 (s.home (bankKey c.t.pav rg.fe + rg.base + off) 8)))))

/-- R189, R241: an engine instruction whose command is aligned and flat and whose control word is well formed defers its launch:
the copies, the collective (which alone may set MODE, where DETERM is 0), and the collection and gather engines. -/
def Sys2Proof.Parts.EngineInstructionsDefer : Prop :=
  (∀ p i kind, (i, kind) ∈ [(Instr.cpy p, DefKind.cpy), (.cpyt p, .cpyt), (.kappend p, .kappend), (.kmerge p, .kmerge),
      (.mscan p, .mscan), (.ksum p, .ksum), (.walk p, .walk)] →
    Defers i p .both .none .none
      (fun s c => (opVal c.o.r).toNat < 2 ^ 12 ∧
        ((opVal c.o.r).getLsbD 3 = true → bits (opVal c.o.r) 10 4 < (s.task c.t.task).desc.regs) ∧
        (opVal c.o.l).toNat % 8 = 0 ∧ (opVal c.o.l).toNat < 2 ^ 57)
      (fun _ c => { kind := kind, l := opVal c.o.l, r := opVal c.o.r }) (fun _ _ => none)) ∧
  (∀ p, Defers (.igather p) p .both .none .none
      (fun s c => (opVal c.o.r).toNat < 2 ^ 12 ∧
        ((opVal c.o.r).getLsbD 3 = true → bits (opVal c.o.r) 10 4 < (s.task c.t.task).desc.regs) ∧
        (opVal c.o.l).toNat % 8 = 0 ∧ (opVal c.o.l).toNat < 2 ^ 57)
      (fun s c => { kind := .igather, l := opVal c.o.l, r := opVal c.o.r, x := (s.sysFor c.t).itb.toNat }) (fun _ _ => none)) ∧
  (∀ p, Defers (.coll p) p .both .none .none
      (fun s c => (opVal c.o.r).toNat < (if (s.task c.t.task).determ then 2 ^ 12 else 2 ^ 13) ∧
        ((opVal c.o.r).getLsbD 3 = true → bits (opVal c.o.r) 10 4 < (s.task c.t.task).desc.regs) ∧
        (opVal c.o.l).toNat % 8 = 0 ∧ (opVal c.o.l).toNat < 2 ^ 57)
      (fun _ c => { kind := .coll, l := opVal c.o.l, r := opVal c.o.r }) (fun _ _ => none))

/-- R198, R207, R210, R212: WSLD, BUFDEF, ADVP, ADVC, SLOAD and SSTORE defer their entries; a second ADVP or ADVC of a region for
the same buffer joins the first (this is the case of the first). -/
def Sys2Proof.Parts.BufferInstructionsDefer : Prop :=
  (∀ p, Defers (.wsld p) p .both .none .none
    (fun s c => bits (opVal c.o.r) 63 58 = 0 ∧ bits (opVal c.o.r) 28 11 = 0 ∧ 1 ≤ bits (opVal c.o.r) 10 0 ∧
      bits (opVal c.o.r) 10 0 ≤ 1024 ∧
      (∃ id b, s.bufOf c.t (bits (opVal c.o.r) 49 45) = some (id, b) ∧ 64 * bits (opVal c.o.r) 10 0 ≤ b.size) ∧
      ((opVal c.o.r).getLsbD 57 = true → bits (opVal c.o.r) 56 50 < (s.task c.t.task).desc.regs) ∧
      (opVal c.o.l).toNat % 64 = 0 ∧ (opVal c.o.l).toNat + 64 * bits (opVal c.o.r) 10 0 ≤ 2 ^ 31)
    (fun _ c => { kind := .wsld, l := opVal c.o.l, r := opVal c.o.r }) (fun _ _ => none)) ∧
  (∀ p, Defers (.bufdef p) p .both .none .none
    (fun s c => bits (opVal c.o.l) 24 0 = 0 ∧ (opVal c.o.r).toNat < 64 ∧ ((opVal c.o.r).getLsbD 5 = true → opVal c.o.l = 0) ∧
      ((opVal c.o.r).getLsbD 5 = false →
        64 * bits (opVal c.o.l) 59 50 + 64 * (bits (opVal c.o.l) 49 40 + 1) * (bits (opVal c.o.l) 39 25 + 1) ≤ 65536) ∧
      bits (opVal c.o.r) 4 0 < (s.task c.t.task).desc.buffers)
    (fun _ c => { kind := .bufdef, l := opVal c.o.l, r := opVal c.o.r }) (fun _ _ => none)) ∧
  (∀ p s c id b, Issues s c p .both → c.t.region.deferred.length < 32 → (opVal c.o.l).toNat < 32 → (opVal c.o.r).toNat < 65536 →
    s.bufOf c.t (opVal c.o.l).toNat = some (id, b) →
    ((∀ d ∈ c.t.region.deferred, ¬(d.kind = .advp ∧ d.y = id)) → (opVal c.o.r).toNat ≤ b.room →
      Completes (.advp p) s c (s.deferred c { kind := .advp, l := opVal c.o.l, r := opVal c.o.r, x := (opVal c.o.r).toNat, y := id })
        .none .none none none) ∧
    ((∀ d ∈ c.t.region.deferred, ¬(d.kind = .advc ∧ d.y = id)) → (opVal c.o.r).toNat ≤ b.filled →
      Completes (.advc p) s c (s.deferred c { kind := .advc, l := opVal c.o.l, r := opVal c.o.r, x := (opVal c.o.r).toNat, y := id })
        .none .none none none)) ∧
  (∀ p i kind, (i, kind) ∈ [(Instr.sload p, DefKind.sload), (.sstore p, .sstore)] →
    Defers i p .both .none .none (fun s c => ∀ x ∈ streamChecks c s (opVal c.o.l), x.1 = false)
      (fun _ c => { kind := kind, l := opVal c.o.l, r := opVal c.o.r }) (fun _ _ => none))

/-- R189, R198, R207, R210, R212, R241: the engine and buffer instructions take their entries. The
IGATHER entry captures ITB at fire (log 73, DEDUCED). -/
def Obligations.EnginesAndBuffersDefer : Prop :=
  Parts.EngineInstructionsDefer ∧ Parts.BufferInstructionsDefer

/-- R238, R244, R246, R247, R263, R269, R270, R271: GDEF, KPUT, KDEL, MDOM, ITBL, MTSR, RESUME and
TLBI defer their entries when the checks that their rules make at fire pass. MTSR, RESUME and TLBI
need a privileged task, and MTSR never writes RCNT; RESUME sends 1 when the handle names a strand
it can continue, and 0 otherwise. The ITBL entry captures ITB at fire (log 73, DEDUCED). -/
def Obligations.TableAndSystemInstructionsDefer : Prop :=
  (∀ p, Defers (.gdef p) p .both .none .none
    (fun _ c => gdefBad (opVal c.o.l) (opVal c.o.r) = false ∧
      genPairs (genKind (bits (opVal c.o.l) 63 62)) (Fmt.ofTag (bits (opVal c.o.l) 61 59)) = true)
    (fun _ c => { kind := .gdef, l := opVal c.o.l, r := opVal c.o.r }) (fun _ _ => none)) ∧
  (∀ p, ∀ (s : State) c id b, Issues s c p .both → c.t.region.deferred.length < 32 → (vref (opVal c.o.l)).low = false →
    (∀ x ∈ controlChecks c s (opVal c.o.r) false, x.1 = false) →
    (vref (opVal c.o.l)).fmt = .int8 → s.bufOf c.t (vref (opVal c.o.l)).buf = some (id, b) →
    RunsServed c s [(vref (opVal c.o.l)).run (vref (opVal c.o.l)).len] →
    Completes (.kput p) s c (s.deferred c { kind := .kput, l := opVal c.o.l, r := opVal c.o.r,
                                            x := (b.c + (vref (opVal c.o.l)).k) % b.count, y := id, buf := some b })
      .none .none none none) ∧
  (∀ p, Defers (.kdel p) p .both .none .none
    (fun s c => (opVal c.o.l).toNat < 2 ^ 40 ∧ ∀ x ∈ controlChecks c s (opVal c.o.r) true, x.1 = false)
    (fun _ c => { kind := .kdel, l := opVal c.o.l, r := opVal c.o.r }) (fun _ _ => none)) ∧
  (∀ p, Defers (.mdom p) p .both .none .none (fun s c => ∀ x ∈ mdomChecks c s (opVal c.o.l) (opVal c.o.r), x.1 = false)
    (fun _ c => { kind := .mdom, l := opVal c.o.l, r := opVal c.o.r }) (fun _ _ => none)) ∧
  (∀ p, Defers (.itbl p) p .both .none .none
    (fun s c => (opVal c.o.l).toNat < 2 ^ 18 ∧ bits (opVal c.o.l) 17 10 < bits (s.sysFor c.t).itb 8 0 ∧
      bits (opVal c.o.r) 62 57 = 0 ∧ ((opVal c.o.r).getLsbD 63 = false → opVal c.o.r = 0))
    (fun s c => { kind := .itbl, l := opVal c.o.l, r := opVal c.o.r, x := (s.sysFor c.t).itb.toNat }) (fun _ _ => none)) ∧
  (∀ p n, Defers (.mtsr p n) p .left .none .none
    (fun s c => n ≠ 3 ∧ (s.task c.t.task).privileged = true)
    (fun _ c => { kind := .mtsr, l := opVal c.o.l, x := n.toNat }) (fun _ _ => none)) ∧
  (∀ p a s c, Issues s c p .both → c.t.region.deferred.length < 32 → (opVal c.o.r).toNat % 4 = 0 →
    (s.task c.t.task).privileged = true →
    CompletesWith (.resume p a) s c (s.deferred c { kind := .resume, l := opVal c.o.l, r := opVal c.o.r }) a .none
      (match (s.ofHandle (opVal c.o.l)).bind s.strand with
        | some t => if t.resumable (opVal c.o.r) then 1 else 0
        | none => 0)) ∧
  (∀ p, Defers (.tlbi p) p .both .none .none
    (fun s c => bits (opVal c.o.l) 61 57 = 0 ∧ bits (opVal c.o.l) 11 0 = 0 ∧ (opVal c.o.r).toNat < 2 ^ 12 ∧
      (opVal c.o.r).toNat % 8 = 0 ∧ (bits (opVal c.o.l) 63 62 = 1 → bits (opVal c.o.l) 20 12 = 0) ∧
      (bits (opVal c.o.l) 63 62 = 2 → bits (opVal c.o.l) 56 12 = 0) ∧
      (bits (opVal c.o.l) 63 62 = 3 → bits (opVal c.o.l) 56 24 = 0) ∧
      ((opVal c.o.r).getLsbD 3 = true → bits (opVal c.o.r) 10 4 < (s.task c.t.task).desc.regs) ∧
      (s.task c.t.task).privileged = true)
    (fun _ c => { kind := .tlbi, l := opVal c.o.l, r := opVal c.o.r }) (fun _ _ => none))

/-- R269, R270, R271, R273: what needs a privileged task takes F_PROTECT in any other (MTSR,
privileged MFSR, RESUME, IDLE, and TLBI whose operands its other checks accept); MTSR of RCNT
takes it in every task. -/
def Obligations.PrivilegeFaults : Prop :=
  (∀ p s c, c.b.performed = false → Issues s c p .left →
    exec (.mtsr p 3) s = .next (s.takeFault c.k ⟨{ code := .protect }, c.b.addr, c.j⟩)) ∧
  (∀ p s c, c.b.performed = false → (s.task c.t.task).privileged = false →
    (∀ n, Issues s c p .left →
      exec (.mtsr p n) s = .next (s.takeFault c.k ⟨{ code := .protect }, c.b.addr, c.j⟩)) ∧
    (∀ n a, Issues s c p .none → (n = 4 ∨ n = 0x10 ∨ n = 0x11 ∨ n = 0x30) →
      exec (.mfsr p n a) s = .next (s.takeFault c.k ⟨{ code := .protect }, c.b.addr, c.j⟩)) ∧
    (∀ a, Issues s c p .both → (opVal c.o.r).toNat % 4 = 0 →
      exec (.resume p a) s = .next (s.takeFault c.k ⟨{ code := .protect }, c.b.addr, c.j⟩)) ∧
    (∀ a, Issues s c p .none → isValue c.o.l = false →
      exec (.idle p a) s = .next (s.takeFault c.k ⟨{ code := .protect }, c.b.addr, c.j⟩)) ∧
    (Issues s c p .both → (opVal c.o.l).toNat / 2 ^ 57 % 32 = 0 → (opVal c.o.l).toNat % 4096 = 0 → (opVal c.o.r).toNat < 4096 →
      (opVal c.o.r).toNat % 8 = 0 →
      ((opVal c.o.r).toNat / 8 % 2 = 1 → (opVal c.o.r).toNat / 16 % 128 < (s.task c.t.task).desc.regs) →
      ((opVal c.o.l).toNat / 2 ^ 62 = 0 ∨ (opVal c.o.l).toNat / 2 ^ 62 = 1 ∧ (opVal c.o.l).toNat % 2 ^ 21 = 0 ∨
        opVal c.o.l = 2 ^ 63 ∨ (opVal c.o.l).toNat / 2 ^ 62 = 3 ∧ (opVal c.o.l).toNat / 2 ^ 24 % 2 ^ 33 = 0) →
      exec (.tlbi p) s = .next (s.takeFault c.k ⟨{ code := .protect }, c.b.addr, c.j⟩)))

/-- R179, R180, R181: GBAR at a barrier it may name sends its arrival to the barrier's home, in its own chip or, at SCOPE 4, over the
fabric to chip HOME, once what a boundary instruction waits for has come. An arrival sent to a peer counts as performed from then on, as
no discard can withdraw it (the model's choice, log 82). -/
def Sys2Proof.Parts.GbarLeaves : Prop :=
  ∀ p a b s c m, Issues s c p .left → bits (opVal c.o.l) 63 61 = 0 → bits (opVal c.o.l) 47 32 = 0 → bits (opVal c.o.l) 15 11 = 0 →
    1 ≤ bits (opVal c.o.l) 10 8 → bits (opVal c.o.l) 10 8 ≤ 4 →
    (bits (opVal c.o.l) 10 8 ≤ 3 → bits (opVal c.o.l) 60 48 = 0) →
    bits (opVal c.o.l) 7 0 < (s.task c.t.task).desc.barriers →
    (bits (opVal c.o.l) 10 8 = 4 → bits (opVal c.o.l) 60 48 = s.chip ∨ s.reached (bits (opVal c.o.l) 60 48) = true) →
    boundaryReady c s = true →
    arrived c.t (bits (opVal c.o.l) 10 8) (barrierHome c.t (bits (opVal c.o.l) 10 8) (bits (opVal c.o.l) 60 48))
      (bits (opVal c.o.l) 7 0) = none →
    m = { task := c.t.task, scope := bits (opVal c.o.l) 10 8,
          home := if bits (opVal c.o.l) 10 8 = 1 then c.t.pav else if bits (opVal c.o.l) 10 8 = 2 then c.t.pav / 16
            else if bits (opVal c.o.l) 10 8 = 3 then 0 else bits (opVal c.o.l) 60 48,
          bar := bits (opVal c.o.l) 7 0, nm1 := bits (opVal c.o.l) 31 16, strand := some c.k, slot := c.j, chip := s.chip } →
    exec (.gbar p a b) s = .next
      (if bits (opVal c.o.l) 10 8 = 4 ∧ bits (opVal c.o.l) 60 48 ≠ s.chip
       then ((s.send (.arrival (bits (opVal c.o.l) 60 48) m)).modBlock c.k fun b => { b with performed := true }).leftAt c
       else s.sentAt c (.barrierArrival m))

/-- R179 to R188: the barrier and message ring instructions complete, or leave for their home. -/
def Obligations.BarriersAndRingsLeave : Prop :=
  Parts.BarrierAndRingInstructionsDefer ∧ Parts.MwaitCompletes ∧ Parts.GbarLeaves

/-- R40, R181: GBAR in a strand whose arrival at that barrier its save kept completes with the generation that came meanwhile, and
sends no second arrival. -/
def Sys2Proof.Parts.GbarCompletesRestored : Prop :=
  ∀ p a b s c w b2, Issues s c p .left → bits (opVal c.o.l) 63 61 = 0 → bits (opVal c.o.l) 47 32 = 0 →
    bits (opVal c.o.l) 15 11 = 0 → 1 ≤ bits (opVal c.o.l) 10 8 → bits (opVal c.o.l) 10 8 ≤ 4 →
    (bits (opVal c.o.l) 10 8 ≤ 3 → bits (opVal c.o.l) 60 48 = 0) →
    bits (opVal c.o.l) 7 0 < (s.task c.t.task).desc.barriers →
    (bits (opVal c.o.l) 10 8 = 4 → bits (opVal c.o.l) 60 48 = s.chip ∨ s.reached (bits (opVal c.o.l) 60 48) = true) →
    boundaryReady c s = true → w.done = true →
    arrived c.t (bits (opVal c.o.l) 10 8) (barrierHome c.t (bits (opVal c.o.l) 10 8) (bits (opVal c.o.l) 60 48))
      (bits (opVal c.o.l) 7 0) = some w →
    ({ c.b with performed := true } : BlockRun).fired c.j a b (some (.value (w.gen.setWidth 64)))
      (some (.value (w.gen.setWidth 64))) = some b2 →
    exec (.gbar p a b) s = .next
      (((s.modBlock c.k fun b => { b with performed := true }).modStrand c.k fun t => { t with barrier := none }).firedAt c
        { c.t with barrier := none } b2)

/-- R40, R175, R181: GBAR in a strand whose arrival at that barrier its save kept waits for the generation that is still to come and
sends no second arrival; before its boundary is ready any GBAR waits. -/
def Sys2Proof.Parts.GbarWaits : Prop :=
  ∀ p a b s c, Issues s c p .left → bits (opVal c.o.l) 63 61 = 0 → bits (opVal c.o.l) 47 32 = 0 →
    bits (opVal c.o.l) 15 11 = 0 → 1 ≤ bits (opVal c.o.l) 10 8 → bits (opVal c.o.l) 10 8 ≤ 4 →
    (bits (opVal c.o.l) 10 8 ≤ 3 → bits (opVal c.o.l) 60 48 = 0) →
    bits (opVal c.o.l) 7 0 < (s.task c.t.task).desc.barriers →
    (bits (opVal c.o.l) 10 8 = 4 → bits (opVal c.o.l) 60 48 = s.chip ∨ s.reached (bits (opVal c.o.l) 60 48) = true) →
    (boundaryReady c s = false → exec (.gbar p a b) s = .next (s.waitsAt c)) ∧
    (∀ w, boundaryReady c s = true → w.done = false →
      arrived c.t (bits (opVal c.o.l) 10 8) (barrierHome c.t (bits (opVal c.o.l) 10 8) (bits (opVal c.o.l) 60 48))
        (bits (opVal c.o.l) 7 0) = some w →
      exec (.gbar p a b) s = .next (((s.modBlock c.k fun b => { b with performed := true }).modStrand c.k fun t =>
        { t with barrier := some { w with slot := c.j }, state := .blocked }).leftAt c))

/-- R188: a second MWAIT of a region on one ring takes no entry of its own: it joins the entry of the first, whose count of records to
release it raises, and sends the record after those that the region has taken. -/
def Sys2Proof.Parts.MwaitJoins : Prop :=
  ∀ p a b s c rg n taken off len, Issues s c p .left → bits (opVal c.o.l) 63 61 = 0 → bits (opVal c.o.l) 31 29 = 0 →
    bits (opVal c.o.l) 23 0 = 0 → bits (opVal c.o.l) 60 48 = s.chip →
    bits (opVal c.o.l) 47 36 = (s.task c.t.task).logPav c.t.pav →
    n = bits (opVal c.o.l) 35 32 → s.ring c.t.pav n = some rg → taken = (c.t.region.waits.find n).getD 0 →
    rg.dataRecs[taken + queuedWaits c.t n]? = some (off, len) → (∃ d ∈ c.t.region.deferred, d.kind = .mwait ∧ d.y = n) →
    Completes (.mwait p a b) s c
      (s.modStrand c.k fun t => { t with region := { t.region with
        waits := t.region.waits.put n (taken + 1)
        deferred := t.region.deferred.map fun d => (if d.kind = .mwait ∧ d.y = n then { d with x := d.x + 1 } else d) } })
      a b (some (.value (BitVec.ofNat 64 (0xFF * 2 ^ 56 + rg.fe * 2 ^ 16 + rg.base + off + 8))))
      (some (.value (BitVec.ofNat 64 (s.home (bankKey c.t.pav rg.fe + rg.base + off) 8))))

/-- R182, R183, R185, R188: GBARX, MRING, MSEND and MWAIT complete: their slot is done, their tokens stand on their targets, and their
entry stands at the end of the region's deferred list. -/
def Sys2Proof.Parts.RingEntriesComplete : Prop :=
  (∀ p s c d b2, Issues s c p .none → c.t.region.deferred.length < 32 → d = { kind := .gbarx } →
    c.b.fired c.j .none .none none none = some b2 →
    exec (.gbarx p) s = .next ((s.deferred c d).firedAt c (c.t.noted c d) b2)) ∧
  (∀ p a b s c d v b2, Issues s c p .left → c.t.region.deferred.length < 32 →
    bits (opVal c.o.l) 63 52 = 0 → bits (opVal c.o.l) 43 21 = 0 →
    (bits (opVal c.o.l) 20 16 = 0 ∧ (s.ring c.t.pav (bits (opVal c.o.l) 51 48)).isSome = true ∨
      6 ≤ bits (opVal c.o.l) 20 16 ∧ bits (opVal c.o.l) 20 16 ≤ 16 ∧
        (s.ring c.t.pav (bits (opVal c.o.l) 51 48)).isSome = false ∧ regionDefines c (bits (opVal c.o.l) 51 48) = false ∧
        bits (opVal c.o.l) 15 0 % 2 ^ bits (opVal c.o.l) 20 16 = 0) →
    d = { kind := .mring, l := opVal c.o.l } →
    v = some (.value (BitVec.ofNat 64 (s.chip * 2 ^ 48 + (s.task c.t.task).logPav c.t.pav * 2 ^ 36 +
      bits (opVal c.o.l) 51 48 * 2 ^ 32 + bits (opVal c.o.l) 20 16 * 2 ^ 24))) →
    c.b.fired c.j a b v v = some b2 →
    exec (.mring p a b) s = .next ((s.deferred c d).firedAt c (c.t.noted c d) b2)) ∧
  (∀ p s c d b2, Issues s c p .both → c.t.region.deferred.length < 32 →
    bits (opVal c.o.l) 63 61 = 0 → bits (opVal c.o.l) 31 29 = 0 → bits (opVal c.o.l) 23 0 = 0 →
    6 ≤ bits (opVal c.o.l) 28 24 → bits (opVal c.o.l) 28 24 ≤ 16 →
    bits (opVal c.o.r) 63 58 = 0 → bits (opVal c.o.r) 40 36 = 0 → bits (opVal c.o.r) 31 16 = 0 →
    bits (opVal c.o.r) 49 41 ≠ 0 →
    ((opVal c.o.r).getLsbD 57 = true → bits (opVal c.o.r) 56 50 < (s.task c.t.task).desc.regs) →
    bits (opVal c.o.r) 15 0 % 8 = 0 → bits (opVal c.o.r) 15 0 + 8 * bits (opVal c.o.r) 49 41 ≤ 65536 →
    8 * (bits (opVal c.o.r) 49 41 + 1) ≤ 2 ^ bits (opVal c.o.l) 28 24 →
    d = { kind := .msend, l := opVal c.o.l, r := opVal c.o.r } → c.b.fired c.j .none .none none none = some b2 →
    exec (.msend p) s = .next ((s.deferred c d).firedAt c (c.t.noted c d) b2)) ∧
  (∀ p a b s c rg n taken off len d x y b2, Issues s c p .left → c.t.region.deferred.length < 32 →
    bits (opVal c.o.l) 63 61 = 0 → bits (opVal c.o.l) 31 29 = 0 → bits (opVal c.o.l) 23 0 = 0 →
    bits (opVal c.o.l) 60 48 = s.chip → bits (opVal c.o.l) 47 36 = (s.task c.t.task).logPav c.t.pav →
    n = bits (opVal c.o.l) 35 32 → s.ring c.t.pav n = some rg → taken = (c.t.region.waits.find n).getD 0 →
    rg.dataRecs[taken + queuedWaits c.t n]? = some (off, len) →
    (∀ e ∈ c.t.region.deferred, ¬(e.kind = .mwait ∧ e.y = n)) → d = { kind := .mwait, y := n, x := 1 } →
    x = some (.value (BitVec.ofNat 64 (0xFF * 2 ^ 56 + rg.fe * 2 ^ 16 + rg.base + off + 8))) →
    y = some (.value (BitVec.ofNat 64 (s.home (bankKey c.t.pav rg.fe + rg.base + off) 8))) →
    c.b.fired c.j a b x y = some b2 →
    exec (.mwait p a b) s = .next
      (((s.modStrand c.k fun t => { t with region := { t.region with waits := t.region.waits.put n (taken + 1) } }).deferred c d).firedAt
        c (Strand.noted { c.t with region := { c.t.region with waits := c.t.region.waits.put n (taken + 1) } } c d) b2))

/-- R181, R182, R183, R185, R188: the barrier and message ring instructions COMPLETE: exec answers a next state, given in full, for
every state and operands that meet their checks. GBAR's own effect is its arrival, and the generation token that answers it
(Obligations.BarriersComplete) or that its strand's save has kept; one that stands at a boundary that is not ready, or whose arrival the
save has kept without its generation, waits. A second MWAIT of a region on one ring joins the first one's entry. -/
def Obligations.BarrierAndRingInstructionsComplete : Prop :=
  Parts.GbarLeaves ∧ Parts.GbarCompletesRestored ∧ Parts.GbarWaits ∧ Parts.RingEntriesComplete ∧ Parts.MwaitJoins

/-- R14, R42, R43, R187, R269: what MFSR reads of each system register; a number that names none reads 0. -/
def Sys2Proof.Parts.MfsrCompletes : Prop :=
  ∀ p n a s c, Issues s c p .none →
    ((n = 4 ∨ n = 0x10 ∨ n = 0x11 ∨ n = 0x30) → (s.task c.t.task).privileged = true) →
    CompletesWith (.mfsr p n a) s c s a .none
      (if n = 1 then BitVec.ofNat 64 (s.task c.t.task).tagwin
       else if n = 2 then BitVec.ofNat 64 (s.task c.t.task).rclim
       else if n = 3 then BitVec.ofNat 64 c.t.rcnt.toNat
       else if n = 4 then BitVec.ofNat 64 (s.task c.t.task).seed
       else if n = 0x10 then BitVec.ofNat 64 ((s.terrace (c.t.pav / 512)).heldCount % 2 ^ 16 * 2 ^ 16 +
         (if (s.terrace (c.t.pav / 512)).ovf then 1 else 0))
       else if n = 0x11 then (s.terrace (c.t.pav / 512)).fring
       else if n = 0x20 then (s.task c.t.task).mdt
       else if n = 0x21 then (s.task c.t.task).route
       else if n = 0x22 then (s.task c.t.task).itb
       else if n = 0x30 then BitVec.ofNat 64 s.ringHold
       else 0)

/-- R268, R15, R44, R270: TRAP takes F_TRAP, and its record carries the trap code; the region is discarded first, so a strand that is
resumed without a next block stands at its region's first block again; a predicate that does not hold makes the TRAP pass. -/
def Obligations.TrapsAssert : Prop :=
  (∀ p code s c, Issues s c p .none → c.b.performed = false →
    exec (.trap p code) s = .next (s.takeFault c.k ⟨{ code := .trap, detail := BitVec.ofNat 64 code.toNat }, c.b.addr, c.j⟩)) ∧
  (∀ (s : State) k t code b j s1, s.memOk → s.strand k = some t → s.ringRoom (t.pav / 512) (s.task t.task).faulth = true →
    (s.terrace (t.pav / 512)).held = [] → s1 = s.takeFault k ⟨{ code := .trap, detail := code }, b, j⟩ →
    ∀ place, place = s.ringKey (ringBase (s.terrace (t.pav / 512)).fring + 64 +
        64 * ((s.terrace (t.pav / 512)).head.toNat % ringSize (s.terrace (t.pav / 512)).fring)) →
    place / 64 ≠ s.ringKey (ringBase (s.terrace (t.pav / 512)).fring) / 64 →
    s.ringKey (ringBase (s.terrace (t.pav / 512)).fring) < 2 ^ 55 →
    (∃ r : Record, r.kind = 1 ∧ r.cause = 0x0F ∧ r.detail = code ∧ r.block = b ∧ r.slot = j ∧ ∀ i, i < 64 →
      Memory.read s1.mem (place + i) = ((r.bytes (s.terrace (t.pav / 512)).head.toNat)[i]?).getD 0) ∧
    (∃ u, s1.strand k = some u ∧ u.state = .faulted ∧ u.block = none ∧ u.region.store = [] ∧ u.region.deferred = [] ∧
      (s1.resumeAt k 0).strand k = some { u with state := .ready, phase := .fetch, ip := t.region.ip })) ∧
  (∀ code s c v, s.ctx = some c → (c.o.status = .idle ∨ c.o.status = .waiting) → c.o.l ≠ some .cancel → c.o.r ≠ some .cancel →
    c.o.p = some (.value v) →
    (v.getLsbD 0 = false → exec (.trap .onTrue code) s = .next (s.setStatus c.k c.j .done)) ∧
    (v.getLsbD 0 = true → exec (.trap .onFalse code) s = .next (s.setStatus c.k c.j .done)))

/-- R187, R410: RINGHOLD is 16,384 at reset; a write, where the module operates, gives HOLD its low 20 bits, but a write of 0 to HOLD leaves it; its reserved bits read
0; MFSR and MTSR of it need a privileged task. -/
def Obligations.RingholdRegister : Prop :=
  State.reset.ringHold = 16384 ∧
  (∀ (s : State) v, s.dark = false → bits v 19 0 ≠ 0 → exec (.registerWrite .ringhold v) s = .next { s with ringHold := bits v 19 0 }) ∧
  (∀ (s : State) v, bits v 19 0 = 0 → exec (.registerWrite .ringhold v) s = .next s) ∧
  (∀ (s : State) k t pb d rest, s.strand k = some t → d.kind = .mtsr → d.x = 0x30 → launchAll k pb (d :: rest) s = launchAll k pb rest
    (if bits d.l 19 0 = 0 then s else { s with ringHold := bits d.l 19 0 })) ∧
  (∀ p a s c, Issues s c p .none → (s.task c.t.task).privileged = true →
    CompletesWith (.mfsr p 0x30 a) s c s a .none (BitVec.ofNat 64 s.ringHold)) ∧
  (∀ p s c, Issues s c p .left → c.t.region.deferred.length < 32 → (s.task c.t.task).privileged = true →
    Completes (.mtsr p 0x30) s c (s.deferred c { kind := .mtsr, l := opVal c.o.l, x := 0x30 }) .none .none none none) ∧
  (∀ p a s c, (s.task c.t.task).privileged = false → c.b.performed = false →
    (Issues s c p .none → exec (.mfsr p 0x30 a) s = .next (s.takeFault c.k ⟨{ code := .protect }, c.b.addr, c.j⟩)) ∧
    (Issues s c p .left → exec (.mtsr p 0x30) s = .next (s.takeFault c.k ⟨{ code := .protect }, c.b.addr, c.j⟩)))

/-- R426: ECCSTAT of each Terrace is 0 at reset; a write of zero to one of its fields clears it
and a nonzero write leaves it; each count goes up with an error detected or corrected, and stays
at its largest value. Which Terrace counts an error at an address of memory is the model's choice
(log 33). -/
def Obligations.EccstatRegister : Prop :=
  (∀ t, (State.reset.terrace t).uncorr = 0 ∧ (State.reset.terrace t).corr = 0) ∧
  (∀ (s : State) t v, s.dark = false → exec (.registerWrite (.eccstat t) v) s = .next (s.modTerrace t fun te =>
    { te with uncorr := if bits v 63 32 = 0 then 0 else te.uncorr, corr := if bits v 31 0 = 0 then 0 else te.corr })) ∧
  (∀ (s : State) t, t < s.terraces.length →
    ((s.eccCount t true).terrace t).uncorr.toNat = min ((s.terrace t).uncorr.toNat + 1) (2 ^ 32 - 1) ∧
    ((s.eccCount t true).terrace t).corr = (s.terrace t).corr ∧
    ((s.eccCount t false).terrace t).corr.toNat = min ((s.terrace t).corr.toNat + 1) (2 ^ 32 - 1) ∧
    ((s.eccCount t false).terrace t).uncorr = (s.terrace t).uncorr) ∧
  (∀ (s : State) pa, s.dark = false → exec (.patrolScrub pa false) s = .next (s.eccCount (keyTerrace pa) false))

/-- R199, R272, R273: PERF reads a counter of the pavilion (the two that count
cycles are free values, log 6); IDLE waits in its slot for its answer, and sends the answer that has come; WSREF 64 sends the mask
of the segment in its refresh window, and of a segment sends its two times, whose part within the window is a free value (log 6). -/
def Sys2Proof.Parts.SystemInstructionsComplete : Prop :=
  (∀ p n a s c, Issues s c p .none →
    (n ≠ 0 → n ≠ 5 → CompletesWith (.perf p n a) s c s a .none (s.perfAt c.t.pav n.toNat)) ∧
    ((n = 0 ∨ n = 5) → CompletesWith (.perf p n a) s c s.tick a .none (Config.freeCycles s.ticks))) ∧
  (∀ p a s c, Issues s c p .none →
    (∀ v, c.o.l = some (.value v) → CompletesWith (.idle p a) s c s a .none v) ∧
    (isValue c.o.l = false → (s.task c.t.task).privileged = true →
      exec (.idle p a) s = .next (s.leftAt c))) ∧
  (∀ p a b s c, Issues s c p .left →
    (opVal c.o.l = 64 →
      CompletesWith (.wsref p a b) s c s a b (BitVec.ofNat 64 (2 ^ (s.terrace (c.t.pav / 512)).seg))) ∧
    ((opVal c.o.l).toNat < 64 → ∀ d o,
      d = ((opVal c.o.l).toNat + 64 - (s.terrace (c.t.pav / 512)).seg) % 64 → o = (Config.freeCycles s.ticks).toNat % 4096 →
      CompletesWith (.wsref p a b) s c s.tick a b (BitVec.ofNat 64 (if d = 0 then (4096 - o) * 2 ^ 32 + (64 * 4096 - o)
        else d * 4096 - o))))

/-- R199, R269, R272, R273: MFSR, PERF, IDLE and WSREF complete. -/
def Obligations.SystemReadsComplete : Prop :=
  Parts.MfsrCompletes ∧ Parts.SystemInstructionsComplete

/-- R209, R239: BUFINFO sends P, C and the two counts of a buffer; WAITF sends the filled count and WAITE the free count once it
reaches the number asked for; GSEED sends the scoped seed of a defined generator. -/
def Sys2Proof.Parts.BufferQueriesComplete : Prop :=
  (∀ p a b s c id bf, Issues s c p .left → (opVal c.o.l).toNat < 32 → s.bufOf c.t (opVal c.o.l).toNat = some (id, bf) →
    CompletesWith (.bufinfo p a b) s c s a b (BitVec.ofNat 64 (bf.p * 2 ^ 48 + bf.c * 2 ^ 32 + bf.filled * 2 ^ 16 + bf.room))) ∧
  (∀ p a b s c id bf, Issues s c p .both → (opVal c.o.l).toNat < 32 → (opVal c.o.r).toNat ≤ bf.count →
    (opVal c.o.r).toNat < 65536 → s.bufOf c.t (opVal c.o.l).toNat = some (id, bf) →
    ((opVal c.o.r).toNat ≤ bf.filled → CompletesWith (.waitf p a b) s c s a b (BitVec.ofNat 64 bf.filled)) ∧
    (bf.filled < (opVal c.o.r).toNat →
      exec (.waitf p a b) s = .next (s.waitsAt c)) ∧
    ((opVal c.o.r).toNat ≤ bf.room → CompletesWith (.waite p a b) s c s a b (BitVec.ofNat 64 bf.room))) ∧
  (∀ p a b s c g, Issues s c p .left → (opVal c.o.l).toNat < 16 → s.gen c.t (opVal c.o.l).toNat = some g →
    CompletesWith (.gseed p a b) s c s a b (BitVec.ofNat 64 g.seed))

/-- R250, R251: MATCH and MATCHC read their query at fire and are sent to the domain's arbiter; MATCHC, a boundary instruction, once
what it waits for has come. ITPERM leaves for the table's home in the same way. -/
def Sys2Proof.Parts.QueriesLeave : Prop :=
  (∀ a b s c v, Issues s c .always .three → v = vref (opVal c.o.l) → v.low = false → bits (opVal c.o.r) 27 0 = 0 →
    bits (opVal c.o.r) 49 48 ≠ 3 → bits (opVal c.o.r) 63 56 < bits (s.sysFor c.t).mdt 8 0 →
    (∃ x, s.bufOf c.t (bits (opVal c.o.r) 47 43) = some x) → tempBad (bits (opVal c.o.p) 63 32) = false →
    RunsServed c s [v.run v.len] →
    ∀ q : Bool → Query, (q = fun consume =>
      { task := c.t.task, strand := c.k, slot := c.j, block := c.b.addr, tag := c.t.region.tag, consume := consume,
        r := opVal c.o.r, third := opVal c.o.p, fmt := v.fmt.tag, len := v.len,
        bytes := readRun c s v.buf v.k (runBytes v.fmt v.len) }) →
    exec (.matchQ a b) s = .next
      (State.sentAt { s with queries := s.queries.put s.queries.fresh (q false) } c (.domainGrant s.queries.fresh)) ∧
    (boundaryReady c s = true → exec (.matchc a b) s = .next
      (State.sentAt { s with queries := s.queries.put s.queries.fresh (q true) } c (.domainGrant s.queries.fresh)))) ∧
  (∀ p a b s c, Issues s c p .both → (opVal c.o.l).toNat < 2 ^ 18 →
    bits (opVal c.o.l) 17 10 < bits (s.sysFor c.t).itb 8 0 → (opVal c.o.r).toNat % 2 = 0 →
    s.fireCheck c.t (opVal c.o.r) 2 = none → boundaryReady c s = true →
    exec (.itperm p a b) s = .next (s.sentAt c (.itpermPerform c.k c.j)))

/-- R209, R239, R250, R264: the instructions that ask for a buffer's counts, a generator's seed, a match or a permutation. -/
def Obligations.QueriesLeaveAndComplete : Prop :=
  Parts.BufferQueriesComplete ∧ Parts.QueriesLeave

/-! ### Vectors (R203 to R205, R215 to R223, R260, R261) -/

/-- R215, R217: the arithmetic and logical vector instructions of two sources. Floating elements are rounded once from the exact
result; INT32 elements wrap. -/
def Sys2Proof.Parts.VectorPairsComplete : Prop :=
  ∀ p a b,
    VecMaps2 (.vadd p a b) p a b arithFmt (fun f u v => if f.isFloat then roundF f .rne ((decodeF f u).add (decodeF f v))
      else bitsOf 32 (signedOf 32 u + signedOf 32 v)) ∧
    VecMaps2 (.vsub p a b) p a b arithFmt (fun f u v => if f.isFloat then roundF f .rne ((decodeF f u).sub (decodeF f v))
      else bitsOf 32 (signedOf 32 u - signedOf 32 v)) ∧
    VecMaps2 (.vmul p a b) p a b arithFmt (fun f u v => if f.isFloat then roundF f .rne ((decodeF f u).mul (decodeF f v))
      else bitsOf 32 (signedOf 32 u * signedOf 32 v)) ∧
    VecMaps2 (.vmin p a b) p a b arithFmt (fun f u v => if f.isFloat then roundF f .rne ((decodeF f u).min (decodeF f v))
      else bitsOf 32 (min (signedOf 32 u) (signedOf 32 v))) ∧
    VecMaps2 (.vmax p a b) p a b arithFmt (fun f u v => if f.isFloat then roundF f .rne ((decodeF f u).max (decodeF f v))
      else bitsOf 32 (max (signedOf 32 u) (signedOf 32 v))) ∧
    VecMaps2 (.vand p a b) p a b (fun _ => true) (fun _ u v => u &&& v) ∧
    VecMaps2 (.vor p a b) p a b (fun _ => true) (fun _ u v => u ||| v) ∧
    VecMaps2 (.vxor p a b) p a b (fun _ => true) (fun _ u v => u ^^^ v) ∧
    VecMaps2 (.vshl p a b) p a b (fun f => f == .int32) (fun _ u v => u * 2 ^ (v % 32) % 2 ^ 32)

/-- R104, R215, R217: the vector instructions of one source: absolute value, negation, 2 to the power, reciprocal and reciprocal
square root. -/
def Sys2Proof.Parts.VectorSingleMapsComplete : Prop :=
  ∀ p a b,
    VecMaps1 (.vabs p a b) p a b arithFmt (fun f u => if f.isFloat then roundF f .rne (decodeF f u).abs
      else bitsOf 32 (if signedOf 32 u < 0 then -signedOf 32 u else signedOf 32 u)) ∧
    VecMaps1 (.vneg p a b) p a b arithFmt (fun f u => if f.isFloat then roundF f .rne (decodeF f u).neg
      else bitsOf 32 (-signedOf 32 u)) ∧
    VecMaps1 (.vexp2 p a b) p a b (fun f => f == .fp32 || f == .fp16 || f == .bf16)
      (fun f u => roundF f .rne (decodeF .fp32 (exp2 (decodeF f u)))) ∧
    VecMaps1 (.vrcp p a b) p a b Fmt.isFloat (fun f u => roundF f .rne ((Num.fin false 1 0).div (decodeF f u))) ∧
    VecMaps1 (.vrsq p a b) p a b Fmt.isFloat (fun f u => roundF f .rne (Num.rsqrt (decodeF f u)))

/-- R219: the reductions of a run to one value: the sum by the fixed tree for floating formats and modulo 2^32 for INT32, the
largest and the smallest element. -/
def Sys2Proof.Parts.VectorFoldsComplete : Prop :=
  ∀ p a b,
    VecFolds (.vredsum p a b) p a b (fun f l => placeElem f
      (if f.isFloat then roundF f .rne (decodeF f (treeSum f l)) else l.sum % 2 ^ 32)) ∧
    VecFolds (.vredmax p a b) p a b (fun f l => placeElem f
      (if f.isFloat then roundF f .rne (l.foldl (fun m e => m.max (decodeF f e)) (.inf true))
       else bitsOf 32 (l.foldl (fun m e => max m (signedOf 32 e)) (-2 ^ 31)))) ∧
    VecFolds (.vredmin p a b) p a b (fun f l => placeElem f
      (if f.isFloat then roundF f .rne (l.foldl (fun m e => m.min (decodeF f e)) (.inf false))
       else bitsOf 32 (l.foldl (fun m e => min m (signedOf 32 e)) (2 ^ 31 - 1))))

/-- R215, R217, R219: the vector instructions that treat their elements one by one, pair by pair, or fold them. -/
def Obligations.VectorMapsComplete : Prop :=
  Parts.VectorPairsComplete ∧ Parts.VectorSingleMapsComplete ∧ Parts.VectorFoldsComplete

/-- R215, R216, R218: the vector instructions whose right operand says more: VFMA (three sources, one rounding), VCVT (the format
and rounding of the control word), VSEL (a mask decides), VCMP (a mask results) and VSHR (sign fill when ARITH). -/
def Sys2Proof.Parts.VectorControlsComplete : Prop :=
  (∀ a b s c x y z n, Issues s c .always .three → x = vref (opVal c.o.l) → y = vref (opVal c.o.r) → z = vref (opVal c.o.p) →
    n = min x.len (min y.len z.len) → x.low = false → y.ctl = 0 → z.ctl = 0 → x.fmt = y.fmt → x.fmt = z.fmt →
    arithFmt x.fmt = true → RunsServed c s [x.run n, y.run n, z.run n, x.dst (runBytes x.fmt n)] →
    CompletesWith (.vfma a b) s c (writeRun c s x.dbuf x.dk (pack x.fmt
      (((elems c s x n).zip ((elems c s y n).zip (elems c s z n))).map fun e =>
        if x.fmt.isFloat then roundF x.fmt .rne ((decodeF x.fmt e.1).fma (decodeF x.fmt e.2.1) (decodeF x.fmt e.2.2))
        else bitsOf 32 (signedOf 32 e.1 * signedOf 32 e.2.1 + signedOf 32 e.2.2)))) a b
      (completion (decide (¬(x.len = y.len ∧ x.len = z.len))) false false n)) ∧
  (∀ p a b s c x f, Issues s c p .both → x = vref (opVal c.o.l) → f = Fmt.ofTag (bits (opVal c.o.r) 2 0) → x.low = false →
    (opVal c.o.r).toNat < 16 → RunsServed c s [x.run x.len, x.dst (runBytes f x.len)] →
    CompletesWith (.vcvt p a b) s c (writeRun c s x.dbuf x.dk (pack f ((elems c s x x.len).map fun e =>
      cvt f (RM.ofBit (bit (opVal c.o.r) 3)) (decodeElem x.fmt e)))) a b (completion false false false x.len)) ∧
  (∀ p a b s c x y n mb, Issues s c p .both → x = vref (opVal c.o.l) → y = vref (opVal c.o.r) → n = min x.len y.len →
    mb = (n + 7) / 8 → x.low = false → y.low = false → x.fmt = y.fmt →
    RunsServed c s [x.run n, y.run n, ⟨y.dbuf, y.dk, mb, mb, false⟩, x.dst (runBytes x.fmt n)] →
    CompletesWith (.vsel p a b) s c (writeRun c s x.dbuf x.dk (pack x.fmt
      (((List.range n).zip ((elems c s x n).zip (elems c s y n))).map fun e =>
        canonCode x.fmt (if (((readRun c s y.dbuf y.dk mb)[e.1 / 8]?).getD 0).getLsbD (e.1 % 8) then e.2.1 else e.2.2)))) a b
      (completion (decide (x.len ≠ y.len)) false false n)) ∧
  (∀ p a b s c x y n mb, Issues s c p .both → x = vref (opVal c.o.l) → y = vref (opVal c.o.r) → n = min x.len y.len →
    mb = (n + 7) / 8 → x.low = false → y.ctl ≤ 4 → x.fmt = y.fmt → arithFmt x.fmt = true → (y.ctl = 4 → x.fmt = .int32) →
    RunsServed c s [x.run n, y.run n, x.dst mb] →
    CompletesWith (.vcmp p a b) s c (writeRun c s x.dbuf x.dk (packBits mb
      (((elems c s x n).zip (elems c s y n)).map fun e => cmpElem x.fmt y.ctl e.1 e.2))) a b
      (completion (decide (x.len ≠ y.len)) false false n)) ∧
  (∀ p a b s c x y n, Issues s c p .both → x = vref (opVal c.o.l) → y = vref (opVal c.o.r) → n = min x.len y.len →
    x.low = false → y.ctl ≤ 1 → x.fmt = .int32 → y.fmt = .int32 →
    RunsServed c s [x.run n, y.run n, x.dst (runBytes .int32 n)] →
    CompletesWith (.vshr p a b) s c (writeRun c s x.dbuf x.dk (pack .int32
      (((elems c s x n).zip (elems c s y n)).map fun e =>
        if y.ctl = 1 then bitsOf 32 (signedOf 32 e.1 / (2 ^ (e.2 % 32) : Nat)) else e.1 / 2 ^ (e.2 % 32)))) a b
      (completion (decide (x.len ≠ y.len)) false false n))

/-- R220 to R223: VSCAN writes inclusive prefixes, rounding after each addition; VPERM the
elements of A that its indices name, the format's zero where an index lies outside, OOR saying so;
VBCAST one code LEN times; VISECT the entries with equal coordinates. R205: VPERM and VISECT set
LENMIS where the runs differ in length (DEDUCED, log 19). -/
def Sys2Proof.Parts.VectorSequencesComplete : Prop :=
  (∀ p a b s c x, Issues s c p .left → x = vref (opVal c.o.l) → x.low = false → arithFmt x.fmt = true →
    RunsServed c s [x.run x.len, x.dst (runBytes x.fmt x.len)] →
    CompletesWith (.vscan p a b) s c (writeRun c s x.dbuf x.dk (pack x.fmt
      (match elems c s x x.len with
        | [] => []
        | h :: t => (if x.fmt.isFloat then roundF x.fmt .rne (decodeF x.fmt h) else h) ::
          scanGo x.fmt (if x.fmt.isFloat then roundF x.fmt .rne (decodeF x.fmt h) else h) t))) a b
      (completion false false false x.len)) ∧
  (∀ p a b s c x y (idx : List Int), Issues s c p .both → x = vref (opVal c.o.l) → y = vref (opVal c.o.r) → x.low = false → y.ctl = 0 →
    y.fmt = .int32 →
    RunsServed c s [⟨x.buf, x.k, 0, runBytes x.fmt x.len, false⟩, y.run y.len, x.dst (runBytes x.fmt y.len)] →
    idx = (elems c s y y.len).map (signedOf 32) → (∀ i ∈ idx, 0 ≤ i ∧ i < x.len → runReady c s (x.run (i.toNat + 1)) = true ∧
      bytesPoisoned c s x (i.toNat * x.fmt.width / 8) (ceilDiv x.fmt.width 8) = false) →
    ∀ n, (∀ i ∈ idx, 0 ≤ i ∧ i < x.len → i.toNat < n) → (n = 0 ∨ ∃ i ∈ idx, 0 ≤ i ∧ i < x.len ∧ n = i.toNat + 1) →
    CompletesWith (.vperm p a b) s c (writeRun c s x.dbuf x.dk (pack x.fmt (idx.map fun (i : Int) =>
      if 0 ≤ i ∧ i < x.len then ((elems c s x n)[i.toNat]?).getD 0 else zeroCode x.fmt))) a b
      (completion (decide (x.len ≠ y.len)) (idx.any fun i => decide (¬(0 ≤ i ∧ i < x.len))) false y.len)) ∧
  (∀ p a b s c x, Issues s c p .both → x = vref (opVal c.o.l) → x.low = false → x.buf = 0 → x.k = 0 →
    RunsServed c s [x.dst (runBytes x.fmt x.len)] →
    CompletesWith (.vbcast p a b) s c (writeRun c s x.dbuf x.dk (pack x.fmt
      (List.replicate x.len ((opVal c.o.r).toNat % 2 ^ x.fmt.width)))) a b (completion false false false x.len)) ∧
  (∀ p a b s c x y out order, Issues s c p .both → x = vref (opVal c.o.l) → y = vref (opVal c.o.r) → x.low = false → y.ctl ≤ 1 →
    x.fmt = y.fmt → (x.fmt = .int32 ∨ x.fmt = .fp32) →
    RunsServed c s [⟨x.buf, x.k, 0, 8 * x.len, false⟩, ⟨y.buf, y.k, 0, 8 * y.len, false⟩, x.dst 0] →
    isectGo c s x y (y.ctl == 0) (x.len + y.len + 1) 0 0 none none [] = .done out order →
    runBad c s (x.dst (8 * out.length)) = false → runReady c s (x.dst (8 * out.length)) = true →
    CompletesWith (.visect p a b) s c (writeRun c s x.dbuf x.dk (out.flatMap fun w => toLe 8 w.toNat)) a b
      (completion (decide (x.len ≠ y.len)) false order out.length))

/-- R205, R215, R216, R218, R220 to R223: the other vector instructions, whose token is that of
R205. LENMIS of VPERM and VISECT is DEDUCED (log 19). -/
def Obligations.VectorOthersComplete : Prop :=
  Parts.VectorControlsComplete ∧ Parts.VectorSequencesComplete

/-- R205, R260, R261: MATCHB writes the bound of each page of a table of page bounds against a
query, and TOPK the first K elements by rank, each with its index. Their token is that of R205;
LENMIS of MATCHB is DEDUCED (log 19). -/
def Obligations.SelectionCompletes : Prop :=
  (∀ p a b s c x y dim kr pages, Issues s c p .both → x = vref (opVal c.o.l) → y = vref (opVal c.o.r) →
    dim = y.ctl % 256 + 1 → kr = (dim + 15) / 16 * 16 → pages = x.len / (2 * kr) →
    x.low = false → y.ctl < 512 → x.len % (2 * kr) = 0 → y.len = dim → x.fmt = .int8 → y.fmt = .int8 →
    RunsServed c s [x.run x.len, y.run y.len, x.dst (4 * pages)] →
    CompletesWith (.matchb p a b) s c (writeRun c s x.dbuf x.dk ((List.range pages).flatMap fun j =>
      toLe 4 (bitsOf 32 (pageBound (y.ctl / 256 % 2 == 1) (readRun c s y.buf y.k y.len)
        ((readRun c s x.buf x.k x.len).drop (2 * kr * j)) ((readRun c s x.buf x.k x.len).drop (2 * kr * j + kr)))))) a b
      (completion (decide (x.len ≠ y.len)) false false pages)) ∧
  (∀ p a b s c x k, Issues s c p .both → x = vref (opVal c.o.l) → k = (opVal c.o.r).toNat → x.low = false → 1 ≤ k → k ≤ 256 →
    x.len ≤ 262144 → (x.fmt = .int32 ∨ x.fmt = .fp32 ∨ x.fmt = .fp16 ∨ x.fmt = .bf16) →
    RunsServed c s [x.run x.len, x.dst (8 * min k x.len)] →
    CompletesWith (.topk p a b) s c (writeRun c s x.dbuf x.dk
      ((topElems x.fmt (min k x.len) (elems c s x x.len)).flatMap fun e => toLe 4 e.2 ++ toLe 4 e.1)) a b
      (completion false false false (min k x.len)))

/-- R204: the run of a result changes its own bytes alone: every other byte of memory reads as before, and nothing but memory, the
poison of the words it covers, and the marks of pages and lines in flight changes. -/
def Obligations.VectorResultFrame : Prop :=
  ∀ c s buf k d, writeRun c s buf k d =
      { s with mem := (writeRun c s buf k d).mem, poison := (writeRun c s buf k d).poison, migs := (writeRun c s buf k d).migs,
               lines := (writeRun c s buf k d).lines } ∧
    ∀ a, (∀ id b o, s.bufOf c.t buf = some (id, b) → o < d.length → a ≠ b.byteKey true k o) →
      Memory.read (writeRun c s buf k d).mem a = Memory.read s.mem a

/-! ### Tiles and accumulators (R28, R29, R89 to R101, R224 to R231, R233) -/

/-- R28, R225, R226: TLD sends the token of the physical slot at consumer-side index SLOT once it
is filled; TST copies the tile of a token, with its row scales, into the destination's slot, and
TLDT its transpose. That TST and TLDT take the scales from the bank of the token's FE is the
model's choice (log 69). -/
def Sys2Proof.Parts.TileMovesComplete : Prop :=
  (∀ p a b s c t id bf, Issues s c p .left → t = tileTok (opVal c.o.l) → s.bufOf c.t t.buf = some (id, bf) → t.slot < bf.count →
    t.res = 0 → t.fe = 0 → t.fmt.tileBytes ≤ bf.size → auxBad t.fmt t.pl t.aux = false → t.slot < bf.filled →
    CompletesWith (.tld p a b) s c s a b
      (TileTok.word { t with fe := bf.fe, slot := (bf.c + t.slot) % bf.count })) ∧
  (∀ p a b s c t d id id' b0 bf, Issues s c p .both → t = tileTok (opVal c.o.l) → d = dstSpec (opVal c.o.r) →
    s.bufOf c.t t.buf = some (id, b0) → s.bufOf c.t d.buf = some (id', bf) → d.res = 0 → d.k < bf.count →
    tokBad c s t = false → d.fmt = t.fmt → d.rm = false → d.scauto = false → d.fmt.tileBytes ≤ bf.size →
    auxBad t.fmt t.pl t.aux = false → auxBad d.fmt d.pl d.aux = false → d.k < bf.room → tilePoisoned c s t = false →
    ((t.fmt.isNarrow = false ∨ nosc t.aux = true ∧ nosc d.aux = true) →
      CompletesWith (.tst p a b) s c (s.writeHome (bf.slotKey ((bf.p + d.k) % bf.count))
        (writeTile d.fmt d.pl d.aux (tileRows c s t))) a b (d.token bf) ∧
      CompletesWith (.tldt p a b) s c (s.writeHome (bf.slotKey ((bf.p + d.k) % bf.count))
        (writeTile d.fmt d.pl d.aux (transpose 0 (tileRows c s t)))) a b (d.token bf)) ∧
    (t.fmt.isNarrow = true → nosc t.aux = false → nosc d.aux = false → scalesPoisoned c s (t.fe) t.fmt t.aux = false →
      CompletesWith (.tst p a b) s c
        ((s.writeHome (bf.slotKey ((bf.p + d.k) % bf.count)) (writeTile d.fmt d.pl d.aux (tileRows c s t))).writeHome
          (bankKey c.t.pav bf.fe + scaddr d.aux)
          ((rowScales c s (t.fe) t.fmt t.aux).map fun e => BitVec.ofInt 8 e)) a b (d.token bf)) ∧
    (t.fmt.isNarrow = true → ¬(nosc t.aux = true ∧ nosc d.aux = true) → c.b.performed = false → c.t.kind = .ordinary →
      exec (.tldt p a b) s = .next (s.takeFault c.k ⟨{ code := .format }, c.b.addr, c.j⟩)))

/-- R95, R96, R224: a tile's bytes hold its 1,024 codes in each form: reading what was written gives the codes back. In element form
element (i, j) stands at byte (32 i + j) w / 8, low byte first; of INT4, in byte 16 i + j / 2, in the low nibble when j is even. -/
def Obligations.TileFormsRoundTrip : Prop :=
  ∀ f pl aux rows, rows.length = 32 → (∀ r ∈ rows, r.length = 32 ∧ ∀ v ∈ r, v < 2 ^ f.width) →
    readTile f pl aux (writeTile f pl aux rows) = rows ∧
    (swizzled f aux = false → ∀ i j r v, rows[i]? = some r → r[j]? = some v →
      (8 ≤ f.width → ∀ n, n < f.width / 8 →
        (writeTile f false aux rows)[(32 * i + j) * f.width / 8 + n]? = some (BitVec.ofNat 8 (v / 2 ^ (8 * n)))) ∧
      (f.width = 4 → ∃ x, (writeTile f false aux rows)[16 * i + j / 2]? = some x ∧ x.toNat / 16 ^ (j % 2) % 16 = v))

/-- R29, R97 to R101, R227 to R229: TZERO clears an accumulator (an even-odd pair for FP64) and its sticky bit; TMMA of two operands
that make a pair writes to it the product of the row operand by the column operand, added to what it holds when ACCUM is 1. -/
def Obligations.AccumulatorsComplete : Prop :=
  (∀ p a b s c t, Issues s c p .left → t = accTok (opVal c.o.l) → t.zero = true → t.fmtBad = false →
    accOverlap c s (accIds c.t.pav t.fe t.acc (t.tag == 2)) = false →
    CompletesWith (.tzero p a b) s c
      (((s.setAcc c.t.pav t.fe t.acc (t.tag == 2) zeroRows).clearSticky (accIds c.t.pav t.fe t.acc (t.tag == 2))).touchAcc c.k
        (accIds c.t.pav t.fe t.acc (t.tag == 2))) a b (opVal c.o.l)) ∧
  (∀ a b s c ctl fe acc x y f scaled ids base, Issues s c .always .three → ctl = opVal c.o.p → bits ctl 39 0 = 0 →
    fe = bits ctl 63 60 → acc = bits ctl 59 58 →
    mmaOperand c s (opVal c.o.l) = .ok x → mmaOperand c s (opVal c.o.r) = .ok y →
    pairAcc x.fmt y.fmt (bit ctl 54) = some f → bits ctl 53 47 + 1 ≤ x.fmt.sig → bits ctl 46 40 + 1 ≤ y.fmt.sig →
    (f = .fp64 → acc % 2 = 0) → scaled = (f == .fp32 && !x.fmt.isFloat) → x.auxBad scaled = false → y.auxBad scaled = false →
    x.poisoned c s scaled = false → y.poisoned c s scaled = false → ids = accIds c.t.pav fe acc (f == .fp64) → accOverlap c s ids = false →
    base = accRows s c.t.pav fe acc (f == .fp64) →
    ∀ res, res = mmaResult f base (mmaElems c s x (bits ctl 53 47 + 1) scaled (bit ctl 56))
      (transpose (.fin false 0 0) (mmaElems c s y (bits ctl 46 40 + 1) scaled (bit ctl 55))) (bit ctl 57) (!x.fmt.isFloat) →
    ∀ s1 s2, s1 = (if bit ctl 57 then s else s.clearSticky ids) →
      s2 = (if f = .int32 ∧ (res.any fun r => r.any fun e => e.2) = true then s1.setSticky (accId c.t.pav fe acc) else s1) →
    CompletesWith (.tmma a b) s c
      ((s2.setAcc c.t.pav fe acc (f == .fp64) (res.map fun r => r.map fun e => e.1)).touchAcc c.k ids) a b
      (accWord f.tag fe acc))

/-- R29: an accumulator that is set reads as the codes it was given, and no other accumulator changes. -/
def Obligations.AccumulatorReadsBack : Prop :=
  ∀ (s : State) pav fe acc rows, Memory.wf s.accW = true → rows.length = 32 → (∀ r ∈ rows, r.length = 32 ∧ ∀ v ∈ r, v < 2 ^ 32) → acc < 4 → fe < 16 →
    accRows (s.setAcc pav fe acc false rows) pav fe acc false = rows ∧
    (∀ pav' fe' acc', accId pav' fe' acc' ≠ accId pav fe acc → acc' < 4 → fe' < 16 →
      accRows (s.setAcc pav fe acc false rows) pav' fe' acc' false = accRows s pav' fe' acc' false) ∧
    s.setAcc pav fe acc false rows = { s with accW := (s.setAcc pav fe acc false rows).accW }

/-- R94, R231: TCVT of a tile or an accumulator writes each element converted, at the row scales
of the destination or those it chooses, and sends the destination's token; when elements saturated
it sends their count and largest magnitude to TB, and counts them when TB is no target. R233:
TDRAIN stages the accumulator's tile for a route table entry, zeroes it and its sticky bit when
asked (the sticky bit against the words of R101: DEDUCED, log 68), and defers its departure. -/
def Sys2Proof.Parts.ConversionsComplete : Prop :=
  (∀ p a b s c d rows id bf, Issues s c p .both → d = dstSpec (opVal c.o.r) → d.res = 0 →
    tcvtSource c s (opVal c.o.l) = .ok rows → s.bufOf c.t d.buf = some (id, bf) → d.k < bf.count →
    (d.scauto = true → d.fmt.isNarrow = true ∧ nosc d.aux = false) → d.fmt.tileBytes ≤ bf.size →
    auxBad d.fmt d.pl d.aux = false → d.k < bf.room → (d.scauto = false → scalesPoisoned c s bf.fe d.fmt d.aux = false) →
    ∀ scales res sat, scales = (if d.scauto then rows.map (chooseScale d.fmt (RM.ofBit d.rm))
        else rowScales c s bf.fe d.fmt d.aux) →
      res = ((rows.zip scales).map fun x => x.1.map fun e => (cvtSat d.fmt (RM.ofBit d.rm) x.2 e, e)) →
      sat = (res.flatten.filterMap fun e => if e.1.2 then some e.2 else none) →
    ∀ s1 s2, s1 = s.writeHome (bf.slotKey ((bf.p + d.k) % bf.count))
        (writeTile d.fmt d.pl d.aux (res.map fun r => r.map fun e => e.1.1)) →
      s2 = (if d.scauto then s1.writeHome (bankKey c.t.pav bf.fe + scaddr d.aux) (scales.map fun e => BitVec.ofInt 8 e) else s1) →
    Completes (.tcvt p a b) s c (if b = .none then s2.addPerf c.t.pav (16 + bf.fe) sat.length else s2) a b
      (some (.value (d.token bf))) (if sat = [] then none else some (.value (overflowTok sat)))) ∧
  (∀ p a b s c t n idx e ids, Issues s c p .both → c.t.region.deferred.length < 32 → t = accTok (opVal c.o.l) → t.zero = true →
    t.fmtBad = false → n = (if c.b.ext.toNat % 256 = 0 then 256 - c.b.ext.toNat / 2 ^ 8 % 256 else c.b.ext.toNat % 256) →
    idx = c.b.ext.toNat / 2 ^ 8 % 256 + bits (opVal c.o.r) 62 0 % n → (s.sysFor c.t).routes[idx]? = some e →
    bit e 63 = true → bits e 62 60 = 0 → bits e 8 0 = 0 →
    ids = accIds c.t.pav t.fe t.acc (t.tag == 2) →
    (s.stagings.filter fun d => d.srcPav == c.t.pav && d.srcFe == t.fe).length < 2 →
    (bit (opVal c.o.r) 63 = true → accOverlap c s ids = false) →
    ∀ s1, s1 = { s with stagings := s.stagings ++ [{
        task := c.t.task, srcPav := c.t.pav, srcFe := t.fe, idx := idx, entry := e,
        strand := c.k, block := c.b.addr, slot := c.j, tag := c.t.tag, sticky := ids.any s.stickyW.contains,
        data := pack (Fmt.ofTag t.tag) (accRows s c.t.pav t.fe t.acc (t.tag == 2)).flatten }] } →
    CompletesWith (.tdrain p a b) s c
      (State.deferred (if bit (opVal c.o.r) 63
        then ((s1.setAcc c.t.pav t.fe t.acc (t.tag == 2) zeroRows).clearSticky ids).touchAcc c.k ids else s1) c
        { kind := .tdrain, x := idx }) a b
      (BitVec.ofNat 64 ((if ids.any s.stickyW.contains then 256 else 0) + idx)))

/-- R225, R226, R231, R233: the tile instructions that move, convert or stage a tile. That TDRAIN
clears the sticky bit is DEDUCED (log 68), and which bank gives the scales of a token is the
model's choice (log 69). -/
def Obligations.TilesComplete : Prop :=
  Parts.TileMovesComplete ∧ Parts.ConversionsComplete

/-! ### Strands, blocks and regions (R9, R10, R17, R18, R33 to R42, R131, R134, R144 to R147, R171, R172, R324) -/

/-- R9, R10: the scheduler places a waiting strand in the lowest free place of a pavilion that may
take it; the place's generation count goes up, and the strand is READY. That the place is the
lowest free one is the model's choice (log 8). -/
def Sys2Proof.Parts.StrandPlaceCompletes : Prop :=
  ∀ (s : State) k pav t p, s.strand k = some t → t.kind = .ordinary → t.state = .waiting → s.mayPlace t pav = true →
    s.freePlace pav = some p →
    exec (.strandPlace k pav) s = .next { s.setStrand k
        { t with pav := pav, place := p, gen := (s.placeGen.find (pav * 16 + p)).getD 0 + 1, state := .ready, reach := .grove } with
      placeGen := s.placeGen.put (pav * 16 + p) ((s.placeGen.find (pav * 16 + p)).getD 0 + 1) }

/-- R34, R131, R171, R172: a block that passes every load check stands in the window, its slots empty. The first block of a region
opens it (R276: a strand that YIELD sends back to WAITING has its lines carried to device scope first); a block with RGN ends the region
that runs, at the scope it names; any other block goes on with the region. A block that fails a check takes that check's
fault, and nothing of it fires. -/
def Sys2Proof.Parts.BlockFetchCompletes : Prop :=
  ∀ (s : State) k t h ext words, s.strand k = some t → t.kind = .ordinary → t.state = .ready → t.phase = .fetch → t.block = none →
    bits t.ip 1 0 = 0 → (s.task t.task).status = .running → t.startFault = none → s.blockAt k t = .block h ext words →
    ∀ s1 b, s1 = (List.range (words.length + 1)).foldl (fun x i =>
        x.cache t.pav t.task (mod57 (t.ip + BitVec.ofNat 64 (4 * i))).toNat) s →
      b = ({ addr := t.ip, hdr := h, ext := ext, words := words, slots := List.replicate words.length {} } : BlockRun) →
    ∀ s2, s2 = (if hRes h = true ∨ s1.windows.contains ⟨t.pav, t.task, t.ip, h, words⟩ = true then s1
        else s1.keepWindow ⟨t.pav, t.task, t.ip, h, words⟩) →
    (loadCheck (s.task t.task).desc.regs h ext words = none →
      (t.region.first = true →
        (s2.mayOpen k t h = true → (t.yieldMark = true → s2.placeWanted t.pav = true → s2.narrower k 3 = []) →
          exec (.blockFetch k) s = .next (s2.startRegion k b)) ∧
        (s2.mayOpen k t h = true → t.yieldMark = true → s2.placeWanted t.pav = true → s2.narrower k 3 ≠ [] →
          exec (.blockFetch k) s = .next (s2.widen k 3)) ∧
        (s2.mayOpen k t h = false → exec (.blockFetch k) s = .next s2)) ∧
      (t.region.first = false → t.region.bnd = false →
        (∀ sc rest, rgnOf words = some (sc, rest) →
          exec (.blockFetch k) s = .next ({ s2 with ages := s2.ages + 1 }.modStrand k fun u =>
            { u with block := some b, bndBegun := true, nextAge := some s2.ages, phase := .close sc })) ∧
        (rgnOf words = none →
          exec (.blockFetch k) s = .next (s2.modStrand k fun u => { u with block := some b, phase := .run })))) ∧
    (∀ n j, loadCheck (s.task t.task).desc.regs h ext words = some (n, j) → t.region.kept = false →
      exec (.blockFetch k) s = .next (s.takeFault k ⟨lcFault n, t.ip, j⟩))

/-- R32, R37, R171: a region that opens keeps its first block's address, FP, tag and pool pointer;
it has no stores, no pins and no deferred entries, and the strand reads the block. R354, R52: a
region that is entered again after a discard keeps its age (DEDUCED, log 60). -/
def Obligations.RegionOpens : Prop :=
  ∀ (s : State) k t b, s.strand k = some t → t.pendFault = none → t.yieldMark = false → t.owed = none →
    ∃ u, (s.startRegion k b).strand k = some u ∧ u.block = some b ∧ u.phase = .run ∧ u.state = .ready ∧
      u.regs = t.regs ∧ u.fp = t.fp ∧ u.ip = t.ip ∧ u.tag = t.tag ∧ u.liveIn = 0 ∧ u.written = 0 ∧
      u.region.ip = b.addr ∧ u.region.fp = t.fp ∧ u.region.tag = t.tag ∧ u.region.poolPtr = t.poolPtr ∧
      u.region.store = [] ∧ u.region.pins = [] ∧ u.region.deferred = [] ∧ u.region.claims = [] ∧ u.region.first = true ∧
      u.region.age = (if t.region.entered then t.region.age else t.nextAge.getD s.ages) ∧ (s.startRegion k b).mem = s.mem

/-- R17, R33, R35: a block that has resolved every write, store and deferred instruction, and
whose branch has fired (or that ends its strand), commits: its stores and reductions join the
region store buffer while that stays within 64 lines and the pool within 256. A block that writes
a live-in register of its region is not committed: F_REGION_LIVEIN, whose SLOT is the lowest that
offends (DEDUCED, log 36). -/
def Sys2Proof.Parts.BlockCommitCompletes : Prop :=
  ∀ (s : State) k t b, s.strand k = some t → t.block = some b → t.kind = .ordinary → t.phase = .run → b.complete = true →
    b.boundaryOut = false → b.branchDue = false → (∀ w ∈ b.writes, t.pending.getLsbD w.2.1 = false) →
    ((∀ w ∈ b.writesInOrder, t.liveIn.getLsbD w.2.1 = false) →
      (commitLines b t.fp t.region.store).length ≤ 64 →
      s.poolLines t.pav + ((commitLines b t.fp t.region.store).length - t.region.store.length) ≤ 256 →
      exec (.blockCommit k) s = .next (s.commitBlock k t b (commitLines b t.fp t.region.store))) ∧
    (∀ l1 w l2, b.performed = false → b.writesInOrder = l1 ++ w :: l2 → t.liveIn.getLsbD w.2.1 = true →
      (∀ x ∈ l1, t.liveIn.getLsbD x.2.1 = false) →
      exec (.blockCommit k) s = .next (s.takeFault k ⟨{ code := .regionLivein }, b.addr, w.1⟩))

/-- R9, R10, R17, R34, R131: a strand is placed, its block is fetched, and its block commits. The
lowest free place is the model's choice (log 8), and the slot of a live-in fault is DEDUCED (log
36). -/
def Obligations.BlocksComplete : Prop :=
  Parts.StrandPlaceCompletes ∧ Parts.BlockFetchCompletes ∧ Parts.BlockCommitCompletes

/-- R17, R141, R144 to R147: what a commit leaves of its strand. A register that one write of the block names holds that write's
value, or its old value when it was a null; a register that no write names is unchanged; IP and FP are the branch's; memory is
unchanged. -/
def Obligations.CommitTakesEffect : Prop :=
  ∀ (s : State) k t b lines, s.strand k = some t → (∀ w ∈ b.writes, w.2.1 < 128) →
    ∃ u, (s.commitBlock k t b lines).strand k = some u ∧ u.block = none ∧ u.region.store = lines ∧ u.region.first = false ∧
      (∀ n, (∀ w ∈ b.writes, w.2.1 ≠ n) → u.reg n = t.reg n) ∧
      (∀ w ∈ b.writes, b.writes.length ≤ 128 → (∀ x ∈ b.writes, x.2.1 = w.2.1 → x = w) →
        u.reg w.2.1 = w.2.2.getD (t.reg w.2.1)) ∧
      (hTerm b.hdr = false →
        (∀ j n, b.branch = some (j, .goto n) → u.ip = n ∧ u.fp = t.fp ∧ u.phase = .fetch ∧ u.exiting = t.exiting) ∧
        (∀ j n f, b.branch = some (j, .call n f) → u.ip = n ∧ u.fp = f ∧ u.phase = .fetch) ∧
        (∀ j n f, b.branch = some (j, .ret n f) → u.ip = n ∧ u.fp = f ∧ u.phase = .fetch) ∧
        (∀ j, b.branch = some (j, .stop) → b.bfault = none → u.exiting = true ∧ u.phase = .close 4)) ∧
      (u.yieldMark = (t.yieldMark || b.yields)) ∧ (s.commitBlock k t b lines).mem = s.mem

/-- R34, R280, R324: a region whose deferred entries all lie within its scope ends: its lines, entries and claims become a publish,
whose step 1 begins at once when no earlier publish of the strand is outstanding. An entry outside the scope takes F_SCOPE (or what
its translation meets), named by its block and slot. -/
def Sys2Proof.Parts.RegionEndCompletes : Prop :=
  ∀ (s : State) k t scope, s.strand k = some t → t.phase = .close scope → t.state = .ready → t.pub = none → t.queue = [] →
    s.decisionsOut k = false →
    (∀ ds ds', s.checkTokens t (effScope scope t.region.deferred) t.region.deferred = (ds, none) →
      (∀ e ∈ s.sideLog, e.strand ≠ k) →
      ds' = ds.map (fun d => if d.kind = .fralloc then { d with y := linkMask t.region.store (d.l - 40) } else d) →
      exec (.regionEnd k) s = .next
        ((State.setStrand { s with stagings := s.stagings.map fun (d : Drain) => (if d.strand == k then { d with kept := true } else d) }
          k { t with
            region := { t.region with store := [], deferred := [], claims := [], waits := [] }, phase := .step1,
            pub := some { scope := effScope scope ds', lines := t.region.store, deferred := ds', claims := t.region.claims,
                          block := t.region.ip, tag := t.region.tag, fp := t.fp, regs := t.regs, poison := t.poison } }).runStep1 k)) ∧
    (∀ ds d f, s.checkTokens t (effScope scope t.region.deferred) t.region.deferred = (ds, some (.fault d f)) →
      t.region.kept = false → exec (.regionEnd k) s = .next (s.takeFault k ⟨f, d.block, d.slot⟩))

/-- R34: once step 1 has performed every line, step 2 launches the deferred list in order; when all of it is launched, step 3
commits the accumulators, zeroes RCNT and releases the pins, and the strand goes on. -/
def Sys2Proof.Parts.PublishStep2Completes : Prop :=
  ∀ (s : State) k t pb s1, s.strand k = some t → t.pub = some pb → pb.started = true → pb.lines = [] →
    launchAll k pb pb.deferred s = (s1, []) →
    exec (.publishStep2 k) s = .next
      ((s1.modStrand k fun u => u.setActive { pb with deferred := [] }).publishDone k pb)

/-- R156, R158, R159, R208, R210, R269, R274, R281: step 2 creates FORK's and FORKN's children in order of their index, in the parent's
pavilion, in its grove at grove scope, in any grove of the task beyond (which grove is a free choice); FRALLOC writes the frame's header
but for the link words that the region's own stores wrote, and FRFREE clears the header's last word, a frame that is free leaving the pool once it is
the topmost; ADVP and ADVC advance the buffer by what it can take, with a BUF_CLAMP record when that is less; BUFDEF opens a buffer, joins
the one that stands at its place, refuses one of other sizes with a BUF_MISMATCH record, or detaches. Where the unit keeps back a record
that the entry might write, the entry waits (R322). -/
def Sys2Proof.Parts.FramesAndBuffersLaunch : Prop :=
  (∀ (s : State) k t pb d rest n, s.strand k = some t → n = effScope pb.scope pb.deferred →
    (d.kind = .fork ∨ d.kind = .forkn → n ≤ 2 → launchAll k pb (d :: rest) s = launchAll k pb rest
      ((List.range d.y).foldl (fun y j => y.launchStrand true
        { newStrand t.task t.pav d.l pb.fp (tagPush pb.tag ((d.x + j) % 4096)) (if n ≤ 1 then .pavilion else .grove) with
          regs := pb.regs, gens := t.gens, poison := pb.poison }) s)) ∧
    (d.kind = .fork ∨ d.kind = .forkn → 3 ≤ n → ∀ gs : State → List Nat, gs = (fun y => (y.task t.task).groves.filter (· < 256)) →
      launchAll k pb (d :: rest) s = launchAll k pb rest
      ((List.range d.y).foldl (fun y j => y.tick.launchStrand true
        { (newStrand t.task (y.firstPav (((gs y)[Config.freeChoice y.ticks % (gs y).length]?).getD (groveOf t.pav))) d.l pb.fp
            (tagPush pb.tag ((d.x + j) % 4096)) .grove) with
          regs := pb.regs, gens := t.gens, poison := pb.poison }) s)) ∧
    (d.kind = .fralloc → isWindow (d.l - 40) = false → s.lineMeets t (d.l - 40) = .wait → launchAll k pb (d :: rest) s = (s, d :: rest)) ∧
    (∀ key cells, d.kind = .fralloc → isWindow (d.l - 40) = false → s.lineMeets t (d.l - 40) = .key key →
      cells = ((List.range 40).zip (toLe 8 0 ++ toLe 8 0 ++ toLe 8 d.x ++ toLe 8 d.r.toNat ++ toLe 8 0)).filter (fun c =>
        decide ((d.y % 2 = 1 → 8 ≤ c.1) ∧ (d.y / 2 % 2 = 1 → c.1 < 8 ∨ 16 ≤ c.1))) →
      launchAll k pb (d :: rest) s = launchAll k pb rest
        ((s.performAt k t 3 (d.l - 40) d.block (cells.map fun c => (key + c.1, c.2))).cache t.pav t.task (d.l - 40).toNat)) ∧
    (∀ key, d.kind = .frfree → isWindow (lineOf (d.l - 8)) = false → s.lineMeets t (lineOf (d.l - 8)) = .key key →
      launchAll k pb (d :: rest) s = launchAll k pb rest
        (((s.performAt k t 3 (lineOf (d.l - 8)) d.block ((List.range 8).map fun i => (key + (bits (d.l - 8) 5 0 + i), 0))).cache
          t.pav t.task (lineOf (d.l - 8)).toNat).modStrand k fun u => u.freeFrame d.l)) ∧
    (∀ b m, d.kind = .advp ∨ d.kind = .advc → s.recordKept t.task t.pav 9 = false → s.buffers.find d.y = some b →
      m = Nat.min d.x (if d.kind = .advp then b.room else b.filled) →
      launchAll k pb (d :: rest) s = launchAll k pb rest
        (if m < d.x then
          State.unitRecord { s with buffers := s.buffers.put d.y (b.advance (d.kind == .advp) m pb.tag) } k 9 d.block d.slot t.tag
        else { s with buffers := s.buffers.put d.y (b.advance (d.kind == .advp) m pb.tag) })) ∧
    (d.kind = .bufdef → s.recordKept t.task t.pav 8 = true → launchAll k pb (d :: rest) s = (s, d :: rest)) ∧
    (d.kind = .advp ∨ d.kind = .advc → s.recordKept t.task t.pav 9 = true → launchAll k pb (d :: rest) s = (s, d :: rest)) ∧
    (∀ id, d.kind = .bufdef → s.recordKept t.task t.pav 8 = false → bit d.r 5 = true → t.bufs.find (bits d.r 4 0) = some id →
      launchAll k pb (d :: rest) s = launchAll k pb rest
        ((s.detach id).modStrand k fun u => { u with bufs := u.bufs.drop (bits d.r 4 0) })) ∧
    (∀ here : Nat × BufRec → Bool, d.kind = .bufdef → s.recordKept t.task t.pav 8 = false → bit d.r 5 = false →
      here = (fun b => b.2.pav == t.pav && b.2.fe == bits d.l 63 60 && b.2.base == 64 * bits d.l 59 50) →
      (∀ id b, s.buffers.find? here = some (id, b) → b.size = 64 * (bits d.l 49 40 + 1) → b.count = bits d.l 39 25 + 1 →
        t.bufs.find (bits d.r 4 0) = none → launchAll k pb (d :: rest) s = launchAll k pb rest
          (State.modStrand { s with buffers := s.buffers.put id { b with att := b.att + 1 } } k fun u =>
            { u with bufs := u.bufs.put (bits d.r 4 0) id })) ∧
      (∀ id b, s.buffers.find? here = some (id, b) → b.size ≠ 64 * (bits d.l 49 40 + 1) ∨ b.count ≠ bits d.l 39 25 + 1 →
        launchAll k pb (d :: rest) s = launchAll k pb rest (s.unitRecord k 8 d.block d.slot t.tag)) ∧
      (∀ b : BufRec, b = { pav := t.pav, fe := bits d.l 63 60, base := 64 * bits d.l 59 50,
                           size := 64 * (bits d.l 49 40 + 1), count := bits d.l 39 25 + 1 } →
        s.buffers.find? here = none → t.bufs.find (bits d.r 4 0) = none → launchAll k pb (d :: rest) s = launchAll k pb rest
          (State.modStrand { s with nextBuf := s.nextBuf + 1, buffers := s.buffers.put s.nextBuf b } k fun u =>
            { u with bufs := u.bufs.put (bits d.r 4 0) s.nextBuf })))) ∧
  (∀ (t : Strand) fp fs f gs, t.frames = fs ++ [f] ++ gs → f.live = true → f.base + 40 = fp →
    (∀ g ∈ fs ++ gs, g.live = true ∧ g.base + 40 ≠ fp) →
    (gs = [] → (t.freeFrame fp).frames = fs ∧ (t.freeFrame fp).poolPtr = f.base) ∧
    (gs ≠ [] → (t.freeFrame fp).frames = fs ++ [{ f with live := false }] ++ gs ∧ (t.freeFrame fp).poolPtr = t.poolPtr)) ∧
  (∀ (b : BufRec) n tag, b.advance true n tag = { b with p := (b.p + n) % b.modulus, tags := b.tags ++ List.replicate n tag } ∧
    b.advance false n tag = { b with c := (b.c + n) % b.modulus, tags := b.tags.drop n })

/-- R22, R183, R185, R188, R245, R262, R263, R282: step 2 defines a message ring (a second
definition of one ring does nothing, log 91) or ends it, answering what it holds RING_MISSING;
sends MSEND's record and a store's KPUT and KDEL on their way, the launch's register pending, and
a poisoned payload not at all (log 84); releases the records that MWAIT waited for; runs an MDOM;
continues the strand that a RESUME's handle names, where it can be (R270); and writes an ITBL at
the table's home. Where the register that the launch names is pending, or a record that it might
write is kept back, the entry waits with those that follow it. -/
def Sys2Proof.Parts.MessagesLaunch : Prop :=
  ∀ (s : State) k t pb d rest, s.strand k = some t →
    (d.kind = .mring → bits d.l 20 16 ≠ 0 → launchAll k pb (d :: rest) s = launchAll k pb rest
      (if (s.ring t.pav (bits d.l 51 48)).isSome then s else { s with rings := s.rings ++
        [{ pav := t.pav, ring := bits d.l 51 48, fe := bits d.l 47 44, base := bits d.l 15 0, log2 := bits d.l 20 16, owner := t.task }] })) ∧
    (∀ r, d.kind = .mring → bits d.l 20 16 = 0 → s.ring t.pav (bits d.l 51 48) = some r →
      launchAll k pb (d :: rest) s = launchAll k pb rest (r.held.foldl (fun y m => y.ringAnswer m 8 0)
        { s with rings := s.rings.filter fun x => !(x.pav == t.pav && x.ring == bits d.l 51 48) })) ∧
    (d.kind = .msend ∨ d.kind = .kput ∨ d.kind = .kdel →
      s.recordKept t.task t.pav (if d.kind = .msend then 5 else 12) = true → launchAll k pb (d :: rest) s = (s, d :: rest)) ∧
    (d.kind = .msend → bit d.r 57 = true → s.isPending k (bits d.r 56 50) = true → launchAll k pb (d :: rest) s = (s, d :: rest)) ∧
    (d.kind = .kput ∨ d.kind = .kdel → bit d.r 43 = true → s.isPending k (bits d.r 42 36) = true →
      launchAll k pb (d :: rest) s = (s, d :: rest)) ∧
    (∀ m : RingMsg, ∀ a s1, d.kind = .msend → s.recordKept t.task t.pav 5 = false →
      (bit d.r 57 = true → s.isPending k (bits d.r 56 50) = false) → a = bankKey t.pav (bits d.r 35 32) + bits d.r 15 0 →
      m = { pav := (if bits d.l 60 48 = s.chip then (s.physPav (s.task t.task) (bits d.l 47 36)).getD noPav else bits d.l 47 36),
            ring := bits d.l 35 32, srcChip := s.chip, srcPav := (s.task t.task).logPav t.pav, log2 := bits d.l 28 24,
            payload := s.viewN k t.pav a (8 * bits d.r 49 41), strand := some k, cv := bit d.r 57, creg := bits d.r 56 50,
            block := d.block, slot := d.slot, tag := t.tag } →
      s1 = (if bit d.r 57 then s.setPending k (bits d.r 56 50) else s) →
      (s.poisoned a (8 * bits d.r 49 41) = true → launchAll k pb (d :: rest) s = launchAll k pb rest
        (s1.push (.msendReturnArrive k m.cv m.creg 5 0 m.block m.slot m.tag))) ∧
      (s.poisoned a (8 * bits d.r 49 41) = false → bits d.l 60 48 = s.chip → launchAll k pb (d :: rest) s =
        launchAll k pb rest (s1.push (.ringRecordArrive m))) ∧
      (s.poisoned a (8 * bits d.r 49 41) = false → bits d.l 60 48 ≠ s.chip → s.reached (bits d.l 60 48) = true →
        launchAll k pb (d :: rest) s = launchAll k pb rest (s1.send (.ring (bits d.l 60 48) m))) ∧
      (s.poisoned a (8 * bits d.r 49 41) = false → bits d.l 60 48 ≠ s.chip → s.reached (bits d.l 60 48) = false →
        launchAll k pb (d :: rest) s = launchAll k pb rest
          (s1.push (.msendReturnArrive k m.cv m.creg 5 0 m.block m.slot m.tag)))) ∧
    (∀ r, d.kind = .mwait → s.ring t.pav d.y = some r → launchAll k pb (d :: rest) s = launchAll k pb rest
      ((s.setRing { r with recs := releaseRecs r.recs d.x }).placeHeldRecords t.pav d.y)) ∧
    (∀ s1, d.kind = .kput → s.recordKept t.task t.pav 12 = false → (bit d.r 43 = true → s.isPending k (bits d.r 42 36) = false) →
      s1 = (if bit d.r 43 then s.setPending k (bits d.r 42 36) else s) →
      (s.kputLost d = true → launchAll k pb (d :: rest) s = launchAll k pb rest (s.regionFault k { code := .uncorr })) ∧
      (s.kputLost d = false → launchAll k pb (d :: rest) s = launchAll k pb rest (s1.push (.storeKputInsert
        { task := t.task, strand := k, dom := bits d.r 63 56, store := bits d.r 55 44, tag := pb.tag, len := (vref d.l).len,
          data := s.kputBytes k t d, cv := bit d.r 43, creg := bits d.r 42 36, block := d.block, slot := d.slot })))) ∧
    (∀ s1, d.kind = .kdel → s.recordKept t.task t.pav 12 = false → (bit d.r 43 = true → s.isPending k (bits d.r 42 36) = false) →
      s1 = (if bit d.r 43 then s.setPending k (bits d.r 42 36) else s) →
      launchAll k pb (d :: rest) s = launchAll k pb rest (s1.push (.storeKdel
        { task := t.task, strand := k, dom := bits d.r 63 56, id := bits d.l 39 0, cv := bit d.r 43, creg := bits d.r 42 36,
          block := d.block, slot := d.slot, tag := pb.tag }))) ∧
    (∀ m : MdomMsg, d.kind = .mdom → s.recordKept t.task t.pav 11 = false →
      m = { task := t.task, strand := k, cmd := d.l, loc := d.r, block := d.block, slot := d.slot, tag := pb.tag } →
      (∀ s1, s.mdom m = some s1 → launchAll k pb (d :: rest) s = launchAll k pb rest s1) ∧
      (s.mdom m = none → launchAll k pb (d :: rest) s = (s, d :: rest))) ∧
    (∀ a key, d.kind = .itbl → a = tableVa (BitVec.ofNat 64 d.x) (bits d.l 17 10) + BitVec.ofNat 64 (8 * bits d.l 9 0) →
      isWindow (lineOf a) = false → s.lineMeets t (lineOf a) = .key key → launchAll k pb (d :: rest) s = launchAll k pb rest
        ((s.performAt k t 4 (lineOf a) d.block (((List.range 8).zip (toLe 8 d.r.toNat)).map fun c => (key + (bits a 5 0 + c.1), c.2))).cache
          t.pav t.task (lineOf a).toNat)) ∧
    (∀ j u, d.kind = .resume → s.ofHandle d.l = some j → s.strand j = some u →
      launchAll k pb (d :: rest) s = launchAll k pb rest (if u.resumable d.r then s.resumeAt j d.r else s))

/-- R22, R189, R191, R193, R198, R212, R271, R429: step 2 launches an engine operation: a launch that names a register that is pending
waits, with those that follow it; otherwise the operation stands among the engines', last in its queue, with the mask and registers of the
launch, TLBI having dropped what it names; under DETERM one whose destination meets that of another queue's is stopped with OVERLAP and
F_OVERLAP before any byte is written. An entry of an out port takes the box at which its stream stands, and the stream goes on (R82, log 9). -/
def Sys2Proof.Parts.EnginesLaunch : Prop :=
  ∀ (s : State) k t pb d rest, s.strand k = some t →
    (∀ e, (s.portEntry t.task d).1.engine k t = some e → e.cv = true → s.isPending k e.creg = true → launchAll k pb (d :: rest) s = (s, d :: rest)) ∧
    (∀ e e1 x s0 s1 dst, x = s.portEntry t.task d → x.1.engine k t = some e → (e.cv = true → s.isPending k e.creg = false) →
      s0 = (if d.kind = .tlbi then x.2.tlbi t.task d.l else x.2) → e1 = { e with snap := s0.snapshot t } →
      dst = (if (s0.task e.task).determ then s0.engineDst e1 else some []) → s1 = (if e.cv then s0.setPending k e.creg else s0) →
      (s1.dstOverlap e1 (dst.getD []) = false → launchAll k pb (d :: rest) s = launchAll k pb rest
        { s1 with engines := s1.engines.put s1.engines.fresh { e1 with dst := dst.getD [], untold := dst.isNone } }) ∧
      (s1.dstOverlap e1 (dst.getD []) = true → launchAll k pb (d :: rest) s = launchAll k pb rest
        (State.regionFault { s1 with
            engines := s1.engines.put s1.engines.fresh { e1 with state := .finished 6 (firstDst e1 (dst.getD [])) } } e.strand
          { code := .overlap, addr := firstDst e1 (dst.getD []), detail := completionValue 6 (firstDst e1 (dst.getD [])) }))) ∧
    (d.kind ≠ .sstore ∨ d.x = 0 → s.portEntry t.task d = (d, s)) ∧
    (d.kind = .sstore → d.x ≠ 0 → s.portEntry t.task d =
      ({ d with r := (((s.task t.task).ports.find (d.x - 1)).map (·.pos)).getD 0 }, s.movePort t.task (d.x - 1))) ∧
    (d.kind = .cpy ∨ d.kind = .coll ∨ d.kind = .kappend ∨ d.kind = .kmerge ∨ d.kind = .mscan ∨ d.kind = .ksum ∨ d.kind = .walk ∨ d.kind = .igather ∨ d.kind = .cpyt →
      ∃ e, d.engine k t = some e ∧ e.task = t.task ∧ e.strand = k ∧ e.pav = t.pav ∧ e.l = d.l ∧ e.r = d.r ∧ e.queue = bits d.r 2 0 ∧
        e.cv = bit d.r 3 ∧ e.creg = bits d.r 10 4 ∧ e.trapErr = bit d.r 11 ∧ e.state = .queued) ∧
    (d.kind = .sload ∨ d.kind = .sstore → ∃ e, d.engine k t = some e ∧ e.task = t.task ∧ e.strand = k ∧ e.pav = t.pav ∧ e.l = d.l ∧
      e.r = d.r ∧ e.queue = bits d.l 4 2 ∧ e.cv = bit d.l 12 ∧ e.creg = bits d.l 11 5 ∧ e.state = .queued) ∧
    (d.kind = .wsld → ∃ e, d.engine k t = some e ∧ e.task = t.task ∧ e.strand = k ∧ e.pav = t.pav ∧ e.l = d.l ∧ e.r = d.r ∧
      e.cv = bit d.r 57 ∧ e.creg = bits d.r 56 50 ∧ e.trapErr = bit d.r 29 ∧ e.state = .queued) ∧
    (d.kind = .tlbi → ∃ e, d.engine k t = some e ∧ e.task = t.task ∧ e.strand = k ∧ e.l = d.l ∧ e.cv = bit d.r 3 ∧
      e.creg = bits d.r 10 4 ∧ e.state = .queued)

/-- R34, R157, R160, R162, R182, R232, R233, R269, R318, R370: SEND leaves for its frame's home;
DQPUSH's entry becomes visible; GBARX marks the pavilion passed; TAGSET sets the strand's tag when
it fits; MTSR writes TAGWIN, RCLIM, SEED, RINGHOLD, FSTAT, FRING (its BASE a physical address: log
26, DEDUCED), ROUTE, ITB and MDT (which waits while a query of the old table is out, at the head
of the list: log 47, DEDUCED); the oldest drain that the region took and has not launched travels;
GDEF defines a generator. -/
def Sys2Proof.Parts.ControlLaunches : Prop :=
  ∀ (s : State) k t pb d rest, s.strand k = some t →
    (d.kind = .send → ∀ m : SendMsg,
      m = { task := t.task, strand := k, fp := d.l, pa := d.y, slot := d.x, value := d.r, block := d.block, islot := d.slot,
            tag := pb.tag } →
      (s.keyOk d.y = true → (((s.task t.task).frameGrove d.l.toNat).isSome = true ∨ s.homeChip d.y = s.chip) →
        launchAll k pb (d :: rest) s = launchAll k pb rest (s.push (.sendArriveHome m))) ∧
      (s.keyOk d.y = true → (s.task t.task).frameGrove d.l.toNat = none → s.homeChip d.y ≠ s.chip →
        launchAll k pb (d :: rest) s = launchAll k pb rest (s.send (.send (d.y / 2 ^ 42) m))) ∧
      (∀ a, a = d.l + BitVec.ofNat 64 (8 * d.x) → s.keyOk d.y = false → s.recordKept t.task t.pav 3 = false → bits a 5 0 ≤ 56 →
        launchAll k pb (d :: rest) s = launchAll k pb rest
          (s.storeLost k 3 d.block (lineOf a) (BitVec.ofNat 64 (255 * 2 ^ bits a 5 0)) .uncorr))) ∧
    (d.kind = .dqpush → ∀ q, s.deques.find d.x = some q → launchAll k pb (d :: rest) s = launchAll k pb rest
      { s with deques := s.deques.put d.x { q with entries := q.entries.map fun e =>
        (if e.1 = d.y then (e.1, e.2.1, DqState.visible) else e) } }) ∧
    (d.kind = .failedPush → launchAll k pb (d :: rest) s = launchAll k pb rest s) ∧
    (d.kind = .gbarx → s.passed.contains (t.task, t.pav) = false → launchAll k pb (d :: rest) s = launchAll k pb rest
      { s with passed := s.passed ++ [(t.task, t.pav)] }) ∧
    (d.kind = .tagset → t.tagWait = none → s.tagsetFits k t.task d.l = true → launchAll k pb (d :: rest) s =
      launchAll k pb rest ((s.tagsetPass k t.task d.l).setStrand k { t with tag := d.l })) ∧
    (d.kind = .mtsr → d.x = 1 → 0 < bits d.l 11 0 → bits d.l 11 0 ≤ 2048 → launchAll k pb (d :: rest) s =
      launchAll k pb rest (s.modTask t.task fun x => { x with tagwin := bits d.l 11 0 })) ∧
    (d.kind = .mtsr → d.x = 2 → 0 < bits d.l 7 0 → launchAll k pb (d :: rest) s =
      launchAll k pb rest (s.modTask t.task fun x => { x with rclim := bits d.l 7 0 })) ∧
    (d.kind = .mtsr → d.x = 4 → launchAll k pb (d :: rest) s =
      launchAll k pb rest (s.modTask t.task fun x => { x with seed := bits d.l 31 0 })) ∧
    (d.kind = .mtsr → d.x = 0x30 → 0 < bits d.l 19 0 → launchAll k pb (d :: rest) s =
      launchAll k pb rest { s with ringHold := bits d.l 19 0 }) ∧
    (d.kind = .mtsr → d.x = 0x10 → d.l.getLsbD 0 = true → launchAll k pb (d :: rest) s =
      launchAll k pb rest (s.modTerrace (t.pav / 512) fun te => { te with ovf := decide (te.heldCount ≠ 0) })) ∧
    (d.kind = .mtsr → d.x = 0x10 → d.l.getLsbD 0 = false → launchAll k pb (d :: rest) s = launchAll k pb rest s) ∧
    (∀ s1 key, d.kind = .mtsr → d.x = 0x11 →
      s1 = s.reachArea (bits d.l 56 12 * 4096 % 2 ^ 55) (64 + 64 * 2 ^ (bits d.l 3 0 + 6)) → key = s1.ringKey (bits d.l 56 12 * 4096) →
      s1.poisoned key 4 = false → launchAll k pb (d :: rest) s = launchAll k pb rest (s1.modTerrace (t.pav / 512) fun te =>
        { te with
          fring := d.l &&& 0x01FFFFFFFFFFF00F
          head := BitVec.ofNat 32 (s1.home key 4)
          answered := te.answered.filter fun (a : Nat × Bool × Word × Nat) =>
            (BitVec.ofNat 32 a.1 - BitVec.ofNat 32 (s1.home key 4)).msb })) ∧
    (d.kind = .mtsr → d.x = 0x20 → 256 < bits d.l 8 0 → launchAll k pb (d :: rest) s = launchAll k pb rest s) ∧
    (d.kind = .mtsr → d.x = 0x20 → bits d.l 8 0 ≤ 256 → s.queriesOut t.task = true → launchAll k pb (d :: rest) s = (s, d :: rest)) ∧
    (∀ s1, d.kind = .mtsr → d.x = 0x20 → bits d.l 8 0 ≤ 256 → s.queriesOut t.task = false →
      s1 = State.retireStores { s with engines := s.engines.filter fun (x : Nat × Engine) =>
        x.2.kind != EngKind.table || x.2.task != t.task || x.2.done != 1 } t.task →
      ((∀ x ∈ s1.engines, ¬(x.2.kind = .table ∧ x.2.task = t.task ∧ x.2.done = 0)) → launchAll k pb (d :: rest) s =
        launchAll k pb rest ((s1.modTask t.task fun x => { x with mdt := d.l &&& 0x01FFFFFFFFFFF1FF }).readTable t.task)) ∧
      ((∃ x ∈ s1.engines, x.2.kind = .table ∧ x.2.task = t.task ∧ x.2.done = 0) →
        launchAll k pb (d :: rest) s = (s1, d :: rest))) ∧
    (d.kind = .mtsr → d.x = 0x21 → launchAll k pb (d :: rest) s = launchAll k pb rest
      ((s.modTask t.task fun x => { x with route := d.l &&& 0x01FFFFFFFFFFF800 }).readRoutes k t.pav t.task)) ∧
    (d.kind = .mtsr → d.x = 0x22 → bits d.l 8 0 ≤ 256 → launchAll k pb (d :: rest) s =
      launchAll k pb rest (s.modTask t.task fun x => { x with itb := d.l &&& 0x01FFFFFFFFFFE1FF })) ∧
    (d.kind = .mtsr → d.x = 0x22 → 256 < bits d.l 8 0 → launchAll k pb (d :: rest) s = launchAll k pb rest s) ∧
    (∀ older g younger, d.kind = .tdrain → s.stagings = older ++ g :: younger → (∀ x ∈ older, ¬(x.strand = k ∧ x.kept = true ∧ x.launched = false)) →
      g.strand = k → g.kept = true → g.launched = false → launchAll k pb (d :: rest) s = launchAll k pb rest
        { s with stagings := older ++ { g with launched := true } :: younger }) ∧
    (d.kind = .gdef → launchAll k pb (d :: rest) s =
      launchAll k pb rest (s.setStrand k { t with gens := t.gens.put (bits d.l 55 52) (d.l, d.r) }))

/-- R22, R34, R156 to R160, R182 to R189, R193, R208, R210, R263, R269 to R271: what step 2 makes
of each entry of the deferred list, launched in list order. What tags a buffer slot gets (log 25),
what an MSEND that reaches no peer completes with (log 44), that an MDOM waits at the head of the
list (log 47), the pavilion in a message (log 48), how far a kept record reaches (log 70) and the
ITB of an entry (log 73) are DEDUCED. -/
def Obligations.LaunchesInOrder : Prop :=
  Parts.ControlLaunches ∧ Parts.FramesAndBuffersLaunch ∧ Parts.MessagesLaunch ∧ Parts.EnginesLaunch

/-- R324, R160: a queued publish begins its step 1 once the strand has no side-log entry left; a TAGSET that waits on TAGWIN takes
effect once its tag fits. -/
def Sys2Proof.Parts.WaitingPublishesGoOn : Prop :=
  (∀ (s : State) k t pb rest, s.strand k = some t → t.pub = none → t.queue = pb :: rest → (∀ e ∈ s.sideLog, e.strand ≠ k) →
    exec (.queuedPublishResume k) s = .next (s.runStep1 k)) ∧
  (∀ (s : State) k t v pb d rest, s.strand k = some t → t.tagWait = some v → t.active = some pb → pb.deferred = d :: rest →
    d.kind = .tagset → d.l = v → s.tagsetFits k t.task v = true →
    exec (.tagsetRelease k) s = .next
      ((s.tagsetPass k t.task v).setStrand k (({ t with tag := v, tagWait := none } : Strand).setActive { pb with deferred := rest })))

/-- R34, R160, R280, R324: a region ends and publishes; what waited goes on. -/
def Obligations.PublishCompletes : Prop :=
  Parts.RegionEndCompletes ∧ Parts.PublishStep2Completes ∧ Parts.WaitingPublishesGoOn

/-! ### Taking a fault and going on after it (R10, R37, R40, R42, R44, R270, R318 to R322) -/

/-- R10, R37, R44, R319, R322: taking a fault, with room in the Terrace's ring, writes one record
that names the fault, its block and slot, at the arbiter's next place, and leaves the strand
FAULTED with its region discarded: its stores and deferred entries are gone, FP is that of the
region's start, no block is in the window, and RCNT has counted up. Its registers and every byte
of memory outside the record, the ring's HEAD and the RESV fields of matching stores (which a
discard lowers, R254) stay as they are. FRING's BASE is a physical address (log 26, DEDUCED). -/
def Sys2Proof.Parts.TakeFaultCompletes : Prop :=
  ∀ (s : State) k t f te index n place, s.memOk → s.strand k = some t → te = s.terrace (t.pav / 512) →
    s.ringRoom (t.pav / 512) (s.task t.task).faulth = true → te.held = [] → t.rcnt.toNat < 255 → f.info.cites = none →
    index = s.ringKey (ringBase te.fring) → n = te.head.toNat →
    place = s.ringKey (ringBase te.fring + 64 + 64 * (n % ringSize te.fring)) → index < 2 ^ 55 → place / 64 ≠ index / 64 →
    (∃ u, (s.takeFault k f).strand k = some u ∧ u.state = .faulted ∧ u.block = none ∧ u.region.store = [] ∧
      u.region.deferred = [] ∧ u.region.pins = [] ∧ u.fp = t.region.fp ∧ u.tag = t.tag ∧ u.regs = t.regs ∧
      u.rcnt = t.rcnt + 1 ∧ u.ip = t.region.ip ∧ u.region.ip = t.region.ip) ∧
    (∃ r : Record, r.kind = (if f.info.code = .xlateLoad then 2 else 1) ∧ r.cause = f.info.code.code ∧ r.subcause = f.info.sub ∧
      r.slot = f.slot ∧ r.block = f.block ∧ r.addr = f.info.addr ∧ r.detail = f.info.detail ∧ r.rcnt = t.rcnt.toNat + 1 ∧
      ∀ i, i < 64 → Memory.read (s.takeFault k f).mem (place + i) = ((r.bytes n)[i]?).getD 0) ∧
    (∀ a, (a < index ∨ index + 4 ≤ a) → (a < place ∨ place + 64 ≤ a) →
      (∀ st ∈ s.stores, ∀ x, x < st.cap → a ≠ st.key x + 24 ∧ a ≠ st.key x + 25) →
      Memory.read (s.takeFault k f).mem a = Memory.read s.mem a)

/-- R270: RESUME with next block 0 re-enters the strand's region, RCNT kept; with a next block it begins a new region there, RCNT 0.
Its registers stay as they are either way. -/
def Sys2Proof.Parts.ResumeReturns : Prop :=
  ∀ (s : State) k t next, s.strand k = some t →
    (next = 0 → s.resumeAt k next = s.setStrand k { t with state := .ready, phase := .fetch, ip := t.region.ip }) ∧
    (next ≠ 0 → ∃ u, s.resumeAt k next = s.setStrand k u ∧ u.state = .ready ∧ u.phase = .fetch ∧ u.ip = next ∧ u.rcnt = 0 ∧
      u.regs = t.regs ∧ u.fp = t.fp ∧ u.tag = t.tag ∧ u.region.ip = next ∧ u.region.first = true)

/-- R10, R37, R44, R270, R318 to R322: taking a fault, and the return from it. FRING's BASE is
taken as a physical address (log 26, DEDUCED). -/
def Obligations.FaultsAndResume : Prop :=
  Parts.TakeFaultCompletes ∧ Parts.ResumeReturns

/-! ### Events at homes: SENDs, children, lines, barriers, rings, drains, collectives, tables (R14, R22 to R25, R156, R157, R180 to
R188, R196, R197, R233, R264, R275, R322, R408) -/

/-- R24, R25, R157, R287: a SEND that finds its frame, behind this chip's earlier stores to it, writes the value and the slot's presence bit; when slots 0 to NIN - 1 are then all
present their bits are cleared and the frame's strand is created, waiting for a place. A SEND for an input that is present already is
held; a slot the frame does not have is dropped, with a SEND_DROPPED record (R322: unless the Terrace still keeps an earlier one). R362:
what is bound for a saved task's frame waits. -/
def Sys2Proof.Parts.SendArrives : Prop :=
  ∀ (s s0 : State) m task g va key launch, s.dark = false → s.frameHome m = some (task, g, va) → key = s.ownerKey m.pa →
    s0 = s.reachHome (key - 24) (32 + 8 * m.slot) → launch = BitVec.ofNat 64 (s0.home (key - 24) 8) →
    (s.savedAt task = true → exec (.sendArriveHome m) s = .next (s.hold (.sendArriveHome m))) ∧
    (s.savedAt task = false → s.PerformedAt (m.pa - 24) 24 (s.ownerKey (m.pa - 24)) →
      (bits launch 59 54 < m.slot → s0.dropKept m (g / 32) = false →
        exec (.sendArriveHome m) s = .next (s0.sendDropped m (g / 32))) ∧
      (m.slot ≤ bits launch 59 54 → m.slot < bits launch 63 60 → s0.home (key - 8) 8 / 2 ^ m.slot % 2 = 1 →
        exec (.sendArriveHome m) s = .next { s0 with heldSends := s0.heldSends ++ [m] }) ∧
      (m.slot ≤ bits launch 59 54 →
        (bits launch 63 60 ≤ m.slot ∨ s0.home (key - 8) 8 / 2 ^ m.slot % 2 = 0 ∧ ∀ x ∈ s0.heldSends, ¬(x.pa = m.pa ∧ x.slot = m.slot)) →
        ∀ s1 pres, s1 = s0.writeHome (key + 8 * m.slot) (toLe 8 m.value.toNat) → pres = s1.home (key - 8) 8 ||| 2 ^ m.slot →
        (bits launch 63 60 = 0 ∨ pres % 2 ^ bits launch 63 60 ≠ 2 ^ bits launch 63 60 - 1 →
          exec (.sendArriveHome m) s = .next (s1.writeHome (key - 8) (toLe 8 pres))) ∧
        (bits launch 63 60 ≠ 0 → pres % 2 ^ bits launch 63 60 = 2 ^ bits launch 63 60 - 1 →
          ∀ s2, s2 = s1.writeHome (key - 8) (toLe 8 (pres - (2 ^ bits launch 63 60 - 1))) →
          exec (.sendArriveHome m) s = .next (s2.launchStrand false (newStrand task (s2.firstPav g)
            (BitVec.ofNat 64 (bits launch 53 0 * 8)) va (BitVec.ofNat 64 (s2.home (key - 16) 8)) .grove)))))

/-- R25, R156: the first held SEND of a slot is delivered once the slot's presence bit is clear; a child that waited on TAGWIN is
created once its tag fits and its task has room. -/
def Sys2Proof.Parts.HeldSendsAndChildrenGoOn : Prop :=
  (∀ (s : State) i m task g va, s.dark = false → s.heldSends[i]? = some m → s.frameHome m = some (task, g, va) →
    (s.atFrame m).home (s.ownerKey m.pa - 8) 8 / 2 ^ m.slot % 2 = 0 →
    (∀ x ∈ s.heldSends.take i, ¬(x.pa = m.pa ∧ x.slot = m.slot)) →
    s.savedAt task = false → s.PerformedAt (m.pa - 24) 24 (s.ownerKey (m.pa - 24)) →
    exec (.heldSendDeliver i) s = .next
      ((State.atFrame { s with heldSends := s.heldSends.eraseIdx i } m).deliverSend m task g va)) ∧
  (∀ (s : State) i lim t s1, s.waitKids[i]? = some (lim, t) → (lim = true → s.childFits (s.waitKids.take i) t = true) →
    s.createChild lim t = some s1 →
    exec (.forkChildCreate i) s = .next { s1 with waitKids := s1.waitKids.eraseIdx i })

/-- R275: a published line performed at its home: each of its bytes then reads there as it was last performed at the line's point, no
other byte of memory changes, the point no longer holds them, and nothing else changes but the marks of poison and of pages that are
being moved. -/
def Sys2Proof.Parts.LinePerforms : Prop :=
  ∀ (s : State) i l, s.memOk → s.lines[i]? = some l → l.cells ≠ [] → l.scope < 4 → (∀ c ∈ l.cells, c.1 / 64 = l.key / 64) →
    (l.scope = 3 → ∀ c ∈ l.cells, s.homeChip c.1 = l.point) →
    s.frameGone (frameOf l.key) = false → s.keyOk l.key = true →
    ∃ t, exec (.linePerformedAtHome i) s = .next t ∧
      (∀ c ∈ l.cells, Memory.read t.mem (s.ownerKey c.1) = s.atPoint l.scope l.point c.1) ∧
      (∀ a, (∀ c ∈ l.cells, s.ownerKey c.1 ≠ a) → Memory.read t.mem a = Memory.read s.mem a) ∧
      (∀ x ∈ t.lines, x.scope = l.scope → x.point = l.point → ∀ c ∈ x.cells, ∀ d ∈ l.cells, c.1 ≠ d.1) ∧
      t = { s with mem := t.mem, poison := t.poison, migs := t.migs, lines := t.lines, redirs := t.redirs }

/-- R24, R25, R156, R275: SENDs, children and published lines arrive at their homes. -/
def Obligations.SendsComplete : Prop :=
  Parts.SendArrives ∧ Parts.HeldSendsAndChildrenGoOn ∧ Parts.LinePerforms

/-- R180, R181: an arrival that does not complete its barrier's generation is counted and its strand waits, BLOCKED; the arrival that
completes it sends the generation number to every strand that waits, and a new generation begins with none arrived. An arrival with
another number of participants is refused: F_ILLEGAL, BARRIER_CONF. -/
def Sys2Proof.Parts.BarrierArrives : Prop :=
  ∀ (s : State) m k c tg b, s.dark = false → m.strand = some k → m.answer = none → s.ctxAt k m.slot = some c → c.o.status = .sent →
    gbarTargets c.b m.slot = some tg → c.b.performed = false →
    b = (s.barriers.find? fun b => b.isFor m).getD
      { task := if m.scope = 4 then 0 else m.task, scope := m.scope, home := m.home, bar := m.bar } →
    (∀ x ∈ b.arrived, x.strand ≠ some k) →
    ∀ s1, s1 = (s.modBlock k fun x => { x with performed := true }).modStrand k (fun t =>
      { t with barrier := some ⟨m.scope, m.home, m.bar, m.nm1, b.gen, m.slot, false⟩, state := .blocked }) →
    ((b.arrived = [] ∨ b.nm1 = m.nm1) → b.arrived.length < m.nm1 →
      exec (.barrierArrival m) s = .next { s1 with barriers := (s.barriers.filter fun b => !b.isFor m) ++
        [{ b with nm1 := m.nm1, arrived := b.arrived ++ [m] }] }) ∧
    ((b.arrived = [] ∨ b.nm1 = m.nm1) → b.arrived.length = m.nm1 →
      exec (.barrierArrival m) s = .next ((b.arrived ++ [m]).foldl (fun x a => x.releaseArrival b.gen a)
        { s1 with barriers := (s.barriers.filter fun b => !b.isFor m) ++
          [{ b with gen := b.gen + 1, nm1 := 0, arrived := [] }] })) ∧
    (b.arrived ≠ [] → b.nm1 ≠ m.nm1 →
      exec (.barrierArrival m) s = .next (s.takeFault c.k ⟨{ code := .illegal, sub := 5 }, c.b.addr, c.j⟩))

/-- R180, R181: between chips. A peer's arrival at a barrier here is counted, and its chip is told
the generation that it counts for. The answer of a peer's barrier that an arrival was counted
makes its strand wait, BLOCKED, for that generation; the answer that the arrival was refused
raises F_ILLEGAL, BARRIER_CONF; the answer that the generation is complete reaches the GBAR of the
strand that waits for it, which sends the generation number to its targets. What the two chips
tell each other is the model's (log 10, DESIGN CHOICE); that a refused arrival is taken back from
what counts as performed is the model's too (log 82). -/
def Sys2Proof.Parts.BarrierReachesPeers : Prop :=
  (∀ (s : State) m b, s.dark = false → m.strand = none →
    b = (s.barriers.find? fun b => b.isFor m).getD
      { task := if m.scope = 4 then 0 else m.task, scope := m.scope, home := m.home, bar := m.bar } →
    (b.arrived = [] ∨ b.nm1 = m.nm1) → b.arrived.length < m.nm1 →
    exec (.barrierArrival m) s = .next { s.send (.arrivalAnswer m.chip m.bar m.task m.slot (.counted b.gen)) with
      barriers := (s.barriers.filter fun b => !b.isFor m) ++ [{ b with nm1 := m.nm1, arrived := b.arrived ++ [m] }] }) ∧
  (∀ (s : State) m k t w c p1 p2 gen, m.strand = some k → m.answer = some (.complete gen) → s.strand k = some t → t.barrier = some w →
    w.scope = 4 → w.home = m.home → w.bar = m.bar → s.ctxAt k w.slot = some c → c.o.status = .sent →
    gbarTargets c.b w.slot = some (p1, p2) →
    CompletesWith (.barrierArrival m) s c (s.modStrand k fun t => { t with barrier := none }) p1 p2 (BitVec.ofNat 64 gen.toNat)) ∧
  (∀ (s : State) m k c tg gen, s.dark = false → m.strand = some k → s.ctxAt k m.slot = some c → c.o.status = .sent → gbarTargets c.b m.slot = some tg →
    (m.answer = some (.counted gen) → exec (.barrierArrival m) s = .next
      ((s.modBlock k fun x => { x with performed := true }).modStrand k fun t =>
        { t with barrier := some ⟨m.scope, m.home, m.bar, m.nm1, gen, m.slot, false⟩, state := .blocked })) ∧
    (m.answer = some .refused → exec (.barrierArrival m) s = .next
      (State.takeFault (s.modBlock k fun x => { x with performed := false }) k ⟨{ code := .illegal, sub := 5 }, c.b.addr, m.slot⟩)))

/-- R182: a grove all of whose pavilions have passed and none of whose strands is left is returned: the task no longer holds it, and
the marks of its passes are gone. -/
def Sys2Proof.Parts.GroveReturns : Prop :=
  ∀ (s : State) task g pg, (s.task task).groves[g]? = some pg → pg < 256 → s.allPassed task pg = true → s.groveQuiet task pg = true →
    exec (.groveReturn task g) s = .next
      { s.modTask task (fun t => { t with groves := t.groves.set g noGrove }) with
        passed := s.passed.filter fun p => !(p.1 == task && groveOf p.2 == pg) }

/-- R180 to R182: arrivals at a barrier, and a grove that is returned. The messages between chips
are the model's (log 10), and what a refused arrival takes back (log 82). -/
def Obligations.BarriersComplete : Prop :=
  Parts.BarrierArrives ∧ Parts.BarrierReachesPeers ∧ Parts.GroveReturns

/-- R184, R185, R186: a record that fits behind a ring's tail is written there, header first, and
its sender is answered; one that fits only after a wrap follows a PAD; one that does not fit is
held; one for no ring, or a ring smaller than its handle said, is returned with NO_RING (8) or
TOO_LARGE (9). The header of the PAD (log 90, DESIGN CHOICE) and the records held for a ring that
a save has taken (log 58) are the model's. The status numbers are those of R190 (7, 8, 9), where
R185 counts 1 to 3: R190 is followed. -/
def Sys2Proof.Parts.RingRecordArrives : Prop :=
  ∀ (s : State) m, s.dark = false →
    (s.ring m.pav m.ring = none → s.savedRing m.pav m.ring = none →
      exec (.ringRecordArrive m) s = .next (s.ringAnswer m 8 0)) ∧
    (∀ r, s.ring m.pav m.ring = some r → r.log2 < m.log2 → exec (.ringRecordArrive m) s = .next (s.ringAnswer m 9 0)) ∧
    (∀ r n, s.ring m.pav m.ring = some r → m.log2 ≤ r.log2 → n = 8 + m.payload.length →
      (s.savedAt r.owner = false → r.held = [] → n ≤ r.size - r.tail → n ≤ r.size - r.used →
        exec (.ringRecordArrive m) s = .next (((s.writeHome (bankKey r.pav r.fe + r.base + r.tail)
            (toLe 8 (ringHeader 0 m.srcChip m.srcPav (m.payload.length / 8)) ++ m.payload)).setRing
          { r with recs := r.recs ++ [(r.tail, n, false)], tail := (r.tail + n) % r.size }).ringAnswer m 0 n)) ∧
      (s.savedAt r.owner = false → r.held = [] → r.size - r.tail < n → r.size - r.tail + n ≤ r.size - r.used →
        exec (.ringRecordArrive m) s = .next ((((s.writeHome (bankKey r.pav r.fe + r.base + r.tail)
              (toLe 8 (ringHeader 1 0 0 ((r.size - r.tail) / 8 - 1)))).writeHome (bankKey r.pav r.fe + r.base + 0)
            (toLe 8 (ringHeader 0 m.srcChip m.srcPav (m.payload.length / 8)) ++ m.payload)).setRing
          { r with recs := r.recs ++ [(r.tail, r.size - r.tail, true), (0, n, false)], tail := n % r.size }).ringAnswer m 0 n)) ∧
      (s.savedAt r.owner = true ∨ r.held ≠ [] ∨ ¬(n ≤ r.size - r.tail ∧ n ≤ r.size - r.used) ∧
          ¬(r.size - r.tail < n ∧ r.size - r.tail + n ≤ r.size - r.used) →
        exec (.ringRecordArrive m) s = .next (s.setRing { r with held := r.held ++ [m] })))

/-- R186, R190, R397: a record held for RINGHOLD is returned with RING_FULL (7), and what is held behind it is tried again; an answer
that reaches its sender completes the register that it named, or, with CV 0 and a status that is not OK, leaves an ENGINE_ERROR
record. -/
def Sys2Proof.Parts.RingAnswersArrive : Prop :=
  (∀ (s : State) pav ring i r m, s.dark = false → s.ring pav ring = some r → r.held[i]? = some m →
    exec (.ringHoldExpire pav ring i) s = .next
      (((s.setRing { r with held := r.held.eraseIdx i }).ringAnswer m 7 0).placeHeldRecords pav ring)) ∧
  (∀ (s : State) k creg status bytes block slot tag, s.dark = false →
    exec (.msendReturnArrive k true creg status bytes block slot tag) s =
      .next (s.complete k creg (completionValue status (BitVec.ofNat 64 bytes))) ∧
    exec (.msendReturnArrive k false creg 0 bytes block slot tag) s = .next s ∧
    (status ≠ 0 → exec (.msendReturnArrive k false creg status bytes block slot tag) s =
      .next (s.unitRecord k 5 block slot tag status 0 (completionValue status (BitVec.ofNat 64 bytes)))))

/-- R189: a completion writes its register unless it goes to a strand that has ended, and the register is no longer pending. -/
def Sys2Proof.Parts.CompletionWritesRegister : Prop :=
  ∀ (s : State) k t creg v, s.strand k = some t → t.state ≠ .ended → creg < 128 → t.pending.getLsbD creg = true →
    ∃ u, (s.complete k creg v).strand k = some u ∧ u.reg creg = v ∧ u.pending.getLsbD creg = false ∧
      (∀ n, n ≠ creg → u.reg n = t.reg n ∧ u.pending.getLsbD n = t.pending.getLsbD n) ∧ (s.complete k creg v).mem = s.mem

/-- R22, R184 to R186, R190, R397: records arrive at a ring, its answers at their senders, and a
completion at its register. The status numbers are those of R190 (7 to 9), where R185 counts 1 to
3. The PAD's header (log 90), the STATUS of an ENGINE_ERROR record (log 22) and the records held
for a saved ring (log 58) are the model's choices. -/
def Obligations.RingsComplete : Prop :=
  Parts.RingRecordArrives ∧ Parts.RingAnswersArrive ∧ Parts.CompletionWritesRegister

/-- R233: a drain that has been launched, and behind which no older drain of its entry waits, is
placed in slot P mod count of the buffer that its entry named at fire, and P advances; with no
such buffer, or one whose slots are too small, it is dropped with a ROUTE_MISS record. The slot's
tag is the drain's (log 25, DEDUCED). -/
def Sys2Proof.Parts.DrainPlaces : Prop :=
  ∀ (s : State) i d, s.stagings[i]? = some d → d.launched = true →
    (∀ x ∈ s.stagings.take i, x.launched = true → x.task = d.task → x.entry ≠ d.entry) →
    (∀ id b, s.routeBuf d.task d.entry = some (id, b) → d.data.length ≤ b.size → b.room ≠ 0 →
      exec (.drainPlace i) s = .next
        { State.writeHome { s with stagings := s.stagings.eraseIdx i } (b.slotKey (b.p % b.count)) d.data with
          buffers := s.buffers.put id { b with p := (b.p + 1) % b.modulus, tags := b.tags ++ [d.tag] } }) ∧
    ((s.routeBuf d.task d.entry = none ∨ ∃ id b, s.routeBuf d.task d.entry = some (id, b) ∧ b.size < d.data.length) →
      s.recordKept d.task d.srcPav 10 = false → exec (.drainPlace i) s = .next
        (State.unitRecord { s with stagings := s.stagings.eraseIdx i } d.strand 10 d.block d.slot d.tag 0 (BitVec.ofNat 64 d.idx)))

/-- R196, R197, R408: a contribution joins its collective; the last one of PARTS answers every
participant with the results; one that does not agree with the others, or whose rank has come
already, ends them all with BADCMD (4), and so those that are still to come (that the record of a
collective that has failed stays until all of PARTS have come is the model's choice, log 83). A
participant that has its results writes them to DST. A result with an error status finishes with
the command's address as DETAIL (DEDUCED, log 30). -/
def Sys2Proof.Parts.CollectivesComplete : Prop :=
  (∀ (s : State) m old, s.dark = false → s.collOk m.key = true → m.vals.length = m.key.len → m.key.rankOk m.rank m.chip = true → s.colls.find? (fun r => r.key.cid == m.key.cid) = old →
    (∀ r, old = some r → r.failed = false ∧ r.key = m.key ∧ ∀ p ∈ r.parts, p.rank ≠ m.rank) →
    ∀ ps rest, ps = (match old with | some r => r.parts | none => []) ++ [m] →
      rest = s.colls.filter (fun r => r.key.cid != m.key.cid) →
    (ps.length ≠ m.key.parts → exec (.collContributionArrive m) s = .next { s with colls := rest ++ [{ key := m.key, parts := ps }] }) ∧
    (ps.length = m.key.parts → exec (.collContributionArrive m) s = .next
      (State.collReply { s with colls := rest } ps 0 (collResults m.key ps)))) ∧
  (∀ (s : State) m r s0 s1 s2, s.dark = false → s.colls.find? (fun r => r.key.cid == m.key.cid) = some r →
    s0 = { s with colls := s.colls.filter fun r => r.key.cid != m.key.cid } → s1 = s0.collReply (r.parts ++ [m]) 4 [] →
    s2 = s0.collReply [m] 4 [] → ∀ late : State → State,
    late = (fun y => if r.parts.length + 1 < r.key.parts
      then { y with colls := y.colls ++ [{ key := r.key, parts := r.parts ++ [m], failed := true }] } else y) →
    (r.failed = false → (r.key ≠ m.key ∨ ∃ p ∈ r.parts, p.rank = m.rank) →
      exec (.collContributionArrive m) s = .next (late s1)) ∧
    (r.failed = true → exec (.collContributionArrive m) s = .next (late s2))) ∧
  (∀ (s : State) i e vals, s.dark = false → s.engine i = some e → e.kind = .coll → e.state = .coll →
    exec (.collResultArrive i 0 vals) s = .next
      (s.setEngine i { e with cmd := e.cmd.take 4 ++ vals, aux := 1, done := 0, state := .running }) ∧
    ∀ st, st ≠ 0 → exec (.collResultArrive i st vals) s = .next (s.finishEngine i e st e.l))

/-- R264, R287: ITPERM at its table's home, behind this chip's earlier stores to the table, gives entry n of the table the value of entry idx[n], all in one step, advances the table's
generation and sends it. -/
def Sys2Proof.Parts.ItpermPerforms : Prop :=
  ∀ (s : State) k slot c p a b n tbl d ks old s1 gen, s.ctxAt k slot = some c → c.o.status = .sent →
    c.b.instr slot = some (.itperm p a b) → n = bits (opVal c.o.l) 9 0 + 1 → tbl = bits (opVal c.o.l) 17 10 →
    loadBytes c s (pageParts (opVal c.o.r) (2 * n)) = .ok d → (∀ x ∈ elemsOf 2 n d, x.toNat < n) →
    tableKeys c s (tableVa (s.sysFor c.t).itb tbl) (List.range n) = .ok ks →
    ∀ s0, s0 = ks.foldl (fun x y => x.reachHome y 8) s → old = ks.map (fun x => Memory.readN s0.mem x 8) →
    s1 = (ks.zip ((elemsOf 2 n d).map (·.toNat))).foldl (fun x y => x.writeHome y.1 ((old[y.2]?).getD [])) s0 →
    gen = ((s.task c.t.task).itgen.find tbl).getD 0 + 1 →
    CompletesWith (.itpermPerform k slot) s c
      ((s1.modTask c.t.task fun t => { t with itgen := t.itgen.put tbl gen }).modBlock c.k fun x => { x with performed := true })
      a b (BitVec.ofNat 64 gen.toNat)

/-- R322: when the ring has room, the first record held for want of it is written, its strand enters the state that its record gives it,
and the Lodge's answers that waited for room go on. -/
def Sys2Proof.Parts.HeldRecordIsWritten : Prop :=
  ∀ (s : State) t h rest k st u, (s.terrace t).held = h :: rest → s.ringRoom t (s.handlerNumber h.entry.task) = true →
    h.mark = none → h.strand = some (k, st) → s.strand k = some u → u.park = none → u.block = none →
    exec (.heldStrandRecord t) s = .next
      ((((s.modTerrace t fun te => { te with held := rest }).ringWrite t h.entry).setStrand k { u with state := st }).answersGo)

/-- R196, R197, R233, R264, R322, R408: drains, collectives, a table's permutation, and a record
that was held. The tag of a placed drain is DEDUCED (log 25), so is DETAIL of a failed collective
(log 30), and how long its record stays is the model's choice (log 83). -/
def Obligations.HomesComplete : Prop :=
  Parts.DrainPlaces ∧ Parts.CollectivesComplete ∧ Parts.ItpermPerforms ∧ Parts.HeldRecordIsWritten

/-! ### The Orangery (R242 to R254, R367 to R376) -/

/-- R250, R251, R372: the domain's arbiter grants a query against its membership as it stands and sends it to every store, in
store-index order; a query on an EMPTY domain is merged at once; one whose format or length is not the domain's takes its fault. While a
read of the domain from the table is held for the Lodge (R370), the query waits. -/
def Sys2Proof.Parts.DomainGrants : Prop :=
  ∀ (s : State) q x, s.dark = false → s.queries.find q = some x → x.granted = false → (∀ y ∈ s.queries, y.1 < q → y.2.strand ≠ x.strand) →
    (s.tableHeld x.task (bits x.r 63 56) = true → exec (.domainGrant q) s = .next (s.hold (.domainGrant q))) ∧
    (s.tableHeld x.task (bits x.r 63 56) = false →
    (∀ d mem, s.domain x.task (bits x.r 63 56) = some d → queryFault x d.geom = none →
      mem = firstK (· < ·) 4096 ((s.stores.filter fun st => st.ofTask x.task && st.dom == d.dom).map (·.store)) →
      exec (.domainGrant q) s = .next (mem.foldl (fun y st => y.push (.storeQueryGrant (.own q) st))
        (s.modQuery q fun y => { y with granted := true, geom := some d.geom, stores := mem }))) ∧
    (s.domain x.task (bits x.r 63 56) = none → x.consume = false →
      exec (.domainGrant q) s = .next ((s.modQuery q fun y => { y with granted := true, performed := false }).push (.matchMerge q))) ∧
    (∀ d f c, s.domain x.task (bits x.r 63 56) = some d → queryFault x d.geom = some f → s.ctxAt x.strand x.slot = some c →
      c.b.performed = false →
      exec (.domainGrant q) s = .next
        (State.takeFault { s with queries := s.queries.drop q } c.k ⟨f, c.b.addr, c.j⟩)))

/-- R249, R251, R368, R372: a store that grants a MATCH answers with the first K of its live entries whose score reaches THRESH, in the
order of R108; it counts the grant. A peer's query at a store here is answered to that peer in the same way. -/
def Sys2Proof.Parts.StoreAnswersQuery : Prop :=
  (∀ (s : State) q store x st s1, s.dark = false → s.queries.find q = some x → x.consume = false → store ∈ x.stores → (∀ a ∈ x.answers, a.1 ≠ store) →
    s.store x.task (bits x.r 63 56) store = some st → st.chip = s.chip → st.blocked = none → s.storeSaved st = false →
    s.entriesLost st = false → s1 = s.scrub st →
    exec (.storeQueryGrant (.own q) store) s = .next ((s1.addPerf st.pav 7 1).answer q store (s1.cands x st))) ∧
  (∀ (s : State) m store st s1, s.dark = false → s.storeOf (some m.chip) m.task m.dom store = some st → m.consume = false → st.blocked = none →
    s.storeSaved st = false → s.entriesLost st = false → s1 = s.scrub st →
    exec (.storeQueryGrant (.peer m) store) s = .next
      ((s1.addPerf st.pav 7 1).send (.answerQuery m.chip m.number store (s1.candsOf (peerAsked m) st))))

/-- R108, R251: candidates come out in rank order, no more than K of them, each of a live entry of the store whose score reaches
THRESH; when fewer than K come out, every such entry is among them. -/
def Obligations.CandidatesAreRanked : Prop :=
  ∀ (s : State) q st, (s.cands q st).length ≤ q.km ∧
    (s.cands q st).Pairwise (fun a b => Cand.before st.geom b a = false) ∧
    (∀ c ∈ s.cands q st, ∃ e ∈ s.entries st, e.live q.tag = true ∧ c.ctr = e.ctr ∧ c.store = st.store ∧
      c.score = st.geom.score q.bytes e.key ∧ st.geom.passes c.score (bits q.third 31 0) = true) ∧
    ((s.cands q st).length < q.km → ∀ e ∈ s.entries st, e.live q.tag = true →
      st.geom.passes (st.geom.score q.bytes e.key) (bits q.third 31 0) = true → ∃ c ∈ s.cands q st, c.ctr = e.ctr)

/-- R252, R374: the match unit merges the answers and delivers the result to the query's buffer, the count and best score to TA and
whether there is a winner to TB; a MATCH is then over. -/
def Sys2Proof.Parts.MatchMerges : Prop :=
  ∀ (s : State) q x c d p1 p2, s.dark = false → s.queries.find q = some x → x.granted = true → x.merged = false → x.stores.length ≤ x.answers.length →
    x.consume = false → s.ctxAt x.strand x.slot = some c → c.b.instr x.slot = some (.matchQ p1 p2) →
    d = resultBytes x x.merge →
    runBad c s ⟨bits x.r 47 43, bits x.r 42 28, d.length, d.length, true⟩ = false →
    runReady c s ⟨bits x.r 47 43, bits x.r 42 28, d.length, d.length, true⟩ = true →
    ∀ s1 t1 b1 b2, s1 = writeRun c s (bits x.r 47 43) (bits x.r 42 28) d → s1.strand c.k = some t1 → t1.block = some b1 →
      b1.fired c.j p1 p2 (some (.value (BitVec.ofNat 64 (x.merge.length * 2 ^ 32 + ((x.merge[0]?).map (·.score)).getD 0))))
        (some (.value (if x.merge = [] then 0 else 1))) = some b2 →
    exec (.matchMerge q) s = .next { s1.firedAt c t1 b2 with queries := (s1.firedAt c t1 b2).queries.drop q }

/-- R251, R253, R372: the decisions of a MATCHC release what the store reserved for it and, for the entries that won, take one LIFE; an
entry whose LIFE reaches 0 is removed. The last store's decisions end the query. A peer's decisions at a store here are acknowledged. -/
def Sys2Proof.Parts.StoreDecides : Prop :=
  (∀ (s : State) q store x st s1, s.dark = false → s.queries.find q = some x → store ∈ x.decide → s.store x.task (bits x.r 63 56) store = some st →
    st.chip = s.chip → s.entriesLost st = false →
    s1 = ((st.resv.filter fun (r : ResvKey × Nat) => r.1 == .own q).foldl (fun (y : State) (r : ResvKey × Nat) =>
        y.decideOne st (x.winners.any fun w => w.store == store && w.life && w.ctr == r.2) r.2) (s.scrub st)).modStore
          x.task (bits x.r 63 56) store (fun st => { st with resv := st.resv.filter fun r => r.1 != .own q }) →
    (x.decide.length ≤ 1 → exec (.storeDecisions (.own q) store) s = .next { s1 with queries := s1.queries.drop q }) ∧
    (1 < x.decide.length → exec (.storeDecisions (.own q) store) s = .next
      (s1.modQuery q fun x => { x with decide := x.decide.filter (· != store) }))) ∧
  (∀ (s : State) m store st, s.dark = false → s.storeOf (some m.chip) m.task m.dom store = some st → s.entriesLost st = false →
    exec (.storeDecisions (.peer m) store) s = .next
      ((s.decideAt st (.peer m.chip m.number) m.winners.contains).send (.decided m.chip m.number store)))

/-- R250 to R253, R372, R374: a query is granted, answered, merged and decided. -/
def Obligations.QueriesAreServed : Prop :=
  Parts.DomainGrants ∧ Parts.StoreAnswersQuery ∧ Parts.MatchMerges ∧ Parts.StoreDecides

/-- R246, R247: an insertion and a removal at a store answer with their status: a KPUT takes what the insertion makes of the store, a KDEL
removes the entry of its id, or reports ABSENT (5); with no such store both report 3. The answer is a completion here, and a message to
the chip that asked where that is a peer. While a read of the domain from the table is held for the Lodge (R370), a request of this chip
waits. -/
def Sys2Proof.Parts.StoreInsertionsComplete : Prop :=
  (∀ (s : State) m, s.dark = false → m.owner = none → s.tableHeld m.task m.dom = true →
    exec (.storeKputInsert m) s = .next (s.hold (.storeKputInsert m))) ∧
  (∀ (s : State) m st, s.dark = false → (m.owner ≠ none ∨ s.tableHeld m.task m.dom = false) →
    s.storeOf m.owner m.task m.dom m.store = some st → st.chip = s.chip → s.storeBusy st = false → s.entriesLost st = false →
    exec (.storeKputInsert m) s = .next
      (((s.scrub st).insertEntry st m).2.2.replyTo m.owner m.strand m.cv m.creg m.block m.slot m.tag
        ((s.scrub st).insertEntry st m).1 ((s.scrub st).insertEntry st m).2.1)) ∧
  (∀ (s : State) m, s.dark = false → (m.owner ≠ none ∨ s.tableHeld m.task m.dom = false) → s.storeOf m.owner m.task m.dom m.store = none →
    exec (.storeKputInsert m) s = .next (s.replyTo m.owner m.strand m.cv m.creg m.block m.slot m.tag 3 0)) ∧
  (∀ (s : State) m st, s.dark = false → (m.owner ≠ none ∨ s.tableHeld m.task m.dom = false) →
    s.storeOf m.owner m.task m.dom (m.id / 2 ^ 24) = some st → st.chip = s.chip → s.storeBusy st = false → s.entriesLost st = false →
    (∀ e, ((s.scrub st).entries st).find? (fun e => e.ctr == m.id % 2 ^ 24) = some e →
      exec (.storeKdel m) s = .next (((((s.scrub st).removeEntry st e.place).setStore st fun st =>
        { st with resv := st.resv.filter fun r => r.2 != e.ctr }).replyTo m.owner m.strand m.cv m.creg m.block m.slot m.tag 0 m.id))) ∧
    ((∀ e ∈ (s.scrub st).entries st, e.ctr ≠ m.id % 2 ^ 24) →
      exec (.storeKdel m) s = .next ((s.scrub st).replyTo m.owner m.strand m.cv m.creg m.block m.slot m.tag 5 m.id))) ∧
  (∀ (s : State) k cv creg block slot tag status id, s.replyTo none k cv creg block slot tag status id =
    (if cv then s.complete k creg (BitVec.ofNat 64 (status * 2 ^ 60 + id)) else if status = 0 then s
     else s.unitRecord k 12 block slot tag status 0 (BitVec.ofNat 64 (status * 2 ^ 60 + id))))

/-- R247, R367, R376: an insertion takes the lowest free place, or else that of the entry with the
lowest counter among those that have expired and are not reserved; its record is written there,
STATE 1 and the store's counter in it, the counter goes up by one, and no byte of memory outside
the place changes. A full store refuses with 1, one whose counter has run out with 2. -/
def Obligations.InsertionTakesPlace : Prop :=
  ∀ (s : State) st m, m.len = st.geom.e → leNat ((m.data.drop 15).take 1) = 0 → leNat ((m.data.drop 18).take 14) = 0 →
    leNat ((m.data.drop 16).take 2) < 4096 → leNat ((m.data.drop 14).take 1) ≤ 5 →
    (st.geom.vkind = 1 → leNat (m.data.take 8) = 0) → s.entriesLost st = false →
    (st.counter = 2 ^ 24 → s.insertEntry st m = (2, 0, s)) ∧
    (∀ x, st.counter ≠ 2 ^ 24 →
      (x < st.cap ∧ s.entry st x = none ∧ (∀ y, y < x → s.entry st y ≠ none)) ∨
      ((∀ y, y < st.cap → s.entry st y ≠ none) ∧ ∃ e ∈ s.entries st, e.place = x ∧ e.timely m.tag = false ∧ e.resv = 0 ∧
        ∀ e' ∈ s.entries st, e'.timely m.tag = false → e'.resv = 0 → e' ≠ e → e.ctr < e'.ctr) →
      s.insertEntry st m = (0, st.store * 2 ^ 24 + st.counter,
        (s.writeHome (st.key x) (m.data.take 15 ++ [1] ++ (m.data.drop 16).take 2 ++ toLe 3 st.counter ++ List.replicate 11 0 ++
          m.data.drop 32)).setStore st fun y => { y with counter := y.counter + 1 }) ∧
      ∀ a, (a < st.key x ∨ st.key x + (32 + (m.data.drop 32).length) ≤ a) →
        Memory.read (s.insertEntry st m).2.2.mem a = Memory.read s.mem a) ∧
    (st.counter ≠ 2 ^ 24 → (∀ x, x < st.cap → s.entry st x ≠ none) →
      (∀ e ∈ s.entries st, e.timely m.tag = true ∨ e.resv ≠ 0) → s.insertEntry st m = (1, 0, s))

/-- R245, R371: MDOM at the domain's arbiter. ATTACH gives a domain a store where its location admits one, and is refused, with a record
and no other effect, where it does not; DETACH takes out a store that owes nothing; SERVE and REBUILD set the state of a domain; CLEAR
empties a store. -/
def Sys2Proof.Parts.MdomCompletes : Prop :=
  (∀ (s : State) m, s.dark = false → m.owner = none → s.tableHeld m.task m.dom = false → ((∃ d, s.domain m.task m.dom = some d ∧ d.geom ≠ m.geom) ∨
      s.attach m.task m.dom m.store m.geom m.loc (bits m.cmd 29 22 + 1) 0 = none) →
    exec (.mdomAttach m) s = .next ((if bits m.loc 60 48 = s.chip then s else s.tick).mdomRefuse m)) ∧
  (∀ (s : State) m s1 st s2, s.dark = false → m.owner = none → s.tableHeld m.task m.dom = false → s.domain m.task m.dom = none →
    s.attach m.task m.dom m.store m.geom m.loc (bits m.cmd 29 22 + 1) 0 = some s1 → s1.store m.task m.dom m.store = some st →
    s2 = (if st.chip = s1.chip then (List.range st.cap).foldl (fun y x => y.removeEntry st x) s1
      else s1.tick.send (.mdom st.chip m)) →
    exec (.mdomAttach m) s = .next
      ((State.tableWrite { s2 with domains := s2.domains ++ [{ task := m.task, dom := m.dom, geom := m.geom }] } m.task
          (entryVa (s2.task m.task).mdt m.dom m.store)
          (toLe 8 (2 ^ 63 + bits m.loc 60 0) ++ toLe 1 (bits m.cmd 29 22) ++ toLe 7 0)).writeHeader m.task m.dom)) ∧
  (∀ (s : State) m st s1 s2 s3, s.dark = false → m.owner = none → s.tableHeld m.task m.dom = false → s.store m.task m.dom m.store = some st → s.storeBusy st = false → st.resv = [] →
    s.unanswered m = false → (st.chip = s.chip ∨ s.undecided m = false) → s1 = { s with stores := s.stores.filter fun x => !x.isAt m.task m.dom m.store } →
    s2 = (if st.chip = s1.chip then s1 else s1.send (.mdom st.chip m)) →
    s3 = (if (s2.stores.any fun x => x.ofTask m.task && x.dom == m.dom) = true then s2
      else { s2 with domains := s2.domains.filter fun d => !(d.task == m.task && d.dom == m.dom) }) →
    exec (.mdomDetach m) s = .next ((s3.tableWrite m.task (entryVa (s3.task m.task).mdt m.dom m.store)
      (toLe 8 0 ++ toLe 1 (st.cap - 1) ++ toLe 3 st.counter ++ toLe 4 0)).writeHeader m.task m.dom)) ∧
  (∀ (s : State) m d i v, s.dark = false → m.owner = none → s.tableHeld m.task m.dom = false → s.domain m.task m.dom = some d →
    (i, v) ∈ [(Instr.mdomServe m, true), (.mdomRebuild m, false)] →
    exec i s = .next (State.writeHeader { s with domains := s.domains.map fun (d : Domain) =>
      (if d.task == m.task && d.dom == m.dom then { d with serve := v } else d) } m.task m.dom)) ∧
  (∀ (s : State) m st s1 s2, s.dark = false → m.owner = none → s.tableHeld m.task m.dom = false → s.store m.task m.dom m.store = some st →
    (st.chip = s.chip → s.storeBusy st = false) →
    s1 = (if st.chip = s.chip then (List.range st.cap).foldl (fun y x => y.removeEntry st x) s else s.send (.mdom st.chip m)) →
    s2 = s1.modStore m.task m.dom m.store (fun st => { st with counter := 0, resv := [] }) →
    exec (.mdomClear m) s = .next (s2.tableWrite m.task (entryVa (s2.task m.task).mdt m.dom m.store + 9) (toLe 3 0))) ∧
  (∀ (s : State) m c st s1, s.dark = false → m.owner = some c → bits m.cmd 63 60 = 0 → s.storeOf (some c) m.task m.dom m.store = none →
    s.usable (bits m.loc 47 36) = true →
    st = ({ task := m.task, dom := m.dom, store := m.store, chip := s.chip, pav := bits m.loc 47 36, fe := bits m.loc 35 32,
            base := bits m.loc 15 0, cap := bits m.cmd 29 22 + 1, geom := m.geom, owner := some c,
            host := s.holder (bits m.loc 47 36) } : Store) →
    s.takeStore st = some s1 →
    exec (.mdomAttach m) s = .next
      (((List.range st.cap).foldl (fun y x => y.removeEntry st x) s1).send (.mdomAnswer c m.task m.dom m.store true 0)))

/-- R244 to R247, R371: insertions, removals and the commands of a domain. -/
def Obligations.DomainsComplete : Prop :=
  Parts.StoreInsertionsComplete ∧ Parts.MdomCompletes

/-! ### Engines (R189 to R199, R255 to R259, R271, R378) -/

/-- R189: an operation starts once no earlier one of its copy queue is still to start, and reads its command whole; a command that
meets a translation miss holds it, with a record. Under DETERM an operation whose destination could not be told at launch is compared with
those in flight once its command tells it (R193; that this is the time, and how far a destination reaches, is DEDUCED, log 45). R195, R214:
an operation that waited for buffer slots goes on with its unit. -/
def Sys2Proof.Parts.EnginesStart : Prop :=
  (∀ (s : State) i e s1 d e1, s.engine i = some e → e.kind ≠ .tlbi → s.enginesKept e = false →
    (e.state = .running ∨ e.state = .queued ∧ s.queueBefore i e (fun x => x.state == .queued) = false) →
    e.cmd.length < e.kind.cmdWords → s.engineRead e e.l (8 * e.kind.cmdWords) = .ok s1 d →
    e1 = { e with cmd := toWords e.kind.cmdWords d, state := .running } →
    (e.untold = false ∨ s1.engineDst e1 = none → exec (.engineStart i) s = .next (s1.setEngine i e1)) ∧
    (∀ dst, e.untold = true → s1.engineDst e1 = some dst → exec (.engineStart i) s = .next
      (if s1.dstOverlap e1 dst then s1.stopOverlap i e1 dst else s1.setEngine i { e1 with dst := dst, untold := false }))) ∧
  (∀ (s : State) i e a bad t s1, s.engine i = some e → e.kind ≠ .tlbi → s.enginesKept e = false →
    (e.state = .running ∨ e.state = .queued ∧ s.queueBefore i e (fun x => x.state == .queued) = false) →
    e.cmd.length < e.kind.cmdWords → s.engineRead e e.l (8 * e.kind.cmdWords) = .hold a bad → s.strand e.strand = some t →
    s1 = s.setEngine i { e with state := .held a bad } →
    exec (.engineStart i) s = .next (s1.record (t.pav / 512)
      { s1.unitRec t 4 e.block e.slot e.tag 0 a 0 bad with tile := e.kind = .sload || e.kind = .sstore } (s.task t.task).faulth)) ∧
  (∀ (s : State) i e s1 n, s.engine i = some e → e.state = .slots → s.enginesKept e = false → engineUnit i s e = .moved s1 n →
    exec (.engineSlotResume i) s = .next (s1.setEngine i { e with done := e.done + n, state := .running }))

/-- R190, R191, R271: an operation that has finished leaves, in launch order within its queue, with its completion or its record; a TLBI
that was launched finishes with status 0. -/
def Sys2Proof.Parts.EnginesFinish : Prop :=
  (∀ (s : State) i e st d, s.engine i = some e → e.state = .finished st d → s.queueBefore i e (fun _ => true) = false →
    ∀ s1, s1 = State.engineReport { s with engines := s.engines.drop i } e st d →
    exec (.engineComplete i) s = .next { s1 with strands := s1.strands.map (unparkEngine i) }) ∧
  (∀ (s : State) i e, s.engine i = some e → e.kind = .tlbi → e.state = .queued →
    exec (.tlbiComplete i) s = .next (s.setEngine i { e with state := .finished 0 0 }))

/-- R255 to R257, R378: requests of a collection are granted in arrival order. An append and a merge are one step at the header's home;
a merge waits for the scans that were granted before it; a scan's grant takes N and SIDELEN as they stand. -/
def Sys2Proof.Parts.CollectionsComplete : Prop :=
  (∀ (s : State) i e s1 n, s.engine i = some e → e.state = .grant → s.collFirst i e = true → s.enginesKept e = false →
    (e.untold = false ∨ s.engineDst e = none) →
    (e.kind = .kappend → kappendStep s e = .ok s1 n →
      exec (.collectionKappend i) s = .next (s1.setEngine i { e with state := .finished 0 (BitVec.ofNat 64 n) })) ∧
    (e.kind = .kmerge → s.scanRuns e = false → kmergeStep s e = .ok s1 n →
      exec (.collectionKmerge i) s = .next (s1.setEngine i { e with state := .finished 0 (BitVec.ofNat 64 n) }))) ∧
  (∀ (s : State) i e, s.engine i = some e → e.state = .grant → s.collFirst i e = true → s.enginesKept e = false →
    (e.untold = false ∨ s.engineDst e = none) →
    (∀ s1 c, (e.kind = .ksum ∨ e.kind = .mscan ∧ attrRefused s e = false ∧ s.scanAwaitsTable e = false) → s.readColl e = .ok s1 c →
      exec (.collectionScanGrant i) s = .next
        (s1.setEngine i { e with done := 1, aux := c.n, aux2 := c.sidelen, state := .running })) ∧
    (e.kind = .mscan → s.scanAwaitsTable e = true → exec (.collectionScanGrant i) s = .next s) ∧
    (e.kind = .mscan → attrRefused s e = true → s.scanAwaitsTable e = false →
      exec (.collectionScanGrant i) s = .next (s.setEngine i { e with state := .finished 4 e.l })))

/-- R256: KAPPEND puts the record at SRC, whole or its first 32 bytes where it deletes, behind the side records that the header counts, and
counts it; it answers with the entry's number. A full side log, and a DELETE of an entry that is not there, end it with BADCMD (4). -/
def Sys2Proof.Parts.KappendStep : Prop :=
  ∀ (s s1 s2 s3 s4 s5 : State) e c h d del, e.f 16 16 = 0 → isWindow (e.addr 8) = false → (e.addr 8).toNat % 8 = 0 →
    s.readColl e = .ok s1 c → s1.engineRead e (e.addr 8) 32 = .ok s2 h → del = decide (leNat ((h.drop 16).take 1) = 1) →
    ((c.sidelen = c.sidecap ∨ del = true ∧ c.n + c.sidelen ≤ leNat ((h.drop 12).take 4)) → kappendStep s e = .stop 4 e.l) ∧
    (c.sidelen ≠ c.sidecap → (del = true → leNat ((h.drop 12).take 4) < c.n + c.sidelen) →
      s2.engineRead e (e.addr 8) (if del then 32 else 32 + c.geom.keyBytes) = .ok s3 d →
      s3.engineWrite e (c.side + BitVec.ofNat 64 (c.sidelen * (32 + c.geom.keyBytes))) d = .ok s4 () →
      s4.engineWrite e (c.va + 52) (toLe 2 (c.sidelen + 1)) = .ok s5 () →
      kappendStep s e = .ok s5 (c.n + c.sidelen))

/-- R257: KMERGE takes the side records one by one, in their order, and then writes N with them added and SIDELEN 0: an INSERT's key, value
and attribute go to the place that its number gives it, and a DELETE sets the tombstones of its target and of itself. -/
def Sys2Proof.Parts.KmergeStep : Prop :=
  (∀ (s s1 s2 s3 : State) e c ns, e.f 8 24 = 0 → s.readColl e = .ok s1 c →
    Got.each (c.mergeOne e) (List.range c.sidelen) s1 = .ok s2 ns →
    s2.engineWrite e (c.va + 48) (toLe 4 (c.n + c.sidelen) ++ toLe 2 0) = .ok s3 () → kmergeStep s e = .ok s3 (ns.sum + 6)) ∧
  (∀ (s s1 s2 s3 s4 : State) e (c : Coll) i d, s.engineRead e (c.sideVa i) c.recBytes = .ok s1 d →
    (leNat ((d.drop 16).take 1) ≠ 1 →
      s1.engineWrite e (c.keyVa (c.n + i)) ((d.drop 32).take c.geom.kb) = .ok s2 () →
      s2.engineWrite e (c.vals + BitVec.ofNat 64 (8 * (c.n + i))) (d.take 8) = .ok s3 () →
      s3.engineWrite e (c.attrs + BitVec.ofNat 64 (4 * (c.n + i))) ((d.drop 8).take 4) = .ok s4 () →
      c.mergeOne e s i = .ok s4 (c.geom.kb + 12)) ∧
    (leNat ((d.drop 16).take 1) = 1 → c.setTomb e s1 (leNat ((d.drop 12).take 4)) = .ok s2 () → c.setTomb e s2 (c.n + i) = .ok s3 () →
      c.mergeOne e s i = .ok s3 2)) ∧
  (∀ (s s1 s2 : State) e (c : Coll) i d, s.engineRead e (c.tomb + BitVec.ofNat 64 (i / 8)) 1 = .ok s1 d →
    s1.engineWrite e (c.tomb + BitVec.ofNat 64 (i / 8)) (toLe 1 (leNat d ||| 2 ^ (i % 8))) = .ok s2 () → c.setTomb e s i = .ok s2 ())

/-- R192, R306: what an engine reads and writes within one page: the bytes at the key that the engine's translation gives, as its
pavilion sees them, and at that key's home. -/
def Sys2Proof.Parts.EnginesReach : Prop :=
  ∀ (s s1 : State) e a key,
    (∀ n, 0 < n → isWindow a = true ∨ a.toNat % 4096 + n ≤ 4096 → s.engineKey e a n .load = .ok s1 key →
      s.engineRead e a n = .ok s1 (s1.viewN engineParty e.pav key n)) ∧
    (∀ d, d ≠ [] → isWindow a = true ∨ a.toNat % 4096 + d.length ≤ 4096 → s.engineKey e a d.length .store = .ok s1 key →
      s.engineWrite e a d = .ok ((s1.reachHome key d.length).writeHome key d) ())

/-- An operation that runs moves a unit of n more, and the machine is then s1 but for its count. -/
def Sys2Proof.Parts.Moves (i : Nat) (s : State) (e : Engine) (s1 : State) (n : Nat) : Prop :=
  exec (.engineStart i) s = .next (s1.setEngine i { e with done := e.done + n, state := .running })

/-- R194, R195, R198, R304: the copies, unit by unit. CPY moves bytes of SRC to DST, up to the next page of either; CPYT the bytes of a row
into its slot; WSLD 64 bytes of the weight store, unless they lie in the segment that is being refreshed. A slot that is not free is
waited for. What is all there ends with DONE and its number of bytes. -/
def Sys2Proof.Parts.CopiesMove : Prop :=
  ∀ (s : State) i e, s.engine i = some e → e.state = .running → s.enginesKept e = false → e.kind.cmdWords ≤ e.cmd.length →
    (∀ src dst len, e.kind = .cpy → src = e.addr 0 → dst = e.addr 8 → len = e.f 16 4 → isWindow dst = false →
      len ≠ 0 → e.f 20 12 = 0 → (isWindow src = false → rangesMeet (src.toNat, len) (dst.toNat, len) = false) →
      (isWindow src = true → ∀ p fe off, s.bankWindow e.task e.pav src = some (p, fe, off) →
        off + len ≤ 65536 ∧ s.purposed e.task p fe off len = true) →
      (e.done = len → exec (.engineStart i) s = .next (s.setEngine i { e with state := .finished 0 (BitVec.ofNat 64 len) })) ∧
      (∀ a b n s1 d s2, e.done ≠ len → a = src + BitVec.ofNat 64 e.done → b = dst + BitVec.ofNat 64 e.done →
        n = (if isWindow src then min (len - e.done) (4096 - b.toNat % 4096)
          else min (min (len - e.done) (4096 - b.toNat % 4096)) (4096 - a.toNat % 4096)) →
        s.engineRead e a n = .ok s1 d → s1.engineWrite e b d = .ok s2 () → Parts.Moves i s e s2 n)) ∧
    (∀ x r row rows k, e.kind = .cpyt → s.snapBuf e (e.f 15 1) = some (x, r) → row = e.f 12 2 + 1 → rows = e.f 14 1 + 1 → k = e.f 16 2 →
      rows ≤ 32 → e.f 18 14 = 0 → rows * row ≤ r.size → k < r.count → isWindow (e.addr 0) = false →
      (x.free r k = false → exec (.engineStart i) s = .next (s.setEngine i { e with state := .slots })) ∧
      (x.free r k = true → e.done = rows * row →
        exec (.engineStart i) s = .next (s.setEngine i { e with state := .finished 0 (BitVec.ofNat 64 e.done) })) ∧
      (∀ a n s1 d, x.free r k = true → e.done ≠ rows * row →
        a = e.addr 0 + BitVec.ofNat 64 (e.done / row * e.f 8 4 + e.done % row) → n = min (row - e.done % row) (4096 - a.toNat % 4096) →
        s.engineRead e a n = .ok s1 d → Parts.Moves i s e (s1.writeHome (r.slotKey ((x.p + k) % r.count) + e.done) d) n)) ∧
    (∀ x r k off, e.kind = .wsld → s.snapBuf e (bits e.r 49 45) = some (x, r) → k = bits e.r 44 30 → k < r.count →
      off = e.l.toNat + 64 * e.done →
      (e.done = bits e.r 10 0 →
        exec (.engineStart i) s = .next (s.setEngine i { e with state := .finished 0 (BitVec.ofNat 64 (64 * e.done)) })) ∧
      (e.done ≠ bits e.r 10 0 → x.free r k = false → exec (.engineStart i) s = .next (s.setEngine i { e with state := .slots })) ∧
      (e.done ≠ bits e.r 10 0 → x.free r k = true →
        (off / 2 ^ 25 = (s.terrace (e.pav / 512)).seg →
          exec (.engineStart i) s = .next (s.setEngine i { e with state := .refresh (off / 2 ^ 25) })) ∧
        (off / 2 ^ 25 ≠ (s.terrace (e.pav / 512)).seg → s.poisoned (2 ^ 57 + e.pav / 512 * 2 ^ 31 + off) 64 = false →
          Parts.Moves i s e (s.writeHome (r.slotKey ((x.p + k) % r.count) + 64 * e.done)
            (Memory.readN s.mem (2 ^ 57 + e.pav / 512 * 2 ^ 31 + off) 64)) 1)))

/-- R265, R266: the gathers. IGATHER reads the table's entries first, which must all be valid, and then moves N bytes of the page that each
entry names, at OFFSET; WALK reads each index and moves the N bytes of that record of its table. Each takes slots of its own, and waits
for one that is not free. -/
def Sys2Proof.Parts.GathersMove : Prop :=
  ∀ (s : State) i e x r n cnt per, s.engine i = some e → e.state = .running → s.enginesKept e = false → 4 ≤ e.cmd.length →
    n = e.f 16 4 → per = (n + r.size - 1) / r.size →
    (∀ itb, e.kind = .igather → s.snapBuf e (e.f 20 1) = some (x, r) → cnt = e.f 4 2 + 1 → itb = BitVec.ofNat 64 e.aux →
      e.f 0 1 < bits itb 8 0 → e.f 1 1 = 0 → e.f 2 2 + cnt ≤ 1024 → e.f 6 2 = 0 → n ≠ 0 → e.f 21 1 = 0 → e.f 24 8 = 0 →
      e.f 22 2 + cnt * per ≤ r.count →
      (∀ s1 d, e.cmd.length = 4 →
        s.engineRead e (BitVec.ofNat 64 (bits itb 56 13 * 8192 + 8192 * e.f 0 1 + 8 * e.f 2 2)) (8 * cnt) = .ok s1 d →
        ((∀ w ∈ toWords cnt d, w.getLsbD 63 = true) → exec (.engineStart i) s = .next
          (s1.setCmd i e (e.cmd ++ toWords cnt d))) ∧
        ((∃ w ∈ toWords cnt d, w.getLsbD 63 = false) →
          exec (.engineStart i) s = .next (s.setEngine i { e with state := .finished 4 e.l }))) ∧
      (e.cmd.length ≠ 4 → e.done = cnt * n →
        exec (.engineStart i) s = .next (s.setEngine i { e with state := .finished 0 (BitVec.ofNat 64 e.done) })) ∧
      (∀ j o page src k, e.cmd.length ≠ 4 → e.done ≠ cnt * n → j = e.done / n → o = e.done % n →
        page = (e.cmd[4 + j]?).getD 0 &&& 0x01FFFFFFFFFFFFFF → src = page + e.addr 8 + BitVec.ofNat 64 o →
        k = e.f 22 2 + j * per + o / r.size → isWindow src = false →
        (x.free r k = false → exec (.engineStart i) s = .next (s.setEngine i { e with state := .slots })) ∧
        (∀ m s1 d, x.free r k = true → m = min (min (n - o) (r.size - o % r.size)) (4096 - src.toNat % 4096) →
          s.engineRead e src m = .ok s1 d →
          Parts.Moves i s e (s1.writeHome (r.slotKey ((x.p + k) % r.count) + o % r.size) d) m))) ∧
    (∀ esz, e.kind = .walk → s.snapBuf e (e.f 23 1) = some (x, r) → cnt = e.f 20 2 + 1 → esz = (if e.f 22 1 = 0 then 4 else 8) →
      n ≠ 0 → n % 64 = 0 → cnt ≤ 1024 → e.f 22 1 ≤ 1 → e.f 24 2 + cnt * per ≤ r.count → e.f 26 6 = 0 → isWindow (e.addr 8) = false →
      (isWindow (e.addr 0) = true → ∀ p fe off, s.bankWindow e.task e.pav (e.addr 0) = some (p, fe, off) →
        off + esz * cnt ≤ 65536 ∧ s.purposed e.task p fe off (esz * cnt) = true) →
      (e.done = cnt * n → exec (.engineStart i) s = .next (s.setEngine i { e with state := .finished 0 (BitVec.ofNat 64 e.done) })) ∧
      (∀ j o s0 ix src k, e.done ≠ cnt * n → j = e.done / n → o = e.done % n →
        s.engineRead e (e.addr 0 + BitVec.ofNat 64 (esz * j + esz - 4)) 4 = .ok s0 ix →
        src = e.addr 8 + BitVec.ofNat 64 (leNat ix * n + o) → k = e.f 24 2 + j * per + o / r.size → isWindow src = false →
        ∀ m s1 d, x.free r k = true → m = min (min (n - o) (r.size - o % r.size)) (4096 - src.toNat % 4096) →
          s0.engineRead e src m = .ok s1 d →
          Parts.Moves i s e (s1.writeHome (r.slotKey ((x.p + k) % r.count) + o % r.size) d) m))

/-- R213, R214, R315: the streams. SLOAD puts the elements of a tile, or of a piece of a row, into the next slot of its buffer once that is
free, and SSTORE takes them from there once it is filled; an element of the tensor stands at its row and column, behind BOFF, in the tile
that the table names, an INT4 element in a half of its byte, the other half of which is kept; outside the tensor zero is read and nothing
is written. -/
def Sys2Proof.Parts.StreamsMove : Prop :=
  (∀ (s s1 : State) i e inf x r b dir slot p, s.engine i = some e → e.state = .running → s.enginesKept e = false →
    s.tensorLost e.task (bits e.l 63 52) = false → s.tensor e.task (bits e.l 63 52) = some inf →
    s.snapBuf e (bits e.l 51 47) = some (x, r) → b = streamBox inf e → s.tensorDir e.task b.tensor = .ok s1 dir →
    dir.2.1 ≠ 0 → b.k + b.slots r.size ≤ r.count → (b.tile = true → b.fmt.tileBytes ≤ r.size) →
    e.done ≠ (if b.tile then b.slots r.size else b.bytes) → slot = b.k + (if b.tile then e.done else e.done / r.size) →
    p = (if b.tile then (b.tileCoords e.done, 1) else b.piece r.size e.done) →
    (e.kind = .sload → (x.freeNow r slot = false → exec (.engineStart i) s = .next (s.setEngine i { e with state := .slots })) ∧
      (∀ s2 vs, x.freeNow r slot = true → Got.each (loadElem e b) p.1 s1 = .ok s2 vs →
        Parts.Moves i s e (s2.writeHome (r.slotKey ((x.p + slot) % r.count) + (if b.tile then 0 else e.done % r.size))
          (if b.tile then writeTile b.fmt b.pl b.aux (toRows vs) else pack b.fmt vs)) p.2)) ∧
    (e.kind = .sstore → (x.full r slot = false → exec (.engineStart i) s = .next (s.setEngine i { e with state := .slots })) ∧
      (∀ key n s2 ks, x.full r slot = true →
        key = r.slotKey ((x.c + slot) % r.count) + (if b.tile then 0 else e.done % r.size) →
        n = (if b.tile then b.fmt.tileBytes else p.2) → s1.poisoned key n = false → Got.each (storeElem e b) p.1 s1 = .ok s2 ks →
        Parts.Moves i s e ((ks.zip (if b.tile then (readTile b.fmt b.pl b.aux (s1.viewN engineParty e.pav key n)).flatten
          else unpack b.fmt p.1.length (s1.viewN engineParty e.pav key n))).foldl (writeElem b) s2) p.2))) ∧
  (∀ (s s1 : State) e (b : Box) y c at' key, at' = (b.row0 + y) * b.tcols + (b.col0 + c) →
    (b.trows ≤ b.row0 + y ∨ b.tcols ≤ b.col0 + c →
      loadElem e b s (y, c) = .ok s (zeroCode b.fmt) ∧ storeElem e b s (y, c) = .ok s none) ∧
    (b.row0 + y < b.trows → b.col0 + c < b.tcols → 8 ≤ b.fmt.width →
      (s.tileKey e b.tensor (at' * b.fmt.width / 8) (b.fmt.width / 8) .load = .ok s1 key →
        loadElem e b s (y, c) = .ok s1 (leNat (s1.viewN engineParty e.pav key (b.fmt.width / 8)))) ∧
      (s.tileKey e b.tensor (at' * b.fmt.width / 8) (b.fmt.width / 8) .store = .ok s1 key →
        storeElem e b s (y, c) = .ok s1 (some (key, at' % 2)))) ∧
    (b.row0 + y < b.trows → b.col0 + c < b.tcols → b.fmt.width = 4 →
      (s.tileKey e b.tensor (at' / 2) 1 .load = .ok s1 key →
        loadElem e b s (y, c) = .ok s1 (leNat (s1.viewN engineParty e.pav key 1) / 16 ^ (at' % 2) % 16)) ∧
      (s.tileKey e b.tensor (at' / 2) 1 .store = .ok s1 key → storeElem e b s (y, c) = .ok s1 (some (key, at' % 2)))) ∧
    (∀ v half old, (8 ≤ b.fmt.width → writeElem b s (some (key, half), v) =
        (s.reachHome key (b.fmt.width / 8)).writeHome key (toLe (b.fmt.width / 8) v)) ∧
      (old = (Memory.read (s.reachHome key 1).mem key).toNat → b.fmt.width = 4 → writeElem b s (some (key, half), v) =
        (s.reachHome key 1).writeHome key (toLe 1 (if half = 0 then old / 16 * 16 + v else old % 16 + 16 * v)))))

/-- R258, R259: MSCAN writes its header and the best entries to RES, in rank order: of those that pass THRESH, after the filter (FLAGS 1) or
before it (FLAGS 2), no more than K + 1; KSUM writes to a page's place in SUMS the smallest and behind it the largest of each element of
the page's keys. -/
def Sys2Proof.Parts.ScansMove : Prop :=
  (∀ (s s1 s2 : State) i e d, s.engine i = some e → e.state = .running → s.enginesKept e = false → e.kind = .mscan → 8 ≤ e.cmd.length →
    e.done ≠ 0 → mscanBytes s e = .ok s1 d → s1.engineWrite e (e.addr 44) d = .ok s2 () →
    exec (.engineStart i) s = .next (s2.setEngine i { e with state := .finished 0 (BitVec.ofNat 64 d.length) })) ∧
  (∀ (s s1 s2 s3 s4 s5 s6 : State) e c q pages recs xs ys dead, s.readColl e = .ok s1 c →
    s1.engineRead e (e.addr 8) c.geom.kb = .ok s2 q → mscanPages s2 e { c with n := e.aux, sidelen := e.aux2 } = .ok s3 pages →
    Got.each (fun s i => s.engineRead e (c.sideVa i) c.recBytes) (List.range e.aux2) s3 = .ok s4 recs →
    dead = (recs.filter fun d => leNat ((d.drop 16).take 1) == 1).map (fun d => leNat ((d.drop 12).take 4)) →
    Got.each (({ c with n := e.aux, sidelen := e.aux2 } : Coll).scoreEntry e q dead)
      (pages.flatMap fun p => (List.range (2 ^ c.logPage)).filterMap fun j =>
        if p * 2 ^ c.logPage + j < e.aux then some (p * 2 ^ c.logPage + j) else none) s4 = .ok s5 xs →
    Got.each (({ c with n := e.aux, sidelen := e.aux2 } : Coll).scoreSide e q dead) ((List.range e.aux2).zip recs) s5 = .ok s6 ys →
    ∀ ranked top kept, ranked = (((xs ++ ys).filterMap fun x => x).filter fun x => e.f 34 1 % 2 ≠ 1 ∨ x.pass) →
      top = firstK (fun (x y : Scored) => Cand.before c.geom x.cand y.cand) (e.f 32 1 + 1)
        (ranked.filter fun x => c.geom.passes x.cand.score (e.f 28 4)) →
      kept = (top.filter fun x => e.f 34 1 / 2 % 2 ≠ 1 ∨ x.pass) →
      mscanBytes s e = .ok s6 (toLe 4 kept.length ++ toLe 4 (top.length - kept.length) ++ toLe 8 ranked.length ++ toLe 16 0
        ++ kept.flatMap fun x => eachRecord x.cand (roundF .fp32 .rne (c.geom.scoreNum x.cand.score)))) ∧
  (∀ (s s1 s2 s3 s4 : State) i e c p a ks, s.engine i = some e → e.state = .running → s.enginesKept e = false → e.kind = .ksum →
    4 ≤ e.cmd.length → e.f 16 16 = 0 → e.done ≠ 0 → s.readColl e = .ok s1 c → c.geom.kfmt ≠ 2 →
    (e.done = e.f 12 4 + 1 → exec (.engineStart i) s = .next
      (s1.setEngine i { e with state := .finished 0 (BitVec.ofNat 64 (e.f 12 4 * 2 * c.geom.dim)) })) ∧
    (e.done ≠ e.f 12 4 + 1 → p = e.f 8 4 + e.done - 1 → a = c.sums + BitVec.ofNat 64 (p * 2 * c.geom.keyBytes) →
      Got.each (fun s i => s.engineRead e (c.keyVa (p * 2 ^ c.logPage + i)) c.geom.kb)
        (List.range (min (e.aux - p * 2 ^ c.logPage) (2 ^ c.logPage))) s1 = .ok s2 ks →
      s2.engineWrite e a (keyFold (c.geom.kfmt == 1) false c.geom.dim ks) = .ok s3 () →
      s3.engineWrite e (a + BitVec.ofNat 64 c.geom.keyBytes) (keyFold (c.geom.kfmt == 1) true c.geom.dim ks) = .ok s4 () →
      Parts.Moves i s e s4 1)) ∧
  (∀ uns dim k ks j x, j < dim → x ∈ k :: ks → (x[j]?).isSome = true →
    keyInt uns (((keyFold uns false dim (k :: ks))[j]?).getD 0) ≤ keyInt uns ((x[j]?).getD 0) ∧
    keyInt uns ((x[j]?).getD 0) ≤ keyInt uns (((keyFold uns true dim (k :: ks))[j]?).getD 0))

/-- R189 to R195, R198, R213 to R214, R255 to R259, R265, R266, R271, R315, R378: an engine
operation starts, is granted, moves its bytes unit by unit, and completes. When and how far
destinations are compared is DEDUCED (log 45). DETAIL as the command's address (log 30), the bytes
that KMERGE and KSUM count (log 44) and the MSCAN header's count (log 43) are the model's too. -/
def Obligations.EnginesComplete : Prop :=
  Parts.EnginesStart ∧ Parts.EnginesFinish ∧ Parts.CollectionsComplete ∧ Parts.KappendStep ∧ Parts.KmergeStep ∧
  Parts.EnginesReach ∧ Parts.CopiesMove ∧ Parts.GathersMove ∧ Parts.StreamsMove ∧ Parts.ScansMove

/-! ### Resident blocks (R14, R20, R130, R136, R237, R286, R353) -/

/-- R14, R20, R136, R237: an iteration of a resident block starts for a new tag where its task
runs, its source is not gated and its page's pavilion is usable; it ends, and its region closes at
the scope of the block's RGN (domain without one), once every instruction that its tokens reached
has fired or been suppressed. What an iteration starts with, and how its ports' boxes move, is the
model's choice (log 9); so is that an iteration in which nothing can fire any more, and which has
not ended, raises BLOCK_STALL (log 67). -/
def Sys2Proof.Parts.IterationsRun : Prop :=
  (∀ (s : State) task blk tag toks b pav, (s.task task).blocks[blk]? = some b → s.iteration task blk tag = none → tagOk tag = true →
    (s.task task).status.gone = false → s.physPav (s.task task) b.lpav = some pav → s.sourceGated task tag = false →
    exec (.residentIterationStart task blk tag toks) s =
      .next ((((s.tagPass task (tagDepth tag) tag none).newIteration task blk tag toks b pav).portsIn s.strands.length toks).loadIteration s.strands.length b)) ∧
  (∀ (s : State) k t b blk, s.strand k = some t → t.block = some b → t.kind = .iteration blk → t.phase = .run → b.still = true →
    b.stuck = false → (commitLines b t.fp t.region.store).length ≤ 64 →
    exec (.residentIterationEnd k) s = .next
      { s.setStrand k { t with
          block := none, exiting := true, state := .ready,
          phase := .close (match rgnOf b.words with | some (sc, _) => sc | none => 4),
          region := { t.region with first := false, store := commitLines b t.fp t.region.store,
                                    deferred := t.region.deferred ++ s.portsOut t b.addr } } with
        queries := s.queries.filter fun (q : Nat × Query) => q.2.strand != k || q.2.consume }) ∧
  (∀ (s : State) k t b blk, s.strand k = some t → t.block = some b → t.kind = .iteration blk → t.phase = .run → b.still = true →
    b.stuck = true →
    exec (.residentIterationEnd k) s = .next (s.takeFault k ⟨{ code := .illegal, sub := 3 }, b.addr, 63⟩))

/-- R286, R353: the reconfiguration token of a graph that is not quiet is pending; once the graph is quiet it passes, and the set is
released or loaded again (which of the two is a free value, log 80); a page of a quiet graph leaves a harvested pavilion, or moves toward
the lowest pavilions once another graph's pages have been released, with all that its logical pavilion holds, which changes places with
another of its grove (log 93). The
windows of a pavilion that takes a page are left to strands as far as R352 leaves them. -/
def Sys2Proof.Parts.GraphEventsComplete : Prop :=
  (∀ (s : State) task, (s.task task).graph = true → (s.task task).status.gone = false →
    (s.graphQuiet task = false → exec (.reconfigTokenPass task) s = .next (s.modTask task fun t => { t with token := true })) ∧
    (∀ g, s.graphQuiet task = true → (s.graphOf task (s.blockRegs task) = some g ∨ Config.freeChoice s.ticks % 2 ≠ 0) →
      exec (.reconfigTokenPass task) s = .next ((((State.pagesFreed { s with ticks := s.ticks + 1 } task).modTask task fun t =>
        { t with token := false, blocks := if Config.freeChoice s.ticks % 2 = 0 then g.1 else [],
                 pages := if Config.freeChoice s.ticks % 2 = 0 then g.2 else [], finished := [] })).pageWindows task))) ∧
  (∀ (s : State) task page pav t own p q, s.dark = false → t = s.task task → t.pages[page]? = some own → s.mayMovePage t page pav = true →
    pav ∉ t.pages → t.token = false → s.graphQuiet task = true → s.taskQuiet task = true → t.place own = some p → t.place pav = some q →
    s.pavFree task p = true → s.pavFree task q = true →
    exec (.fabricPageMove task page pav) s = .next (((s.swapPavs task p q).modTask task fun x =>
      { x with remap := (x.remap.put own (t.slot pav)).put pav (t.slot own) }).pageWindows task)) ∧
  (∀ (s : State) (t : Task) page pav own old new, t.pages[page]? = some own → own / 16 = pav / 16 → t.place own = some old →
    s.physPav t pav = some new →
    (s.mayMovePage t page pav = true ↔ s.usable old = false ∨ (t.compact = true ∧ new < old))) ∧
  (∀ (s : State) task p q, p ≠ q →
    (∀ off, off < 1048576 → s.memOk → Memory.read (s.swapPavs task p q).mem (bankKey q 0 + off) = Memory.read s.mem (bankKey p 0 + off)) ∧
    (∀ k t, s.strand k = some t → t.task = task → t.pav = p → t.state ≠ .ended → ((s.swapPavs task p q).strand k).map (·.pav) = some q))

/-- R14, R20, R136, R237, R286, R353: the events of resident blocks. What an iteration starts with
(log 9), that a stuck one stalls (log 67) and what a token makes of its set (log 80) are the
model's choice. -/
def Obligations.GraphsComplete : Prop :=
  Parts.IterationsRun ∧ Parts.GraphEventsComplete

/-! ### The Grand Scheduler (R341 to R365) -/

/-- R341: a doorbell sets its queue's TAIL, unless the queue would then hold more entries than its size. -/
def Sys2Proof.Parts.DoorbellSetsTail : Prop :=
  ∀ (s : State) q tail, s.dark = false → q < 64 →
    ((tail - (s.queue q).head).toNat ≤ 2 ^ (bits (s.queue q).cfg 3 0 + 4) →
      exec (.lqDoorbell q tail) s = .next (s.setQueue q { s.queue q with tail := tail })) ∧
    (2 ^ (bits (s.queue q).cfg 3 0 + 4) < (tail - (s.queue q).head).toNat → exec (.lqDoorbell q tail) s = .next s)

/-- R342, R343, R346, R347: the queue whose turn it is is served: a head that its checks refuse ends with REFUSED (2) and its REASON,
DONE written and HEAD moved on; any other is launched on the groves that were found for it. -/
def Sys2Proof.Parts.LaunchServesQueue : Prop :=
  ∀ (s : State) q, (∀ r, s.turn = some (q, .refuse r) → exec (.taskLaunch q) s = .next (s.endEntry q 2 r)) ∧
    (∀ d gs, s.turn = some (q, .go d gs) → exec (.taskLaunch q) s = .next (s.launch q d gs))

/-- R342: an entry that ends writes DONE (status, reason, the last task's number and the number of snapshots) into the queue's entry,
and the queue's HEAD moves on by one. The entry is written at its page's owner (R326), which no move holds. -/
def Sys2Proof.Parts.EntryEnds : Prop :=
  ∀ (s : State) q v status reason place, s.memOk → (s.queue q).serv = some v → s.keyOk ((s.queue q).entry + 16) = true →
    place = s.ownerKey ((s.queue q).entry + 16) → s.frameHeld (frameOf place) = false →
    ((s.endEntry q status reason).queue q).head = (s.queue q).head + 1 ∧ ((s.endEntry q status reason).queue q).serv = none ∧
    (∀ i, i < 8 → Memory.read (s.endEntry q status reason).mem (place + i) =
      ((toLe 8 (status * 2 ^ 60 + reason * 2 ^ 56 + v.last % 4096 * 2 ^ 32 + v.snaps % 2 ^ 32))[i]?).getD 0) ∧
    ∀ p, p ≠ q → (s.endEntry q status reason).queue p = s.queue p

/-- R10, R182, R322, R342, R370, R399: a task none of whose strands is left and nothing of which
is on its way ends; a fault handler ends its task at once; an end that has begun completes once
its stores are decided and what it caused has been performed. That it ends when nothing of it is
on its way is DEDUCED (log 56). Which groves stay held is DEDUCED (log 35). -/
def Sys2Proof.Parts.TaskEnds : Prop :=
  (∀ (s : State) task, task < s.tasks.length → (s.task task).status = .running → s.taskDone task = true →
    exec (.taskEnd task false) s = .next (s.endTask task false)) ∧
  (∀ (s : State) task, task < s.tasks.length → (s.task task).status.gone = false →
    exec (.taskEnd task true) s = .next (s.endTask task true)) ∧
  (∀ (s : State) task a b s1, task < s.tasks.length → (s.task task).status = .ending a →
    ((s.task task).homes ≠ [] ∨ (s.task task).groves = []) → s.queriesOut task = false →
    s1 = s.retireStores task → (∀ x ∈ s1.engines, x.2.task ≠ task) →
    (∀ te ∈ s1.terraces, ∀ h ∈ te.held, h.entry.task ≠ (s1.task task).number) →
    exec (.taskEnd task b) s = .next ((s1.modTask task fun t => { t with status := .ended, homes := [] }).endService task a)) ∧
  (∀ (s : State) task t stay, t = s.task task → t.homes = [] → t.groves ≠ [] → stay = t.groves.filter (s.groveStays task) →
    (∀ g ∈ stay, g ∈ t.stayed) → stay.length ≤ t.stayed.length → s.endGroves task =
      { s.modTask task (fun x => { x with groves := stay, homes := t.groves }) with passed := s.passed.filter fun p => p.1 != task }) ∧
  (∀ (s : State) task t g rest, t = s.task task → s.groveKept task (g / 32) = false → holdGroves task (g :: rest) s = holdGroves task rest
    ((s.record (g / 32) { kind := 7, addr := BitVec.ofNat 64 g, task := t.number } t.faulth).modTask task fun x =>
      { x with stayed := x.stayed ++ [g] }))

/-- R356 to R360: pre-emption for a head stops the victims that were chosen for it, each in its own way; a task that is being stopped is
saved, and its groves are freed, once no strand of it stalls, every strand stands at a region's end, nothing of it is on its way and the
write-backs of its stores' counters have been performed; strands that stall are discarded. R365: a saved task whose turn it is resumes once
groves are free that have a usable pavilion for each of its logical ones at which something stands (DEDUCED, logs 53 and 79). -/
def Sys2Proof.Parts.PreemptionCompletes : Prop :=
  (∀ (s : State) q vs, s.preemption q = vs → exec (.preemptChoice q) s = .next
    (vs.foldl (fun y x => y.preempt x.1 x.2.1 x.2.2 (s.queue q).prio) { s with ticks := s.ticks + s.tasks.length })) ∧
  (∀ (s : State) task c rewind, (s.task task).status = .stopping c rewind →
    (s.stalledOf task = [] → s.saveReady task = true → (rewind = true ∨ s.iterating task = false) →
      s.areaHeld (s.task task).desc.save ((s.task task).desc.saveMb * 2 ^ 20) = false →
      ∀ s1, s1 = (if (s.task task).tallied = some (s.tally task) then s
        else (s.writeCounters task).modTask task fun t => { t with tallied := some (s.tally task) }) →
      (s1.taskQuiet task = true → exec (.preemptSave task) s = .next (s1.saveTask task c)) ∧
      (s1.taskQuiet task = false → exec (.preemptSave task) s = .next s1)) ∧
    (s.stalledOf task ≠ [] → exec (.preemptSave task) s = .next ((s.stalledOf task).foldl State.discardReenter s))) ∧
  (∀ (s : State) task, s.resumeTurn task = true → s.areaHeld (s.task task).desc.save ((s.task task).desc.saveMb * 2 ^ 20) = false →
    (∀ gs, s.newGroves task = some gs → exec (.taskResume task) s = .next (s.resumeTask task gs)) ∧
    (s.newGroves task = none → exec (.taskResume task) s = .next s))

/-- R341 to R347, R356 to R365: the events of the Grand Scheduler. When a task ends (log 56) and
which free groves a resumption takes (logs 53 and 79) is the model's reading. -/
def Obligations.SchedulerCompletes : Prop :=
  Parts.DoorbellSetsTail ∧ Parts.LaunchServesQueue ∧ Parts.EntryEnds ∧ Parts.TaskEnds ∧ Parts.PreemptionCompletes

/-! ### The Lodge and system registers (R6, R14, R43, R187, R232, R269, R271, R273, R303 to R305, R314, R318, R326, R328, R370) -/

/-- R314: the Lodge's answer to a translation record of a Terrace's ring reaches what waits for it: a MAPPED answer replays and releases,
an INVALID one drops and faults; a write whose record number names no translation record does nothing. -/
def Sys2Proof.Parts.LodgeAnswers : Prop :=
  ∀ (s : State) t recno, s.dark = false → t < s.terraces.length → ∀ s1 s2,
    s1 = s.modTerrace t (fun te => { te with xreply := BitVec.ofNat 64 (2 ^ 62 + recno.toNat) }) →
    s2 = s.modTerrace t (fun te => { te with xreply := BitVec.ofNat 64 (2 ^ 63 + recno.toNat) }) →
    ((s.terrace t).answered.find recno.toNat = none →
      exec (.xreplyMapped t recno) s = .next s ∧ exec (.xreplyInvalid t recno) s = .next s) ∧
    (∀ tile addr n task, (s.terrace t).answered.find recno.toNat = some (tile, addr, n) →
      s.tasks.findIdx? (fun x => x.number == n && x.status != .ended) = some task →
      exec (.xreplyMapped t recno) s = .next (s1.mapped tile addr task) ∧
      exec (.xreplyInvalid t recno) s = .next (s2.invalid tile addr task))

/-- R303, R304, R305, R273: a refresh window of an admitted Terrace ends and the next segment's begins, and what waited for another
segment goes on; the Lodge writes a weight store that no task holds, and its bytes are there; a waiting IDLE that times out has 1 as
its answer. -/
def Sys2Proof.Parts.RefreshAndWeightsComplete : Prop :=
  (∀ (s : State) t seg s1 i, s.dark = false → (s.terrace t).state = 2 → (i = .refreshWindowStart t ((seg + 1) % 64) ∨ i = .refreshWindowEnd t seg) →
    seg = (s.terrace t).seg → s1 = s.modTerrace t (fun te => { te with seg := (seg + 1) % 64 }) →
    exec i s = .next { s1 with engines := s1.engines.map fun (x : Nat × Engine) => match x.2.state with
      | .refresh g => if terraceOf x.2.pav = t ∧ g ≠ (seg + 1) % 64 then (x.1, { x.2 with state := .running }) else x
      | _ => x }) ∧
  (∀ (s : State) t off data, s.memOk → s.dark = false → t < 8 → off + data.length ≤ 2 ^ 31 → s.terraceHeld t = false →
    ∃ s', exec (.weightStoreWrite t off data) s = .next s' ∧
      (∀ i, i < data.length → Memory.read s'.mem (2 ^ 57 + t * 2 ^ 31 + off + i) = (data[i]?).getD 0) ∧
      (∀ a, (a < 2 ^ 57 + t * 2 ^ 31 + off ∨ 2 ^ 57 + t * 2 ^ 31 + off + data.length ≤ a) →
        Memory.read s'.mem a = Memory.read s.mem a)) ∧
  (∀ (s : State) k slot c p a, s.ctxAt k slot = some c → c.b.instr slot = some (.idle p a) → c.o.status = .sent →
    exec (.idleTimeout k slot) s = .next (s.setStrand k { c.t with block := some { c.b with
      slots := c.b.slots.set slot { c.o with status := .waiting, l := some (.value 1) } } }))

/-- R232, R269, R318, R370: writes of system registers that have rows of their own. FRING moves a Terrace's ring, whose next record has
the number in the new index line, while numbers that it has yet to write name no record; FSTAT's OVF is cleared by a 1 unless strands
are still held; ROUTE and MDT are kept with their reserved
bits zero, and their tables are read; a COUNT above 256 leaves MDT as it is, and a write waits while a query of the old table is out
(log 47), and then until what it writes back to the old table has been performed; a read of the old table that is held is given up. The
ring's base is a physical address (log 26, DEDUCED). -/
def Sys2Proof.Parts.SystemRegisterWrites : Prop :=
  (∀ (s s1 : State) t v, s.dark = false → t < s.terraces.length →
    s1 = s.reachArea (bits v 56 12 * 4096 % 2 ^ 55) (64 + 64 * 2 ^ (bits v 3 0 + 6)) →
    s1.poisoned (s1.ringKey (bits v 56 12 * 4096)) 4 = false → exec (.mtsrFring t v) s = .next (s1.modTerrace t fun te =>
    { te with
      fring := v &&& 0x01FFFFFFFFFFF00F
      head := BitVec.ofNat 32 (s1.home (s1.ringKey (bits v 56 12 * 4096)) 4)
      answered := te.answered.filter fun (a : Nat × Bool × Word × Nat) =>
        (BitVec.ofNat 32 a.1 - BitVec.ofNat 32 (s1.home (s1.ringKey (bits v 56 12 * 4096)) 4)).msb })) ∧
  (∀ (s : State) t v, s.dark = false → (v.getLsbD 0 = true →
      exec (.mtsrFstat t v) s = .next (s.modTerrace t fun te => { te with ovf := decide (te.heldCount ≠ 0) })) ∧
    (v.getLsbD 0 = false → exec (.mtsrFstat t v) s = .next s)) ∧
  (∀ (s : State) task v, s.dark = false → exec (.mtsrRoute task v) s = .next
    ((s.modTask task fun t => { t with route := v &&& 0x01FFFFFFFFFFF800 }).readRoutes engineParty (s.homePav task) task)) ∧
  (∀ (s : State) task v, s.dark = false → (256 < bits v 8 0 → exec (.mtsrMdt task v) s = .next s) ∧
    (∀ s1, bits v 8 0 ≤ 256 → s.queriesOut task = false → s1 = State.retireStores { s with engines := s.engines.filter fun (x : Nat × Engine) =>
          x.2.kind != EngKind.table || x.2.task != task || x.2.done != 1 } task →
      ((∀ x ∈ s1.engines, ¬(x.2.kind = .table ∧ x.2.task = task ∧ x.2.done = 0)) → exec (.mtsrMdt task v) s = .next
        ((s1.modTask task fun t => { t with mdt := v &&& 0x01FFFFFFFFFFF1FF }).readTable task)) ∧
      ((∃ x ∈ s1.engines, x.2.kind = .table ∧ x.2.task = task ∧ x.2.done = 0) → exec (.mtsrMdt task v) s = .next s1)) ∧
    (s.queriesOut task = true → exec (.mtsrMdt task v) s = .next s))

/-- R6, R14, R43, R187, R269, R341, R394, R403, R404, R408, R409, R420, R426: writes of the registers that share a row, in a module that
operates: the field takes the value, a value outside its range is ignored as a whole, reserved bits stay zero; peers that a new CROUTE no
longer reaches are let go. -/
def Sys2Proof.Parts.RegisterWrites : Prop :=
  ∀ (s : State) v, s.dark = false →
    (∀ t, bits v 11 0 ≠ 0 → bits v 11 0 ≤ 2048 →
      exec (.registerWrite (.tagwin t) v) s = .next (s.modTask t fun x => { x with tagwin := bits v 11 0 })) ∧
    (∀ t, (bits v 11 0 = 0 ∨ 2048 < bits v 11 0) → exec (.registerWrite (.tagwin t) v) s = .next s) ∧
    (∀ t, bits v 7 0 ≠ 0 → exec (.registerWrite (.rclim t) v) s = .next (s.modTask t fun x => { x with rclim := bits v 7 0 })) ∧
    (∀ t, exec (.registerWrite (.seed t) v) s = .next (s.modTask t fun x => { x with seed := bits v 31 0 })) ∧
    (∀ t, bits v 8 0 ≤ 256 →
      exec (.registerWrite (.itb t) v) s = .next (s.modTask t fun x => { x with itb := v &&& 0x01FFFFFFFFFFE1FF })) ∧
    (bits v 19 0 ≠ 0 → exec (.registerWrite .ringhold v) s = .next { s with ringHold := bits v 19 0 } ∧
      exec (.registerWrite .esccfg v) s = .next { s with escTime := bits v 19 0 }) ∧
    (∀ q, q < 64 → (s.queue q).head = (s.queue q).tail → exec (.registerWrite (.lqcfg q) v) s = .next
      { s with queues := s.queues.put q { s.queue q with cfg := v &&& 0x007FFFFFFFFFFF1F } }) ∧
    (∀ q, (s.queue q).head ≠ (s.queue q).tail → exec (.registerWrite (.lqcfg q) v) s = .next s) ∧
    (s.anyHeld = false → exec (.registerWrite .colid v) s = .next { s with colid := BitVec.ofNat 13 v.toNat }) ∧
    (∀ c, c < 8192 → exec (.registerWrite (.croute c) v) s = .next
      (State.unreached { s with croute := s.croute.put c (v &&& 0x8000000000FFFFFF) })) ∧
    (∀ off, 4096 ≤ off → off + 8 ≤ 2 ^ 20 → exec (.registerWrite (.bar off) v) s = .next
      { s with boot := { s.boot with mbox := Memory.writeN s.boot.mbox off (toLe 8 v.toNat) } }) ∧
    (∀ off, 16 ≤ off → (off < 4096 ∨ 2 ^ 20 < off + 8) → exec (.registerWrite (.bar off) v) s = .next s) ∧
    exec (.registerWrite .guard v) s = .next s ∧
    (v.getLsbD 1 = false → exec (.registerWrite .heatctl v) s = .next { s with heatctl := v &&& 0x007FFFFFFFFFF001 }) ∧
    (1800 ≤ bits v 15 0 → bits v 15 0 ≤ 3600 → exec (.registerWrite .pwrlim v) s = .next
      { s with boot := { s.boot with pwrlim := BitVec.ofNat 64 (bits v 15 0) } }) ∧
    (∀ t, bits v 63 32 = 0 → bits v 31 0 ≠ 0 → exec (.registerWrite (.eccstat t) v) s =
      .next (s.modTerrace t fun te => { te with uncorr := 0 })) ∧
    (∀ i, i < 8 → (s.mig i).busy = false → exec (.registerWrite (.migdst i) v) s = .next
      { s with migs := s.migs.put i { s.mig i with dst := v &&& 0x007FFFFFFFE00000 } }) ∧
    (∀ i, exec (.registerWrite (.meas i) v) s = .next s)

/-- R328: a snapshot writes the 1,024 heat entries, 16 bytes each, to the address in HEATCTL, and clears the counts. -/
def Sys2Proof.Parts.HeatSnapshotCompletes : Prop :=
  ∀ (s : State) d, s.dark = false → d = (List.range 1024).flatMap (fun i => heatEntry s.heat[i]?) →
    exec .heatSnapshot s = .next { s.unitWrite (s.chip * 2 ^ 42 + bits s.heatctl 41 12 * 4096) d with
      heat := s.heat.map fun (h : Heat) => { h with elems := 0, stall := 0 } }

/-- R6, R269, R273, R303, R305, R314, R318, R328, R370: what the Lodge writes, and what its time
brings. The base of a fault ring is a physical address (log 26, DEDUCED), and a write of MDT waits
while a query of the old table is out (log 47). -/
def Obligations.LodgeCompletes : Prop :=
  Parts.LodgeAnswers ∧ Parts.RefreshAndWeightsComplete ∧ Parts.SystemRegisterWrites ∧ Parts.RegisterWrites ∧ Parts.HeatSnapshotCompletes

/-! ### Page moves (R326, R329 to R340) -/

/-- R329, R340: GO on an idle slot takes the source. A move of a page that is not here, that a frame range names, or to this chip or no member
of the domain, is refused with reason 1; one of a page that is being moved, that is a stub or that a move still fills, with 2; one
to a destination to which no link leads, with 4 (LINK: at GO too, log 100); a page with two moves behind it, and a move that finds no stub free, wait; otherwise the destination is asked: it refuses with 3, or the page's first
copy is sent and its writes are watched. -/
def Sys2Proof.Parts.MovesStart : Prop :=
  ∀ (s : State) i v accepts m moving, s.dark = false → i < 8 → (s.mig i).busy = false → m = { s.mig i with src := v &&& 0x007FFFFFFFE00000 } →
    moving = ((s.stub m.srcFrame).any (·.live) || (s.incoming.any fun x => x.dst == m.srcFrame) ||
      s.migs.any fun x => x.1 != i && x.2.busy && x.2.srcFrame == m.srcFrame) →
    (v.getLsbD 63 = false → exec (.migGo i v accepts) s = .next (s.setMig i m)) ∧
    (v.getLsbD 63 = true → (s.frameHere m.srcFrame = false ∨ s.inFrameRange m.srcFrame = true ∨ frameChip m.dstFrame = s.chip ∨
        s.inDomain (frameChip m.dstFrame) = false) →
      exec (.migGo i v accepts) s = .next (s.setMig i { m with state := .refused, reason := 1 })) ∧
    (v.getLsbD 63 = true → s.frameHere m.srcFrame = true → s.inFrameRange m.srcFrame = false →
      frameChip m.dstFrame ≠ s.chip → s.inDomain (frameChip m.dstFrame) = true →
      (moving = true → exec (.migGo i v accepts) s = .next (s.setMig i { m with state := .refused, reason := 2 })) ∧
      (moving = false → s.reached (frameChip m.dstFrame) = false →
        exec (.migGo i v accepts) s = .next (s.setMig i { m with state := .refused, reason := 4 })) ∧
      (moving = false → s.reached (frameChip m.dstFrame) = true → (s.ownedOf m.srcFrame).behind = 2 →
        exec (.migGo i v accepts) s = .next (s.setMig i { m with state := .waitChain })) ∧
      (moving = false → s.reached (frameChip m.dstFrame) = true → (s.ownedOf m.srcFrame).behind ≠ 2 → 4096 ≤ s.stubs.length →
        exec (.migGo i v accepts) s = .next (s.setMig i { m with state := .waitStub })) ∧
      (moving = false → s.reached (frameChip m.dstFrame) = true → (s.ownedOf m.srcFrame).behind ≠ 2 → s.stubs.length < 4096 →
        ∀ s1, s1 = s.send (.moveOpen (frameChip m.dstFrame) m.dstFrame m.srcFrame i) →
        (accepts = false → exec (.migGo i v accepts) s = .next (s1.setMig i { m with state := .refused, reason := 3 })) ∧
        (accepts = true → ∀ m1, m1 = { m with state := .precopy, reason := 0, pass := 0, last := 512, dirty := [], heldAcc := [] } →
          exec (.migGo i v accepts) s = .next ((List.range 512).foldl (fun y t => y.sendTile m1 t)
            (State.setMig { s1 with stubs := s.stubs ++ [{ old := m.srcFrame, fwd := m.dstFrame }] } i m1)))))

/-- R329, R330: the source of a move, pass by pass. A slot that waited starts its move; a pass
that ends copies again what was written meanwhile, if that is less than the pass before and fewer
than four passes have run, and otherwise new accesses are held; once the frame is no longer busy,
what is dirty is sent and COMMIT after it, with HOLDERS and BEHIND; its acknowledgement makes the
stub live, relays what was held, and the slot is DONE. That the first pass counts 512 tiles is
DEDUCED (log 54). -/
def Sys2Proof.Parts.MovesGoOn : Prop :=
  (∀ (s : State) i accepts, s.dark = false → ((s.mig i).state = .waitChain ∨ (s.mig i).state = .waitStub) →
    exec (.migSlotWake i accepts) s = .next (s.startMove i (s.mig i) accepts)) ∧
  (∀ (s : State) i m, s.dark = false → m = s.mig i → m.state = .precopy →
    (m.dirty.length < m.last → m.pass < 3 → exec (.precopyPassEnd i) s = .next (m.dirty.foldl (fun y t => y.sendTile m t)
      (s.setMig i { m with pass := m.pass + 1, last := m.dirty.length, dirty := [] }))) ∧
    ((m.last ≤ m.dirty.length ∨ 3 ≤ m.pass) → exec (.precopyPassEnd i) s = .next
      (s.setMig i { m with pass := m.pass + 1, state := .final }))) ∧
  (∀ (s : State) i m s1, s.dark = false → m = s.mig i → m.state = .final → s.frameBusy m.srcFrame = false →
    s1 = m.dirty.foldl (fun y t => y.sendTile m t) s →
    exec (.finalDrained i) s = .next ((s1.setMig i { m with dirty := [], state := .commit }).send
      (.commit (frameChip m.dstFrame) m.dstFrame (s1.ownedOf m.srcFrame).holders (s1.ownedOf m.srcFrame).behind
        (s1.ownedOf m.srcFrame).oldest))) ∧
  (∀ (s : State) i m o s1, s.dark = false → m = s.mig i → m.state = .commit → o = s.ownedOf m.srcFrame →
    s1 = (s.setMig i { m with state := .done, heldAcc := [] }).setStub
      { old := m.srcFrame, fwd := m.dstFrame, live := true, holders := o.holders } →
    exec (.commitAck i) s = .next ((List.range 72).foldl
      (fun y g => if o.holders.getLsbD g then y.sendRetire g m.srcFrame m.dstFrame else y)
      (m.heldAcc.foldl (fun y a => y.relayFrom m.srcFrame a)
        (State.rekeyLines { s1 with owned := s1.owned.filter fun x => x.frame != m.srcFrame } m.srcFrame m.dstFrame))))

/-- R330, R331, R333: the destination of a move. MOVE_OPEN is accepted for a free frame that is here; a tile is stored with its poison
and counted; COMMIT makes this chip the owner, with the source's holders and its own, and the relays that waited for it go on. -/
def Sys2Proof.Parts.MovesArrive : Prop :=
  (∀ (s : State) src dst chip slot, s.dark = false → s.frameHere dst = true → s.stub dst = none → (∀ x ∈ s.incoming, x.dst ≠ dst) →
    exec (.moveOpen src dst chip slot) s = .next (State.send { s with incoming := s.incoming ++
      [{ dst := dst, src := src, chip := chip, slot := slot }] } (.opened chip slot true))) ∧
  (∀ (s : State) src dst chip slot, s.dark = false → s.frameHere dst = false →
    exec (.moveOpen src dst chip slot) s = .next (s.send (.opened chip slot false))) ∧
  (∀ (s : State) dst idx data poison s1, s.dark = false → idx < 512 → data.length = 4096 → (∃ x ∈ s.incoming, x.dst = dst) →
    s1 = s.writeHome (dst * 2 ^ 21 + 4096 * idx) data →
    exec (.tile dst idx data poison) s = .next { s1 with
      poison := s1.poison ++ tilePoison (dst * 2 ^ 21 + 4096 * idx) poison
      incoming := s1.incoming.map fun (x : Incoming) =>
        (if x.dst == dst then { x with tiles := x.tiles.filter (· != idx) ++ [idx] } else x) }) ∧
  (∀ (s : State) dst holders behind oldest x s1, s.dark = false → s.incoming.find? (fun x => x.dst == dst) = some x →
    s1 = State.setOwned { s with incoming := s.incoming.filter (fun y => y.dst != dst), moved := s.moved.put x.src dst }
      { frame := dst, holders := holders ||| BitVec.twoPow 72 (s.chip / 64), behind := behind + 1,
        oldest := if behind = 0 then x.chip else oldest, newest := x.chip } →
    exec (.commit dst holders behind oldest) s = .next
      (x.relays.foldl State.relayed ((s1.rekeyLines x.src dst).send (.commitAck x.chip dst))))

/-- R331, R336: a relayed access, be it a read, a write, an atomic or a reduction, goes on from a stub, whose holder bit of the requester's
group it sets (RETIRE to a group that is marked for the first time is DEDUCED, log 78), waits for a COMMIT that is to come, and is performed
by the owner, whose answer and REDIR go to the requester. -/
def Sys2Proof.Parts.RelaysGoOn : Prop :=
  ∀ (s : State) m f, s.dark = false → f = frameOf m.pa →
    ((∃ x ∈ s.incoming, x.dst = f) → exec (.relay m) s = .next { s with incoming := s.incoming.map fun (x : Incoming) =>
      (if x.dst == f then { x with relays := x.relays ++ [m] } else x) }) ∧
    (∀ x x1, (∀ y ∈ s.incoming, y.dst ≠ f) → s.stub f = some x → x.live = true →
      x1 = { x with holders := x.holders ||| BitVec.twoPow 72 (m.chip / 64) } →
      (x.holders.getLsbD (m.chip / 64) = true → exec (.relay m) s = .next ((s.setStub x1).relayTo x.fwd m)) ∧
      (x.holders.getLsbD (m.chip / 64) = false → exec (.relay m) s = .next
        (((s.setStub x1).sendRetire (m.chip / 64) x.old x.fwd).relayTo x.fwd m))) ∧
    ((∀ y ∈ s.incoming, y.dst ≠ f) → s.stub f = none → s.frameHeld f = false → s.homeOk m.pa = true → frameChip f = s.chip →
      ∀ done : State → List Byte → State, done = (fun y d => if m.chip = s.chip then y else
        ((y.setOwned { s.ownedOf f with holders := (s.ownedOf f).holders ||| BitVec.twoPow 72 (m.chip / 64) }).send
          (.answer m.chip m.req d true)).send (.redir m.chip m.req f f)) →
      (∀ d, m.op = .write d → exec (.relay m) s = .next (done (s.writeHome m.pa d) [])) ∧
      (∀ n, m.op = .read n → s.poisoned m.pa n = false → exec (.relay m) s = .next (done s (Memory.readN s.mem m.pa n))) ∧
      (∀ op w v e old, m.op = .atomic op w v e → s.poisoned m.pa (wBytes w) = false → old = s.home m.pa (wBytes w) →
        exec (.relay m) s = .next (done (if op = .cas ∧ old ≠ v.toNat % 2 ^ (8 * wBytes w) then s
          else s.writeHome m.pa (toLe (wBytes w) (atomicNew op (8 * wBytes w) old (v.toNat % 2 ^ (8 * wBytes w))
            (e.toNat % 2 ^ (8 * wBytes w))))) (toLe (wBytes w) old))) ∧
      (∀ op w v, m.op = .reduce op w v → s.poisoned m.pa (wBytes w) = false →
        exec (.relay m) s = .next (done (s.writeHome m.pa (toLe (wBytes w)
          (reduceNew op (8 * wBytes w) (s.home m.pa (wBytes w)) (v.toNat % 2 ^ (8 * wBytes w))))) [])))

/-- R332: a completion with REDIR names the owner of a page, where later accesses go once those that are on their way have completed. -/
def Sys2Proof.Parts.RedirectionCompletes : Prop :=
  ∀ (s : State) named owner s1, s.dark = false →
    s1 = (if s.ownerFrame named = owner then s else s.pageMoved (s.ownerFrame named) owner).putOwner named owner →
    exec (.redirCompletion named owner) s = .next (if s1.inEgress owner then { s1 with redirs := s1.redirs ++ [owner] } else s1)

/-- R331, R336: RETIRE waits while a line that used the old frame is on its way, also one whose page has moved on since, while accesses
wait for the new one, and while an entry to be rewritten stands on a page that a move holds; then every leaf and tile entry of a live task that names it
names the new one, the cached translations and window copies that came from it are dropped, what was known to lead to the old frame leads
on to the new one (where a live stub here leads to the old frame, that frame stays known until the stub is gone), and this chip
acknowledges. -/
def Sys2Proof.Parts.RetireCompletes : Prop :=
  ∀ (s : State) old fwd chip, s.dark = false →
    (s.frameBusy old = true ∨ (∃ l ∈ s.lines, old ∈ l.named) ∨ s.redirHeld fwd = true ∨ (∃ a ∈ s.mapEntries, s.areaHeld a 8 = true) →
      exec (.retire old fwd chip) s = .next s) ∧
    (∀ s1 s2 s3 s4, s.frameBusy old = false → (∀ l ∈ s.lines, old ∉ l.named) → s.redirHeld fwd = false →
      (∀ a ∈ s.mapEntries, s.areaHeld a 8 = false) →
      s1 = (if s.hop old ≠ old ∨ frameChip old = s.chip then s else s.pageMoved old fwd) →
      s2 = { s1 with windows := s1.windows.filter fun w => !s1.windowIn w old } →
      s3 = s2.mapEntries.foldl (fun y a => if y.phys a 8 / 2 ^ 21 % 2 ^ 34 = old
        then y.unitWrite a (toLe 8 (y.phys a 8 - old * 2 ^ 21 + fwd % 2 ^ 34 * 2 ^ 21)) else y) s2 →
      ((∃ x ∈ s3.stubs, x.live = true ∧ x.fwd = old) → s4 = { s3 with
        retired := s3.retired.filter (· != old) ++ [old], moved := s3.moved.map fun (x : Nat × Nat) => if x.2 = old then (x.1, fwd) else x }) →
      ((∀ x ∈ s3.stubs, ¬(x.live = true ∧ x.fwd = old)) → s4 = { s3 with
        moved := (s3.moved.filter fun (x : Nat × Nat) => x.1 != old).map fun (x : Nat × Nat) => if x.2 = old then (x.1, fwd) else x }) →
      exec (.retire old fwd chip) s = .next (State.send { s4 with
        tlb := s4.tlb.filter fun e => bits e.leaf 54 21 != old
        tiles := s4.tiles.filter fun e => bits e.entry 54 21 != old
        ownerCache := s4.ownerCache.filter fun (x : Nat × Nat) => x.1 != old && x.2 != old } (.retireAck chip old s4.chip)))

/-- R326, R334, R336, R337: an entry that the owner cache drops; RETIRE's acknowledgement, with the last of which the stub goes free; HOLD
on its way over a stub to the owner, and behind a COMMIT that is on its way; and STUB_GONE, which follows the page to its owner. -/
def Sys2Proof.Parts.StubsGoFree : Prop :=
  (∀ (s : State) i, s.dark = false → exec (.ownerCacheDrop i) s = .next { s with ownerCache := s.ownerCache.eraseIdx i }) ∧
  (∀ (s : State) old chip x y, s.dark = false → s.stub old = some x → x.live = true → y = { x with acks := x.acks.filter (· != chip) ++ [chip] } →
    (s.allAcked y = true → exec (.retireAck old chip) s = .next
      (State.send { s with
        stubs := s.stubs.filter fun z => z.old != old
        moved := if s.retired.contains x.fwd then s.moved.filter fun y => y.1 != x.fwd else s.moved
        retired := s.retired.filter (· != x.fwd) } (.stubGone (frameChip x.fwd) x.fwd))) ∧
    (s.allAcked y = false → exec (.retireAck old chip) s = .next (s.setStub y))) ∧
  (∀ (s : State) frame chip, s.dark = false → frameChip frame ≠ s.chip →
    exec (.hold frame chip) s = .next (s.send (.holdAt (frameChip frame) frame chip))) ∧
  (∀ (s : State) frame chip s1, s.dark = false → frameChip frame = s.chip → (∀ x, s.stub frame = some x → x.live = false) →
    s1 = s.setOwned { s.ownedOf frame with holders := (s.ownedOf frame).holders ||| BitVec.twoPow 72 (chip / 64) } →
    ((∀ m ∈ s.migs, ¬(m.2.state = .commit ∧ m.2.srcFrame = frame)) →
      exec (.hold frame chip) s = .next (s1.send (.redir chip 0 frame frame))) ∧
    (∀ m, s.migs.find? (fun m => m.2.state == .commit && m.2.srcFrame == frame) = some m →
      exec (.hold frame chip) s = .next (s1.send (.holdAt (frameChip m.2.dstFrame) m.2.dstFrame chip)))) ∧
  (∀ (s : State) frame chip x, s.dark = false → frameChip frame = s.chip → s.stub frame = some x → x.live = true →
    exec (.hold frame chip) s = .next ((s.markStub x chip true).send (.holdAt (frameChip x.fwd) x.fwd chip))) ∧
  (∀ (s : State) frame x, s.dark = false → s.stub frame = some x → x.live = true →
    exec (.stubGone frame) s = .next (State.send { s with moved := s.moved.filter fun y => y.2 != frame }
      (.stubGone (frameChip x.fwd) x.fwd))) ∧
  (∀ (s : State) frame m, s.dark = false → s.stub frame = none → s.migs.find? (fun m => m.2.state == .commit && m.2.srcFrame == frame) = some m →
    exec (.stubGone frame) s = .next (State.send { s with moved := s.moved.filter fun y => y.2 != frame }
      (.stubGone (frameChip m.2.dstFrame) m.2.dstFrame))) ∧
  (∀ (s : State) frame o, s.dark = false → s.stub frame = none → (∀ m ∈ s.migs, ¬(m.2.state = .commit ∧ m.2.srcFrame = frame)) →
    (∃ x ∈ s.owned, x.frame = frame) → o = s.ownedOf frame →
    exec (.stubGone frame) s = .next { s.setOwned { o with behind := o.behind - 1, oldest := o.newest } with
      moved := s.moved.filter fun x => !(frameChip x.1 == o.oldest && x.2 == o.frame) })

/-- R326, R331, R332, R334, R336, R337: what goes on between owners, stubs and holders. -/
def Sys2Proof.Parts.StubsComplete : Prop :=
  Parts.RelaysGoOn ∧ Parts.RedirectionCompletes ∧ Parts.RetireCompletes ∧ Parts.StubsGoFree

/-- R326, R329 to R337: the events of a page move. What the first pass counts (log 54) and RETIRE
to a group that is marked later (log 78) is DEDUCED. -/
def Obligations.MovesComplete : Prop :=
  Parts.MovesStart ∧ Parts.MovesGoOn ∧ Parts.MovesArrive ∧ Parts.StubsComplete

/-! ### The mesh, the Colonnade, errors and boot (R395 to R426) -/

/-- R394 to R396, R398 to R401, R404: the router that diverts a flow marks it, tells its source and counts it; later packets then go onto
the escape network, with no more than 256 in flight, and while packets of the flow stand ahead of the stall point another router may divert
some of those in turn (which of the two, which router, and how many packets, is free, log 55); a packet takes an escape place of its
destination while fewer than 64 are taken, the lowest-numbered diverted one first (log 55); class 0 is never diverted. The destination hands the flow's packets on in sequence order, the normal network's first, and with
the last one the marks are cleared. A flit sent again counts; a corrupt header fences; a port that fails is down, training that is asked
for brings it up again with its peer (that RETRAIN leaves UP as it is meanwhile is DEDUCED, log 55). -/
def Sys2Proof.Parts.LinksComplete : Prop :=
  (∀ (s : State) i f router, s.dark = false → i % 4 ≠ 0 → i / 2 ^ 14 < 4096 → f = s.flow i → router = Config.freeChoice s.ticks % 4096 →
    (∀ flying n, f.diverted = false → flying = 1 + Config.freeChoice (s.ticks + 1) % 256 →
      n = 1 + Config.freeChoice (s.ticks + 2) % flying →
      exec (.escapeDivert i) s = .next ((State.addPerf { s with ticks := s.ticks + 3, flows := s.flows.put i { f with
        diverted := true, routers := f.routers ++ [router], normal := flying - n, queued := f.queued + n } } router 8 1).reserveAll i)) ∧
    (∀ n, f.diverted = true → 0 < f.normal → Config.freeChoice (s.ticks + 1) % 2 = 1 → router ∉ f.routers →
      n = 1 + Config.freeChoice (s.ticks + 2) % f.normal → exec (.escapeDivert i) s = .next ((State.addPerf { s with ticks := s.ticks + 3, flows := s.flows.put i { f with
        diverted := true, routers := f.routers ++ [router], normal := f.normal - n, queued := f.queued + n } } router 8 1).reserveAll i)) ∧
    (f.diverted = true → 0 < f.normal → Config.freeChoice (s.ticks + 1) % 2 = 1 → router ∈ f.routers →
      exec (.escapeDivert i) s = .next { s with ticks := s.ticks + 3 }) ∧
    (∀ ticks, f.diverted = true → (f.normal = 0 → ticks = s.ticks) →
      (0 < f.normal → Config.freeChoice (s.ticks + 1) % 2 = 0 ∧ ticks = s.ticks + 3) →
      (f.normal + f.queued + f.escaped < 256 → exec (.escapeDivert i) s = .next
        (State.reserveAll { s with ticks := ticks, flows := s.flows.put i { f with queued := f.queued + 1 } } i)) ∧
      (256 ≤ f.normal + f.queued + f.escaped → exec (.escapeDivert i) s = .next { s with ticks := ticks }))) ∧
  (∀ (s : State) i, s.dark = false → i % 4 = 0 → exec (.escapeDivert i) s = .next s) ∧
  (∀ (s : State) i f n, f = s.flow i → n = min f.queued (64 - s.escapePlaces (i / 4 % 4096)) → n ≠ 0 → s.reservePlaces i =
    { s with flows := s.flows.put i { f with queued := f.queued - n, escaped := f.escaped + n } }) ∧
  (∀ (s : State) i f, s.dark = false → f = s.flow i →
    (∀ n, f.normal = n + 1 → exec (.escapeHandoff i) s = .next
      { s with flows := s.flows.put i { f with normal := n, next := f.next + 1 } }) ∧
    (f.normal = 0 → f.escaped = 1 → f.queued = 0 → exec (.escapeHandoff i) s = .next
      ((State.reserveAll { s with flows := s.flows.put i { next := f.next + 1 } } i).addPerf (i / 4 % 4096) 9 1)) ∧
    (∀ n, f.normal = 0 → f.escaped = n + 1 → (n ≠ 0 ∨ f.queued ≠ 0) → exec (.escapeHandoff i) s = .next
      ((State.reserveAll { s with flows := s.flows.put i { f with escaped := n, next := f.next + 1 } } i).addPerf
        (i / 4 % 4096) 9 1))) ∧
  (∀ (s : State) p, s.dark = false → p < 24 → exec (.flitCrcReplay (.port p)) s = .next { s with cports := s.cports.put p { s.port p with
    replays := if (s.port p).replays.toNat = 2 ^ 32 - 1 then (s.port p).replays else (s.port p).replays + 1 } }) ∧
  (∀ (s : State) t, s.dark = false → exec (.flitCrcReplay (.mesh t)) s = .next { s with meshReplays := s.meshReplays + 1 }) ∧
  (∀ (s : State) t, s.dark = false → (s.terrace t).state = 2 → s.terraceHeld t = false →
    exec (.corruptHeaderFence (.mesh t)) s = .next (s.modTerrace t fun te => { te with state := 3 })) ∧
  (∀ (s : State) p s1, s.dark = false → p < 24 → s1 = { s with cports := s.cports.put p { s.port p with up := false, training := false } } →
    exec (.portFail p) s = .next (((List.range 8).foldl State.migLinkFail s1).collUnreached)) ∧
  (∀ (s : State) p, s.dark = false → p < 24 → exec (.retrain p) s = .next { s with cports := s.cports.put p { s.port p with training := true } }) ∧
  (∀ (s : State) p peer, s.dark = false → p < 24 → (s.port p).training = true → exec (.portTrained p peer) s = .next
    { s with cports := s.cports.put p { s.port p with up := true, fenced := false, peer := peer, training := false } })

/-- R40, R46, R400, R423 to R426: an uncorrectable payload bound for a strand that can still
discard its region, and a soft error detected there, discard it with a DISCARD record; one that
comes after the boundary instruction poisons the tokens of its slot, and one that finds the
publish begun is owed by the next region; an uncorrectable word is poisoned, in memory, a bank, an
accumulator or a register, and counted. Which Terrace counts an error in memory is the model's
choice (log 33). -/
def Sys2Proof.Parts.ErrorsComplete : Prop :=
  (∀ (s : State) k t, s.dark = false → s.strand k = some t → t.canDiscard = true →
    exec (.payloadUncorrectable (.strandRead k)) s = .next (s.softDiscard k) ∧
    ∀ j, exec (.softErrorDetected ⟨k, j⟩) s =
      .next ((s.modTerrace (t.pav / 512) fun te => { te with uncorr := satInc te.uncorr }).softDiscard k)) ∧
  (∀ (s : State) k j t b o, s.dark = false → s.strand k = some t → t.phase = .run → t.block = some b → b.performed = true → b.slots[j]? = some o →
    (o.status = .idle ∨ o.status = .waiting) → exec (.softErrorDetected ⟨k, j⟩) s =
      .next ((s.modTerrace (t.pav / 512) fun te => { te with uncorr := satInc te.uncorr }).setStrand k
        { t with block := some { b with slots := b.slots.set j { o with bad := true } } })) ∧
  (∀ (s : State) k t, s.dark = false → s.strand k = some t → t.pub.isSome = true → (∀ b, t.block = some b → b.performed = false) →
    exec (.payloadUncorrectable (.strandRead k)) s = .next (s.setStrand k { t with owed := some true })) ∧
  (∀ (s : State) pa, s.dark = false → exec (.patrolScrub pa false) s = .next
    (s.modTerrace (keyTerrace pa) fun te => { te with corr := satInc te.corr })) ∧
  (∀ (s : State) pa, s.dark = false → pa / 8 ∉ s.poison → (pa < 2 ^ 57 ∨ pa < 2 ^ 58 ∧ s.inRefresh pa = true → exec (.patrolScrub pa true) s = .next
      { s.modTerrace (keyTerrace pa) (fun te => { te with uncorr := satInc te.uncorr }) with poison := s.poison ++ [pa / 8] }) ∧
    exec (.uncorrectablePoison (.mem pa)) s = .next
      { s.modTerrace (keyTerrace pa) (fun te => { te with uncorr := satInc te.uncorr }) with poison := s.poison ++ [pa / 8] }) ∧
  (∀ (s : State) k n t, s.dark = false → s.strand k = some t → exec (.uncorrectablePoison (.reg k n)) s = .next
    ((s.modTerrace (t.pav / 512) fun te => { te with uncorr := satInc te.uncorr }).setStrand k
      { t with poison := t.poison ||| BitVec.twoPow 128 n })) ∧
  (∀ (s : State) id, s.dark = false → id ∉ s.accPoison → exec (.uncorrectablePoison (.acc id)) s = .next
    { s.modTerrace (id / 64 / 512) (fun te => { te with uncorr := satInc te.uncorr }) with accPoison := s.accPoison ++ [id] })

/-- R410: in SAFE and without supply only the guard and the management link operate: what comes from peers, from the Lodge, from the
mesh and from the units of a move changes nothing. -/
def Sys2Proof.Parts.DarkStandsStill : Prop :=
  ∀ (s : State) (i : Instr), s.dark = true →
    ((∃ a b c d, i = .moveOpen a b c d) ∨ (∃ a b c d, i = .tile a b c d) ∨ (∃ a b c d, i = .commit a b c d) ∨ (∃ a, i = .commitAck a) ∨
      (∃ m, i = .relay m) ∨ (∃ a b, i = .redirCompletion a b) ∨ (∃ a b c, i = .retire a b c) ∨ (∃ a b, i = .retireAck a b) ∨
      (∃ a b, i = .hold a b) ∨ (∃ a, i = .stubGone a) ∨ (∃ a, i = .ownerCacheDrop a) ∨ (∃ a v b, i = .migGo a v b) ∨
      (∃ a b, i = .migSlotWake a b) ∨ (∃ a, i = .precopyPassEnd a) ∨ (∃ a, i = .finalDrained a) ∨ (∃ a, i = .escapeDivert a) ∨
      (∃ a, i = .escapeHandoff a) ∨ (∃ l, i = .flitCrcReplay l) ∨ (∃ p, i = .portFail p) ∨ (∃ p, i = .retrain p) ∨
      (∃ p c, i = .portTrained p c) ∨ (∃ l, i = .corruptHeaderFence l) ∨ (∃ c, i = .payloadUncorrectable c) ∨
      (∃ m, i = .barrierArrival m) ∨ (∃ m, i = .ringRecordArrive m) ∨ (∃ a b c, i = .ringHoldExpire a b c) ∨
      (∃ m, i = .collContributionArrive m) ∨ (∃ a b c, i = .collResultArrive a b c) ∨ (∃ m, i = .sendArriveHome m) ∨
      (∃ a, i = .heldSendDeliver a) ∨ (∃ q st, i = .storeQueryGrant q st) ∨ (∃ q st, i = .storeDecisions q st) ∨
      (∃ m, i = .storeKputInsert m) ∨ (∃ m, i = .storeKdel m) ∨ (∃ m, i = .mdomAttach m) ∨ (∃ m, i = .mdomDetach m) ∨
      (∃ m, i = .mdomServe m) ∨ (∃ m, i = .mdomRebuild m) ∨ (∃ m, i = .mdomClear m) ∨ (∃ t v, i = .mtsrFring t v) ∨
      (∃ t v, i = .mtsrFstat t v) ∨ (∃ t v, i = .mtsrMdt t v) ∨ (∃ t v, i = .mtsrRoute t v) ∨ (∃ q v, i = .lqDoorbell q v) ∨
      (∃ t n, i = .xreplyMapped t n) ∨ (∃ t n, i = .xreplyInvalid t n) ∨ (∃ t a d, i = .weightStoreWrite t a d) ∨ i = .heatSnapshot ∨
      (∃ v, i = .hdb v) ∨ (∃ v, i = .lodgeDoorbell v) ∨ (∃ a b c d, i = .rootPortRequest a b c d) ∨ (∃ a b, i = .patrolScrub a b) ∨
      (∃ e, i = .softErrorDetected e) ∨ (∃ p, i = .uncorrectablePoison p) ∨ (∃ t, i = .admitTerrace t) ∨
      (∃ t b h, i = .terraceTestDone t b h)) →
    exec i s = .next s

/-- R410 to R413: the stages of bring-up. Power good measures and starts a stage-1 image that the ROM accepts, and otherwise stands in
SAFE, where an image can arrive; trained memories start the runtime and the test of Terrace 0; a Terrace that passes is admitted and the
next is tested, the last one's end starts RUN; a fenced or failed Terrace that no task holds can be tested again; without supply nothing
but flash and fuses is left. -/
def Sys2Proof.Parts.BringUpCompletes : Prop :=
  (∀ s : State, s.boot.stage = .off → (s.boot.flash = [] ∨ Config.romAccepts s.boot.flash = false) → ∀ s1, s1 = s.resetTo .stage0 →
    exec .powerGood s = .next { s1 with boot := { s1.boot with stage := .safe } }) ∧
  (∀ s : State, s.boot.stage = .off → s.boot.flash ≠ [] → Config.romAccepts s.boot.flash = true → s.boot.fuses < 4096 →
    ∀ s1, s1 = (s.resetTo .stage0).extendMeas 0 (toBe 32 (sha256 s.boot.flash).toNat) →
    exec .powerGood s = .next { s1 with boot := { s1.boot with
      stage := .stage1, fuses := s.boot.fuses + 1,
      block := some (s.boot.fuses + 1), quoteUsed := 0 } }) ∧
  (∀ (s : State) image, s.boot.stage = .safe → exec (.safeImageArrive image) s = .next { State.reset with
    boot := { State.reset.boot with stage := .stage0, flash := image, fuses := s.boot.fuses } }) ∧
  (∀ (s : State) a b, s.boot.stage = .stage1 → a < 64 → exec (.memoryTrainingDone a b) s = .next
    (State.modTerrace { s with boot := { s.boot with stage := .stage2, gddr := 64 - a, lpddr := 16 - b } } 0 fun te =>
      { te with state := 1 })) ∧
  (∀ (s : State) t harvest, s.dark = false → (s.terrace t).state = 1 → s.boot.stage = .run → s.tasks = [] →
    exec (.terraceTestDone t true harvest) s = .next
      { (s.tested t 2 harvest).modTerrace t (fun te => { te with seg := 0 }) with boot := { s.boot with served := true } }) ∧
  (∀ (s : State) t harvest, s.dark = false → (s.terrace t).state = 1 → s.boot.stage = .stage2 → t < 7 →
    ((s.terrace (t + 1)).state = 0 → exec (.terraceTestDone t false harvest) s = .next
      ((s.tested t 4 harvest).modTerrace (t + 1) fun te => { te with state := 1 })) ∧
    ((s.terrace (t + 1)).state ≠ 0 → exec (.terraceTestDone t false harvest) s = .next (s.tested t 4 harvest))) ∧
  (∀ (s : State) t, s.dark = false → ((s.terrace t).state = 3 ∨ (s.terrace t).state = 4) → s.terraceHeld t = false →
    exec (.admitTerrace t) s = .next (s.modTerrace t fun te => { te with state := 1 })) ∧
  (∀ (s : State) i, (i = .powerLost ∨ i = .coolantFlowLost) → exec i s = .next { State.reset with
    boot := { State.reset.boot with stage := .off, flash := s.boot.flash, fuses := s.boot.fuses } })

/-- R409, R414, R418, R420, R421: measurement, quotes, the guard's tick, the two doorbells, and the requests of a root port in a module that
operates: one that the I/O translation refuses is logged, a write reaches memory, a read is completed with what stands there. TJMAX is the
highest since GUARD was last read; whether it has been read since the last tick is free (log 13). -/
def Sys2Proof.Parts.ModuleServicesComplete : Prop :=
  (∀ (s : State) i d, s.dark = false → i < 4 → exec (.measExtend i d) s = .next { s with boot := { s.boot with
    meas := s.boot.meas.set i (sha256 (toBe 32 ((s.boot.meas[i]?).getD 0).toNat ++ d)) } }) ∧
  (∀ (s : State) n, exec (.quoteRequest n) s = .next { s with boot := { s.boot with quotes := s.boot.quotes ++ [n] } }) ∧
  (∀ (s : State) n rest q body, s.dark = false → s.boot.quotes = n :: rest → n.length = 32 → s.boot.nextIndex = some q →
    body = n ++ s.boot.meas.flatMap (fun m => toBe 32 m.toNat) ++ toLe 2 s.chip ++ toLe 6 q →
    exec .quoteServe s = .next { s with boot := { s.boot with
      quotes := rest, quoteUsed := s.boot.quoteUsed + 1,
      quote := body ++ (Config.hssSign q body).take 3604 ++ List.replicate (3604 - (Config.hssSign q body).length) 0 ++ toLe 4 0 } }) ∧
  (∀ (s : State) tj power max, s.boot.stage ≠ .off → tj < 115 →
    max = (if Config.freeChoice s.ticks % 2 = 1 then 0 else s.boot.tjMax) →
    exec (.guardTick tj power) s = .next { s with ticks := s.ticks + 1, boot := { s.boot with
      guardState := s.boot.guardNext tj power, power := BitVec.ofNat 16 power,
      tjMax := if max.toNat < tj then BitVec.ofNat 8 tj else max } }) ∧
  (∀ (s : State) v, s.dark = false →
    exec (.hdb v) s = .next { s with boot := { s.boot with hdb := v, lodgeIrq := s.boot.lodgeIrq + 1 } } ∧
    exec (.lodgeDoorbell v) s = .next { s with boot := { s.boot with ldb := v, msix := s.boot.msix + 1 } }) ∧
  (∀ (s : State) port pa wr data, s.dark = false →
    (Config.ioTranslates port pa = false →
      exec (.rootPortRequest port pa wr data) s = .next { s with boot := { s.boot with aer := s.boot.aer ++ [(port, pa)] } }) ∧
    (Config.ioTranslates port pa = true → data ≠ [] → pa / 2 ^ 21 = (pa + data.length - 1) / 2 ^ 21 → s.keyOk pa = true →
      s.frameHeld (frameOf (s.ownerKey pa)) = false →
      exec (.rootPortRequest port pa true data) s =
        .next ((s.reachHome (s.ownerKey pa) data.length).writeHome (s.ownerKey pa) data) ∧
      (s.poisoned (s.ownerKey pa) data.length = false → exec (.rootPortRequest port pa false data) s = .next { s with
        boot := { s.boot with rootData := s.boot.rootData ++
          [(port, some (s.viewN s.strands.length 65536 (s.ownerKey pa) data.length))] } }))) ∧
  (∀ (b : Boot) tj power, (100 ≤ tj ∨ bits b.pwrlim 15 0 < power) → b.guardState.toNat < 3 →
    b.guardNext tj power = b.guardState + 1)

/-- R395 to R426: the events of links, errors, bring-up and the module's services. What RETRAIN
leaves meanwhile (log 55) is DEDUCED, and which Terrace counts an error in memory (log 33) is the
model's choice. -/
def Obligations.ModuleCompletes : Prop :=
  Parts.LinksComplete ∧ Parts.ErrorsComplete ∧ Parts.DarkStandsStill ∧ Parts.BringUpCompletes ∧ Parts.ModuleServicesComplete

/-! ### Steps, encodings, reset and memory -/

/-- R15, R171, R354: while some slot of a window is ready, a step runs the instruction that the decoder reads from the word in such a
slot, at that slot; among the ready slots of its pavilion its region is the oldest one, a strand that yielded counting as younger than
any that did not (which pavilion comes first, and that a ready slot goes before every event, is the model's choice, log 15). -/
def Sys2Proof.Parts.StepRunsDecoded : Prop :=
  (∀ s : State, s.readyOffers ≠ [] → ∃ o ∈ s.readyOffers, ∃ t b w x, s.firing o.k = some (t, b) ∧ b.words[o.slot]? = some w ∧
      decode w = .ok o.instr ∧ b.slots[o.slot]? = some x ∧ (x.status = .idle ∨ x.status = .waiting) ∧
      (∀ o' ∈ s.readyOffers, o'.pav = o.pav → o'.older o = false) ∧
      step s = exec o.instr { s with cur := ⟨o.k, o.slot⟩, rot := s.rot + 1 }) ∧
  (∀ (s : State) w i, decode w = .ok i → step (s.withFetchWord 32 w.toNat) =
    exec i { s.withFetchWord 32 w.toNat with cur := ⟨0, 0⟩, rot := 1 })

/-- R410: a module without supply, in which nothing can happen, does not step; any other in which nothing can happen stays as it is but
for the model's own rotation (log 15). -/
def Sys2Proof.Parts.StepAtRest : Prop :=
  ∀ s : State, s.pick = none → (s.boot.stage = .off → step s = .fault .noPower) ∧
    (s.boot.stage ≠ .off → step s = .next { s with rot := s.rot + 1 })

/-- R15, R354, R410: a step runs the instruction that the decoder reads; a module with nothing to do stays. -/
def Obligations.StepsComplete : Prop :=
  Parts.StepRunsDecoded ∧ Parts.StepAtRest

/-- R117, R121 to R126: words written out field by field from the encoding tables, and what they
decode to: the five formats, a target of each kind, both predicates, and words that are
refused. -/
def Obligations.EncodingWords : Prop :=
  -- RD: OP 01, a zero, register 1, TB none, TA left 2; and READ g6 to left 3
  decode 0b000001_0_0000001_000000000_010000010#32 = .ok (.read 1 (.left 2) .none) ∧
  decode 0b000001_0_0000110_000000000_010000011#32 = .ok (.read 6 (.left 3) .none) ∧
  -- T2: OP 09, PR 00, XOP 0 (ADD) and 5 (DIV), TB, TA
  decode 0b001001_00_000000_100000011_010000101#32 = .ok (.add .always (.left 5) (.right 3)) ∧
  decode 0b001001_10_000101_000000000_010000100#32 = .ok (.div .onFalse (.left 4) .none) ∧
  -- T2 with the format in XOP's low bits: OP 16, XOP 0000 and 01 (FP64)
  decode 0b010110_00_000001_000000000_010000101#32 = .ok (.fadd .always 1 (.left 5) .none) ∧
  -- a predicate target: OP 15, XOP 0 (TEQ), TB and TA predicates of slots 4 and 3
  decode 0b010101_00_000000_110000100_110000011#32 = .ok (.teq .always (.pred 3) (.pred 4)) ∧
  -- B: OP 07, PR 01, the offset in words
  decode 0b000111_01_000000000000000000010000#32 = .ok (.bro .onTrue 16) ∧
  -- T1I: OP 05, PR 00, IMM15, TA (GENC); OP 1C for MFSR
  decode 0b000101_00_010010001101000_010000001#32 = .ok (.genc 0x2468 (.left 1)) ∧
  -- M: OP 23, PR 00, LSID 0, offset 2, TA (LDD); OP 2B, LSID 1, offset -1, no target (STD)
  decode 0b100011_00_000000_000000010_010000101#32 = .ok (.ldd .always 0 2 (.left 5)) ∧
  decode 0b101011_00_000001_111111111_000000000#32 = .ok (.std .always 1 (-1)) ∧
  -- OP 2C (AADD), OP 32 (VFMA), OP 35 (TMMA), OP 38 (MATCHC)
  decode 0b101100_00_000000_000000000_010000100#32 = .ok (.aadd .always false (.left 4) .none) ∧
  decode 0b110010_00_000011_000000000_010001001#32 = .ok (.vfma (.left 9) .none) ∧
  decode 0b110101_00_000001_000000000_010001001#32 = .ok (.tmma (.left 9) .none) ∧
  decode 0b111000_00_000101_110000110_010000101#32 = .ok (.matchc (.left 5) (.pred 6)) ∧
  -- targets whose kind and slot do not agree (LC8)
  decode 0x140000C1#32 = .error .badTarget ∧ decode 0x14000001#32 = .error .badTarget

/-- R121 to R126: no bit of an encoding is dropped. Every well-formed instruction that has a word decodes from that word to itself, with
every operand at every value. -/
def Obligations.EncodingRoundTrip : Prop :=
  ∀ i w, i.ill = none → encode i = some w → decode w = .ok i

/-- R121 to R126: the other direction. A word that decodes is the word of the instruction that it decodes to. -/
def Obligations.DecodingRoundTrip : Prop :=
  ∀ w i, decode w = .ok i → encode i = some w

/-- What the machine holds right after power good: nothing runs and nothing is loaded (R410),
every Terrace is OFF (R412), and the registers hold the values that their field maps give:
RINGHOLD 16,384 (R187), ESCCFG 4,096 (R394), PWRLIM 3,600 (R420), and zero in COLID, the routes
and ports (R403, R404), HEATCTL (R328), the launch queues (R341), MEAS (R414), GUARD (R420) and
each Terrace's FRING, FSTAT, XREPLY and ECCSTAT (R269, R314, R426). That memory reads 0 and stands
in its canonical form is the model's choice (log 1), and so is the segment 0 of each Terrace's
refresh window (log 2). -/
def Obligations.ResetState : Prop :=
  State.reset.strands = [] ∧ State.reset.tasks = [] ∧ State.reset.agenda = [] ∧ State.reset.engines = [] ∧
  State.reset.boot.stage = .stage0 ∧
  (∀ t, t < 8 → State.reset.terraces[t]? = some
    { state := 0, groveOk := 0, corr := 0, uncorr := 0, fring := 0, ovf := false, held := [], head := 0, xreply := 0 }) ∧
  State.reset.ringHold = 16384 ∧ State.reset.escTime = 4096 ∧ State.reset.boot.pwrlim = 3600 ∧ State.reset.colid = 0 ∧
  (∀ c, (State.reset.croute.find c).getD 0 = 0) ∧ (∀ p, (State.reset.port p).up = false ∧ (State.reset.port p).replays = 0) ∧
  State.reset.heatctl = 0 ∧
  (∀ q, State.reset.queue q = { cfg := 0, head := 0, tail := 0 }) ∧ State.reset.boot.meas = [0, 0, 0, 0] ∧
  State.reset.boot.guardState = 0 ∧ State.reset.boot.tjMax = 0 ∧ State.reset.boot.power = 0 ∧
  State.reset.Inv ∧ (∀ a, Memory.read State.reset.mem a = 0)

/-- Memory keeps every byte where it was put, and the canonical form (no repeats, rising, no zero byte listed): a read after a write
gives the byte that was written; any other key reads as before. -/
def Sys2Proof.Parts.MemoryReadsBack : Prop :=
  ∀ m k b, Memory.wf m = true → Memory.wf (Memory.write m k b) = true ∧ Memory.read (Memory.write m k b) k = b ∧
    (∀ j, j ≠ k → Memory.read (Memory.write m k b) j = Memory.read m j) ∧
    (∀ m', Memory.wf m' = true → (∀ j, Memory.read m j = Memory.read m' j) → m = m')

/-- R84: what is written at home is there byte by byte, little-endian; every other byte, every strand and every other table stay as they
are, but for the poison of the words it covers, the marks of pages that are being moved, and the lines in flight that it overtakes. -/
def Sys2Proof.Parts.HomeWriteFrame : Prop :=
  ∀ (s : State) key d, s.memOk → (s.writeHome key d).memOk ∧
    (∀ i, i < d.length → Memory.read (s.writeHome key d).mem (key + i) = (d[i]?).getD 0) ∧
    (∀ a, (a < key ∨ key + d.length ≤ a) → Memory.read (s.writeHome key d).mem a = Memory.read s.mem a) ∧
    s.writeHome key d = { s with mem := (s.writeHome key d).mem, poison := (s.writeHome key d).poison,
                                 migs := (s.writeHome key d).migs, lines := (s.writeHome key d).lines } ∧
    (∀ v, (s.writeHome key (toLe 8 v)).home key 8 = v % 2 ^ 64)

/-- R84, R277: memory gives back what was written, and a write changes nothing else. -/
def Obligations.MemoryHolds : Prop :=
  Parts.MemoryReadsBack ∧ Parts.HomeWriteFrame

/-- R1, R14, R43, R187, R394, R420: every step keeps the machine's invariant, from every state
that has it: the canonical form of memory, the eight Terraces, and the registers that refuse
values (RINGHOLD, ESCCFG, PWRLIM, and each task's TAGWIN and RCLIM). -/
def Obligations.MachineInvariant : Prop :=
  ∀ s s' : State, s.Inv → step s = .next s' → s'.Inv
end

