-- ==== Sys2Proof/Laws/State.lean ====
section
/-! SUPPORT. One lemma per field for each named update of the state: what it sets, and that it leaves every other field alone. -/

namespace Sys2Proof.Machine


/-! ### `setStrand` -/

@[simp] theorem State.setStrand_agenda (s : State) (k : Nat) (t : Strand) : (s.setStrand k t).agenda = s.agenda := rfl
@[simp] theorem State.setStrand_waiting (s : State) (k : Nat) (t : Strand) : (s.setStrand k t).waiting = s.waiting := rfl
@[simp] theorem State.setStrand_cur (s : State) (k : Nat) (t : Strand) : (s.setStrand k t).cur = s.cur := rfl
@[simp] theorem State.setStrand_ticks (s : State) (k : Nat) (t : Strand) : (s.setStrand k t).ticks = s.ticks := rfl
@[simp] theorem State.setStrand_rot (s : State) (k : Nat) (t : Strand) : (s.setStrand k t).rot = s.rot := rfl
@[simp] theorem State.setStrand_due (s : State) (k : Nat) (t : Strand) : (s.setStrand k t).due = s.due := rfl
@[simp] theorem State.setStrand_boot (s : State) (k : Nat) (t : Strand) : (s.setStrand k t).boot = s.boot := rfl
@[simp] theorem State.setStrand_terraces (s : State) (k : Nat) (t : Strand) : (s.setStrand k t).terraces = s.terraces := rfl
@[simp] theorem State.setStrand_harv (s : State) (k : Nat) (t : Strand) : (s.setStrand k t).harv = s.harv := rfl
@[simp] theorem State.setStrand_colid (s : State) (k : Nat) (t : Strand) : (s.setStrand k t).colid = s.colid := rfl
@[simp] theorem State.setStrand_croute (s : State) (k : Nat) (t : Strand) : (s.setStrand k t).croute = s.croute := rfl
@[simp] theorem State.setStrand_cports (s : State) (k : Nat) (t : Strand) : (s.setStrand k t).cports = s.cports := rfl
@[simp] theorem State.setStrand_escTime (s : State) (k : Nat) (t : Strand) : (s.setStrand k t).escTime = s.escTime := rfl
@[simp] theorem State.setStrand_heatctl (s : State) (k : Nat) (t : Strand) : (s.setStrand k t).heatctl = s.heatctl := rfl
@[simp] theorem State.setStrand_migs (s : State) (k : Nat) (t : Strand) : (s.setStrand k t).migs = s.migs := rfl
@[simp] theorem State.setStrand_ringHold (s : State) (k : Nat) (t : Strand) : (s.setStrand k t).ringHold = s.ringHold := rfl
@[simp] theorem State.setStrand_queues (s : State) (k : Nat) (t : Strand) : (s.setStrand k t).queues = s.queues := rfl
@[simp] theorem State.setStrand_lastServed (s : State) (k : Nat) (t : Strand) : (s.setStrand k t).lastServed = s.lastServed := rfl
@[simp] theorem State.setStrand_meshReplays (s : State) (k : Nat) (t : Strand) : (s.setStrand k t).meshReplays = s.meshReplays := rfl
@[simp] theorem State.setStrand_mem (s : State) (k : Nat) (t : Strand) : (s.setStrand k t).mem = s.mem := rfl
@[simp] theorem State.setStrand_poison (s : State) (k : Nat) (t : Strand) : (s.setStrand k t).poison = s.poison := rfl
@[simp] theorem State.setStrand_accW (s : State) (k : Nat) (t : Strand) : (s.setStrand k t).accW = s.accW := rfl
@[simp] theorem State.setStrand_accC (s : State) (k : Nat) (t : Strand) : (s.setStrand k t).accC = s.accC := rfl
@[simp] theorem State.setStrand_stickyW (s : State) (k : Nat) (t : Strand) : (s.setStrand k t).stickyW = s.stickyW := rfl
@[simp] theorem State.setStrand_stickyC (s : State) (k : Nat) (t : Strand) : (s.setStrand k t).stickyC = s.stickyC := rfl
@[simp] theorem State.setStrand_accPoison (s : State) (k : Nat) (t : Strand) : (s.setStrand k t).accPoison = s.accPoison := rfl
@[simp] theorem State.setStrand_lines (s : State) (k : Nat) (t : Strand) : (s.setStrand k t).lines = s.lines := rfl
@[simp] theorem State.setStrand_tlb (s : State) (k : Nat) (t : Strand) : (s.setStrand k t).tlb = s.tlb := rfl
@[simp] theorem State.setStrand_tiles (s : State) (k : Nat) (t : Strand) : (s.setStrand k t).tiles = s.tiles := rfl
@[simp] theorem State.setStrand_windows (s : State) (k : Nat) (t : Strand) : (s.setStrand k t).windows = s.windows := rfl
@[simp] theorem State.setStrand_buffers (s : State) (k : Nat) (t : Strand) : (s.setStrand k t).buffers = s.buffers := rfl
@[simp] theorem State.setStrand_deques (s : State) (k : Nat) (t : Strand) : (s.setStrand k t).deques = s.deques := rfl
@[simp] theorem State.setStrand_rings (s : State) (k : Nat) (t : Strand) : (s.setStrand k t).rings = s.rings := rfl
@[simp] theorem State.setStrand_stagings (s : State) (k : Nat) (t : Strand) : (s.setStrand k t).stagings = s.stagings := rfl
@[simp] theorem State.setStrand_sideLog (s : State) (k : Nat) (t : Strand) : (s.setStrand k t).sideLog = s.sideLog := rfl
@[simp] theorem State.setStrand_answers (s : State) (k : Nat) (t : Strand) : (s.setStrand k t).answers = s.answers := rfl
@[simp] theorem State.setStrand_perf (s : State) (k : Nat) (t : Strand) : (s.setStrand k t).perf = s.perf := rfl
@[simp] theorem State.setStrand_passed (s : State) (k : Nat) (t : Strand) : (s.setStrand k t).passed = s.passed := rfl
@[simp] theorem State.setStrand_heldSends (s : State) (k : Nat) (t : Strand) : (s.setStrand k t).heldSends = s.heldSends := rfl
@[simp] theorem State.setStrand_waitKids (s : State) (k : Nat) (t : Strand) : (s.setStrand k t).waitKids = s.waitKids := rfl
@[simp] theorem State.setStrand_placeGen (s : State) (k : Nat) (t : Strand) : (s.setStrand k t).placeGen = s.placeGen := rfl
@[simp] theorem State.setStrand_strands (s : State) (k : Nat) (t : Strand) : (s.setStrand k t).strands = s.strands.set k t := rfl
@[simp] theorem State.setStrand_tasks (s : State) (k : Nat) (t : Strand) : (s.setStrand k t).tasks = s.tasks := rfl
@[simp] theorem State.setStrand_engines (s : State) (k : Nat) (t : Strand) : (s.setStrand k t).engines = s.engines := rfl
@[simp] theorem State.setStrand_requests (s : State) (k : Nat) (t : Strand) : (s.setStrand k t).requests = s.requests := rfl
@[simp] theorem State.setStrand_domains (s : State) (k : Nat) (t : Strand) : (s.setStrand k t).domains = s.domains := rfl
@[simp] theorem State.setStrand_stores (s : State) (k : Nat) (t : Strand) : (s.setStrand k t).stores = s.stores := rfl
@[simp] theorem State.setStrand_queries (s : State) (k : Nat) (t : Strand) : (s.setStrand k t).queries = s.queries := rfl
@[simp] theorem State.setStrand_colls (s : State) (k : Nat) (t : Strand) : (s.setStrand k t).colls = s.colls := rfl
@[simp] theorem State.setStrand_barriers (s : State) (k : Nat) (t : Strand) : (s.setStrand k t).barriers = s.barriers := rfl
@[simp] theorem State.setStrand_flows (s : State) (k : Nat) (t : Strand) : (s.setStrand k t).flows = s.flows := rfl
@[simp] theorem State.setStrand_ownerCache (s : State) (k : Nat) (t : Strand) : (s.setStrand k t).ownerCache = s.ownerCache := rfl
@[simp] theorem State.setStrand_moved (s : State) (k : Nat) (t : Strand) : (s.setStrand k t).moved = s.moved := rfl
@[simp] theorem State.setStrand_retired (s : State) (k : Nat) (t : Strand) : (s.setStrand k t).retired = s.retired := rfl
@[simp] theorem State.setStrand_redirs (s : State) (k : Nat) (t : Strand) : (s.setStrand k t).redirs = s.redirs := rfl
@[simp] theorem State.setStrand_stubs (s : State) (k : Nat) (t : Strand) : (s.setStrand k t).stubs = s.stubs := rfl
@[simp] theorem State.setStrand_owned (s : State) (k : Nat) (t : Strand) : (s.setStrand k t).owned = s.owned := rfl
@[simp] theorem State.setStrand_incoming (s : State) (k : Nat) (t : Strand) : (s.setStrand k t).incoming = s.incoming := rfl
@[simp] theorem State.setStrand_heat (s : State) (k : Nat) (t : Strand) : (s.setStrand k t).heat = s.heat := rfl
@[simp] theorem State.setStrand_outbox (s : State) (k : Nat) (t : Strand) : (s.setStrand k t).outbox = s.outbox := rfl
@[simp] theorem State.setStrand_ages (s : State) (k : Nat) (t : Strand) : (s.setStrand k t).ages = s.ages := rfl
@[simp] theorem State.setStrand_nextBuf (s : State) (k : Nat) (t : Strand) : (s.setStrand k t).nextBuf = s.nextBuf := rfl
@[simp] theorem State.setStrand_nextTask (s : State) (k : Nat) (t : Strand) : (s.setStrand k t).nextTask = s.nextTask := rfl
@[simp] theorem State.setStrand_marks (s : State) (k : Nat) (t : Strand) : (s.setStrand k t).marks = s.marks := rfl

/-! ### `setTask` -/

@[simp] theorem State.setTask_agenda (s : State) (i : Nat) (t : Task) : (s.setTask i t).agenda = s.agenda := rfl
@[simp] theorem State.setTask_waiting (s : State) (i : Nat) (t : Task) : (s.setTask i t).waiting = s.waiting := rfl
@[simp] theorem State.setTask_cur (s : State) (i : Nat) (t : Task) : (s.setTask i t).cur = s.cur := rfl
@[simp] theorem State.setTask_ticks (s : State) (i : Nat) (t : Task) : (s.setTask i t).ticks = s.ticks := rfl
@[simp] theorem State.setTask_rot (s : State) (i : Nat) (t : Task) : (s.setTask i t).rot = s.rot := rfl
@[simp] theorem State.setTask_due (s : State) (i : Nat) (t : Task) : (s.setTask i t).due = s.due := rfl
@[simp] theorem State.setTask_boot (s : State) (i : Nat) (t : Task) : (s.setTask i t).boot = s.boot := rfl
@[simp] theorem State.setTask_terraces (s : State) (i : Nat) (t : Task) : (s.setTask i t).terraces = s.terraces := rfl
@[simp] theorem State.setTask_harv (s : State) (i : Nat) (t : Task) : (s.setTask i t).harv = s.harv := rfl
@[simp] theorem State.setTask_colid (s : State) (i : Nat) (t : Task) : (s.setTask i t).colid = s.colid := rfl
@[simp] theorem State.setTask_croute (s : State) (i : Nat) (t : Task) : (s.setTask i t).croute = s.croute := rfl
@[simp] theorem State.setTask_cports (s : State) (i : Nat) (t : Task) : (s.setTask i t).cports = s.cports := rfl
@[simp] theorem State.setTask_escTime (s : State) (i : Nat) (t : Task) : (s.setTask i t).escTime = s.escTime := rfl
@[simp] theorem State.setTask_heatctl (s : State) (i : Nat) (t : Task) : (s.setTask i t).heatctl = s.heatctl := rfl
@[simp] theorem State.setTask_migs (s : State) (i : Nat) (t : Task) : (s.setTask i t).migs = s.migs := rfl
@[simp] theorem State.setTask_ringHold (s : State) (i : Nat) (t : Task) : (s.setTask i t).ringHold = s.ringHold := rfl
@[simp] theorem State.setTask_queues (s : State) (i : Nat) (t : Task) : (s.setTask i t).queues = s.queues := rfl
@[simp] theorem State.setTask_lastServed (s : State) (i : Nat) (t : Task) : (s.setTask i t).lastServed = s.lastServed := rfl
@[simp] theorem State.setTask_meshReplays (s : State) (i : Nat) (t : Task) : (s.setTask i t).meshReplays = s.meshReplays := rfl
@[simp] theorem State.setTask_mem (s : State) (i : Nat) (t : Task) : (s.setTask i t).mem = s.mem := rfl
@[simp] theorem State.setTask_poison (s : State) (i : Nat) (t : Task) : (s.setTask i t).poison = s.poison := rfl
@[simp] theorem State.setTask_accW (s : State) (i : Nat) (t : Task) : (s.setTask i t).accW = s.accW := rfl
@[simp] theorem State.setTask_accC (s : State) (i : Nat) (t : Task) : (s.setTask i t).accC = s.accC := rfl
@[simp] theorem State.setTask_stickyW (s : State) (i : Nat) (t : Task) : (s.setTask i t).stickyW = s.stickyW := rfl
@[simp] theorem State.setTask_stickyC (s : State) (i : Nat) (t : Task) : (s.setTask i t).stickyC = s.stickyC := rfl
@[simp] theorem State.setTask_accPoison (s : State) (i : Nat) (t : Task) : (s.setTask i t).accPoison = s.accPoison := rfl
@[simp] theorem State.setTask_lines (s : State) (i : Nat) (t : Task) : (s.setTask i t).lines = s.lines := rfl
@[simp] theorem State.setTask_tlb (s : State) (i : Nat) (t : Task) : (s.setTask i t).tlb = s.tlb := rfl
@[simp] theorem State.setTask_tiles (s : State) (i : Nat) (t : Task) : (s.setTask i t).tiles = s.tiles := rfl
@[simp] theorem State.setTask_windows (s : State) (i : Nat) (t : Task) : (s.setTask i t).windows = s.windows := rfl
@[simp] theorem State.setTask_buffers (s : State) (i : Nat) (t : Task) : (s.setTask i t).buffers = s.buffers := rfl
@[simp] theorem State.setTask_deques (s : State) (i : Nat) (t : Task) : (s.setTask i t).deques = s.deques := rfl
@[simp] theorem State.setTask_rings (s : State) (i : Nat) (t : Task) : (s.setTask i t).rings = s.rings := rfl
@[simp] theorem State.setTask_stagings (s : State) (i : Nat) (t : Task) : (s.setTask i t).stagings = s.stagings := rfl
@[simp] theorem State.setTask_sideLog (s : State) (i : Nat) (t : Task) : (s.setTask i t).sideLog = s.sideLog := rfl
@[simp] theorem State.setTask_answers (s : State) (i : Nat) (t : Task) : (s.setTask i t).answers = s.answers := rfl
@[simp] theorem State.setTask_perf (s : State) (i : Nat) (t : Task) : (s.setTask i t).perf = s.perf := rfl
@[simp] theorem State.setTask_passed (s : State) (i : Nat) (t : Task) : (s.setTask i t).passed = s.passed := rfl
@[simp] theorem State.setTask_heldSends (s : State) (i : Nat) (t : Task) : (s.setTask i t).heldSends = s.heldSends := rfl
@[simp] theorem State.setTask_waitKids (s : State) (i : Nat) (t : Task) : (s.setTask i t).waitKids = s.waitKids := rfl
@[simp] theorem State.setTask_placeGen (s : State) (i : Nat) (t : Task) : (s.setTask i t).placeGen = s.placeGen := rfl
@[simp] theorem State.setTask_strands (s : State) (i : Nat) (t : Task) : (s.setTask i t).strands = s.strands := rfl
@[simp] theorem State.setTask_tasks (s : State) (i : Nat) (t : Task) : (s.setTask i t).tasks = s.tasks.set i t := rfl
@[simp] theorem State.setTask_engines (s : State) (i : Nat) (t : Task) : (s.setTask i t).engines = s.engines := rfl
@[simp] theorem State.setTask_requests (s : State) (i : Nat) (t : Task) : (s.setTask i t).requests = s.requests := rfl
@[simp] theorem State.setTask_domains (s : State) (i : Nat) (t : Task) : (s.setTask i t).domains = s.domains := rfl
@[simp] theorem State.setTask_stores (s : State) (i : Nat) (t : Task) : (s.setTask i t).stores = s.stores := rfl
@[simp] theorem State.setTask_queries (s : State) (i : Nat) (t : Task) : (s.setTask i t).queries = s.queries := rfl
@[simp] theorem State.setTask_colls (s : State) (i : Nat) (t : Task) : (s.setTask i t).colls = s.colls := rfl
@[simp] theorem State.setTask_barriers (s : State) (i : Nat) (t : Task) : (s.setTask i t).barriers = s.barriers := rfl
@[simp] theorem State.setTask_flows (s : State) (i : Nat) (t : Task) : (s.setTask i t).flows = s.flows := rfl
@[simp] theorem State.setTask_ownerCache (s : State) (i : Nat) (t : Task) : (s.setTask i t).ownerCache = s.ownerCache := rfl
@[simp] theorem State.setTask_moved (s : State) (i : Nat) (t : Task) : (s.setTask i t).moved = s.moved := rfl
@[simp] theorem State.setTask_retired (s : State) (i : Nat) (t : Task) : (s.setTask i t).retired = s.retired := rfl
@[simp] theorem State.setTask_redirs (s : State) (i : Nat) (t : Task) : (s.setTask i t).redirs = s.redirs := rfl
@[simp] theorem State.setTask_stubs (s : State) (i : Nat) (t : Task) : (s.setTask i t).stubs = s.stubs := rfl
@[simp] theorem State.setTask_owned (s : State) (i : Nat) (t : Task) : (s.setTask i t).owned = s.owned := rfl
@[simp] theorem State.setTask_incoming (s : State) (i : Nat) (t : Task) : (s.setTask i t).incoming = s.incoming := rfl
@[simp] theorem State.setTask_heat (s : State) (i : Nat) (t : Task) : (s.setTask i t).heat = s.heat := rfl
@[simp] theorem State.setTask_outbox (s : State) (i : Nat) (t : Task) : (s.setTask i t).outbox = s.outbox := rfl
@[simp] theorem State.setTask_ages (s : State) (i : Nat) (t : Task) : (s.setTask i t).ages = s.ages := rfl
@[simp] theorem State.setTask_nextBuf (s : State) (i : Nat) (t : Task) : (s.setTask i t).nextBuf = s.nextBuf := rfl
@[simp] theorem State.setTask_nextTask (s : State) (i : Nat) (t : Task) : (s.setTask i t).nextTask = s.nextTask := rfl
@[simp] theorem State.setTask_marks (s : State) (i : Nat) (t : Task) : (s.setTask i t).marks = s.marks := rfl

/-! ### `modTask` -/

@[simp] theorem State.modTask_agenda (s : State) (i : Nat) (f : Task → Task) : (s.modTask i f).agenda = s.agenda := rfl
@[simp] theorem State.modTask_waiting (s : State) (i : Nat) (f : Task → Task) : (s.modTask i f).waiting = s.waiting := rfl
@[simp] theorem State.modTask_cur (s : State) (i : Nat) (f : Task → Task) : (s.modTask i f).cur = s.cur := rfl
@[simp] theorem State.modTask_ticks (s : State) (i : Nat) (f : Task → Task) : (s.modTask i f).ticks = s.ticks := rfl
@[simp] theorem State.modTask_rot (s : State) (i : Nat) (f : Task → Task) : (s.modTask i f).rot = s.rot := rfl
@[simp] theorem State.modTask_due (s : State) (i : Nat) (f : Task → Task) : (s.modTask i f).due = s.due := rfl
@[simp] theorem State.modTask_boot (s : State) (i : Nat) (f : Task → Task) : (s.modTask i f).boot = s.boot := rfl
@[simp] theorem State.modTask_terraces (s : State) (i : Nat) (f : Task → Task) : (s.modTask i f).terraces = s.terraces := rfl
@[simp] theorem State.modTask_harv (s : State) (i : Nat) (f : Task → Task) : (s.modTask i f).harv = s.harv := rfl
@[simp] theorem State.modTask_colid (s : State) (i : Nat) (f : Task → Task) : (s.modTask i f).colid = s.colid := rfl
@[simp] theorem State.modTask_croute (s : State) (i : Nat) (f : Task → Task) : (s.modTask i f).croute = s.croute := rfl
@[simp] theorem State.modTask_cports (s : State) (i : Nat) (f : Task → Task) : (s.modTask i f).cports = s.cports := rfl
@[simp] theorem State.modTask_escTime (s : State) (i : Nat) (f : Task → Task) : (s.modTask i f).escTime = s.escTime := rfl
@[simp] theorem State.modTask_heatctl (s : State) (i : Nat) (f : Task → Task) : (s.modTask i f).heatctl = s.heatctl := rfl
@[simp] theorem State.modTask_migs (s : State) (i : Nat) (f : Task → Task) : (s.modTask i f).migs = s.migs := rfl
@[simp] theorem State.modTask_ringHold (s : State) (i : Nat) (f : Task → Task) : (s.modTask i f).ringHold = s.ringHold := rfl
@[simp] theorem State.modTask_queues (s : State) (i : Nat) (f : Task → Task) : (s.modTask i f).queues = s.queues := rfl
@[simp] theorem State.modTask_lastServed (s : State) (i : Nat) (f : Task → Task) : (s.modTask i f).lastServed = s.lastServed := rfl
@[simp] theorem State.modTask_meshReplays (s : State) (i : Nat) (f : Task → Task) : (s.modTask i f).meshReplays = s.meshReplays := rfl
@[simp] theorem State.modTask_mem (s : State) (i : Nat) (f : Task → Task) : (s.modTask i f).mem = s.mem := rfl
@[simp] theorem State.modTask_poison (s : State) (i : Nat) (f : Task → Task) : (s.modTask i f).poison = s.poison := rfl
@[simp] theorem State.modTask_accW (s : State) (i : Nat) (f : Task → Task) : (s.modTask i f).accW = s.accW := rfl
@[simp] theorem State.modTask_accC (s : State) (i : Nat) (f : Task → Task) : (s.modTask i f).accC = s.accC := rfl
@[simp] theorem State.modTask_stickyW (s : State) (i : Nat) (f : Task → Task) : (s.modTask i f).stickyW = s.stickyW := rfl
@[simp] theorem State.modTask_stickyC (s : State) (i : Nat) (f : Task → Task) : (s.modTask i f).stickyC = s.stickyC := rfl
@[simp] theorem State.modTask_accPoison (s : State) (i : Nat) (f : Task → Task) : (s.modTask i f).accPoison = s.accPoison := rfl
@[simp] theorem State.modTask_lines (s : State) (i : Nat) (f : Task → Task) : (s.modTask i f).lines = s.lines := rfl
@[simp] theorem State.modTask_tlb (s : State) (i : Nat) (f : Task → Task) : (s.modTask i f).tlb = s.tlb := rfl
@[simp] theorem State.modTask_tiles (s : State) (i : Nat) (f : Task → Task) : (s.modTask i f).tiles = s.tiles := rfl
@[simp] theorem State.modTask_windows (s : State) (i : Nat) (f : Task → Task) : (s.modTask i f).windows = s.windows := rfl
@[simp] theorem State.modTask_buffers (s : State) (i : Nat) (f : Task → Task) : (s.modTask i f).buffers = s.buffers := rfl
@[simp] theorem State.modTask_deques (s : State) (i : Nat) (f : Task → Task) : (s.modTask i f).deques = s.deques := rfl
@[simp] theorem State.modTask_rings (s : State) (i : Nat) (f : Task → Task) : (s.modTask i f).rings = s.rings := rfl
@[simp] theorem State.modTask_stagings (s : State) (i : Nat) (f : Task → Task) : (s.modTask i f).stagings = s.stagings := rfl
@[simp] theorem State.modTask_sideLog (s : State) (i : Nat) (f : Task → Task) : (s.modTask i f).sideLog = s.sideLog := rfl
@[simp] theorem State.modTask_answers (s : State) (i : Nat) (f : Task → Task) : (s.modTask i f).answers = s.answers := rfl
@[simp] theorem State.modTask_perf (s : State) (i : Nat) (f : Task → Task) : (s.modTask i f).perf = s.perf := rfl
@[simp] theorem State.modTask_passed (s : State) (i : Nat) (f : Task → Task) : (s.modTask i f).passed = s.passed := rfl
@[simp] theorem State.modTask_heldSends (s : State) (i : Nat) (f : Task → Task) : (s.modTask i f).heldSends = s.heldSends := rfl
@[simp] theorem State.modTask_waitKids (s : State) (i : Nat) (f : Task → Task) : (s.modTask i f).waitKids = s.waitKids := rfl
@[simp] theorem State.modTask_placeGen (s : State) (i : Nat) (f : Task → Task) : (s.modTask i f).placeGen = s.placeGen := rfl
@[simp] theorem State.modTask_strands (s : State) (i : Nat) (f : Task → Task) : (s.modTask i f).strands = s.strands := rfl
@[simp] theorem State.modTask_tasks (s : State) (i : Nat) (f : Task → Task) : (s.modTask i f).tasks = s.tasks.set i (f (s.task i)) := rfl
@[simp] theorem State.modTask_engines (s : State) (i : Nat) (f : Task → Task) : (s.modTask i f).engines = s.engines := rfl
@[simp] theorem State.modTask_requests (s : State) (i : Nat) (f : Task → Task) : (s.modTask i f).requests = s.requests := rfl
@[simp] theorem State.modTask_domains (s : State) (i : Nat) (f : Task → Task) : (s.modTask i f).domains = s.domains := rfl
@[simp] theorem State.modTask_stores (s : State) (i : Nat) (f : Task → Task) : (s.modTask i f).stores = s.stores := rfl
@[simp] theorem State.modTask_queries (s : State) (i : Nat) (f : Task → Task) : (s.modTask i f).queries = s.queries := rfl
@[simp] theorem State.modTask_colls (s : State) (i : Nat) (f : Task → Task) : (s.modTask i f).colls = s.colls := rfl
@[simp] theorem State.modTask_barriers (s : State) (i : Nat) (f : Task → Task) : (s.modTask i f).barriers = s.barriers := rfl
@[simp] theorem State.modTask_flows (s : State) (i : Nat) (f : Task → Task) : (s.modTask i f).flows = s.flows := rfl
@[simp] theorem State.modTask_ownerCache (s : State) (i : Nat) (f : Task → Task) : (s.modTask i f).ownerCache = s.ownerCache := rfl
@[simp] theorem State.modTask_moved (s : State) (i : Nat) (f : Task → Task) : (s.modTask i f).moved = s.moved := rfl
@[simp] theorem State.modTask_retired (s : State) (i : Nat) (f : Task → Task) : (s.modTask i f).retired = s.retired := rfl
@[simp] theorem State.modTask_redirs (s : State) (i : Nat) (f : Task → Task) : (s.modTask i f).redirs = s.redirs := rfl
@[simp] theorem State.modTask_stubs (s : State) (i : Nat) (f : Task → Task) : (s.modTask i f).stubs = s.stubs := rfl
@[simp] theorem State.modTask_owned (s : State) (i : Nat) (f : Task → Task) : (s.modTask i f).owned = s.owned := rfl
@[simp] theorem State.modTask_incoming (s : State) (i : Nat) (f : Task → Task) : (s.modTask i f).incoming = s.incoming := rfl
@[simp] theorem State.modTask_heat (s : State) (i : Nat) (f : Task → Task) : (s.modTask i f).heat = s.heat := rfl
@[simp] theorem State.modTask_outbox (s : State) (i : Nat) (f : Task → Task) : (s.modTask i f).outbox = s.outbox := rfl
@[simp] theorem State.modTask_ages (s : State) (i : Nat) (f : Task → Task) : (s.modTask i f).ages = s.ages := rfl
@[simp] theorem State.modTask_nextBuf (s : State) (i : Nat) (f : Task → Task) : (s.modTask i f).nextBuf = s.nextBuf := rfl
@[simp] theorem State.modTask_nextTask (s : State) (i : Nat) (f : Task → Task) : (s.modTask i f).nextTask = s.nextTask := rfl
@[simp] theorem State.modTask_marks (s : State) (i : Nat) (f : Task → Task) : (s.modTask i f).marks = s.marks := rfl

/-! ### `modTerrace` -/

@[simp] theorem State.modTerrace_agenda (s : State) (i : Nat) (f : Terrace → Terrace) : (s.modTerrace i f).agenda = s.agenda := rfl
@[simp] theorem State.modTerrace_waiting (s : State) (i : Nat) (f : Terrace → Terrace) : (s.modTerrace i f).waiting = s.waiting := rfl
@[simp] theorem State.modTerrace_cur (s : State) (i : Nat) (f : Terrace → Terrace) : (s.modTerrace i f).cur = s.cur := rfl
@[simp] theorem State.modTerrace_ticks (s : State) (i : Nat) (f : Terrace → Terrace) : (s.modTerrace i f).ticks = s.ticks := rfl
@[simp] theorem State.modTerrace_rot (s : State) (i : Nat) (f : Terrace → Terrace) : (s.modTerrace i f).rot = s.rot := rfl
@[simp] theorem State.modTerrace_due (s : State) (i : Nat) (f : Terrace → Terrace) : (s.modTerrace i f).due = s.due := rfl
@[simp] theorem State.modTerrace_boot (s : State) (i : Nat) (f : Terrace → Terrace) : (s.modTerrace i f).boot = s.boot := rfl
@[simp] theorem State.modTerrace_terraces (s : State) (i : Nat) (f : Terrace → Terrace) : (s.modTerrace i f).terraces = s.terraces.set i (f (s.terrace i)) := rfl
@[simp] theorem State.modTerrace_harv (s : State) (i : Nat) (f : Terrace → Terrace) : (s.modTerrace i f).harv = s.harv := rfl
@[simp] theorem State.modTerrace_colid (s : State) (i : Nat) (f : Terrace → Terrace) : (s.modTerrace i f).colid = s.colid := rfl
@[simp] theorem State.modTerrace_croute (s : State) (i : Nat) (f : Terrace → Terrace) : (s.modTerrace i f).croute = s.croute := rfl
@[simp] theorem State.modTerrace_cports (s : State) (i : Nat) (f : Terrace → Terrace) : (s.modTerrace i f).cports = s.cports := rfl
@[simp] theorem State.modTerrace_escTime (s : State) (i : Nat) (f : Terrace → Terrace) : (s.modTerrace i f).escTime = s.escTime := rfl
@[simp] theorem State.modTerrace_heatctl (s : State) (i : Nat) (f : Terrace → Terrace) : (s.modTerrace i f).heatctl = s.heatctl := rfl
@[simp] theorem State.modTerrace_migs (s : State) (i : Nat) (f : Terrace → Terrace) : (s.modTerrace i f).migs = s.migs := rfl
@[simp] theorem State.modTerrace_ringHold (s : State) (i : Nat) (f : Terrace → Terrace) : (s.modTerrace i f).ringHold = s.ringHold := rfl
@[simp] theorem State.modTerrace_queues (s : State) (i : Nat) (f : Terrace → Terrace) : (s.modTerrace i f).queues = s.queues := rfl
@[simp] theorem State.modTerrace_lastServed (s : State) (i : Nat) (f : Terrace → Terrace) : (s.modTerrace i f).lastServed = s.lastServed := rfl
@[simp] theorem State.modTerrace_meshReplays (s : State) (i : Nat) (f : Terrace → Terrace) : (s.modTerrace i f).meshReplays = s.meshReplays := rfl
@[simp] theorem State.modTerrace_mem (s : State) (i : Nat) (f : Terrace → Terrace) : (s.modTerrace i f).mem = s.mem := rfl
@[simp] theorem State.modTerrace_poison (s : State) (i : Nat) (f : Terrace → Terrace) : (s.modTerrace i f).poison = s.poison := rfl
@[simp] theorem State.modTerrace_accW (s : State) (i : Nat) (f : Terrace → Terrace) : (s.modTerrace i f).accW = s.accW := rfl
@[simp] theorem State.modTerrace_accC (s : State) (i : Nat) (f : Terrace → Terrace) : (s.modTerrace i f).accC = s.accC := rfl
@[simp] theorem State.modTerrace_stickyW (s : State) (i : Nat) (f : Terrace → Terrace) : (s.modTerrace i f).stickyW = s.stickyW := rfl
@[simp] theorem State.modTerrace_stickyC (s : State) (i : Nat) (f : Terrace → Terrace) : (s.modTerrace i f).stickyC = s.stickyC := rfl
@[simp] theorem State.modTerrace_accPoison (s : State) (i : Nat) (f : Terrace → Terrace) : (s.modTerrace i f).accPoison = s.accPoison := rfl
@[simp] theorem State.modTerrace_lines (s : State) (i : Nat) (f : Terrace → Terrace) : (s.modTerrace i f).lines = s.lines := rfl
@[simp] theorem State.modTerrace_tlb (s : State) (i : Nat) (f : Terrace → Terrace) : (s.modTerrace i f).tlb = s.tlb := rfl
@[simp] theorem State.modTerrace_tiles (s : State) (i : Nat) (f : Terrace → Terrace) : (s.modTerrace i f).tiles = s.tiles := rfl
@[simp] theorem State.modTerrace_windows (s : State) (i : Nat) (f : Terrace → Terrace) : (s.modTerrace i f).windows = s.windows := rfl
@[simp] theorem State.modTerrace_buffers (s : State) (i : Nat) (f : Terrace → Terrace) : (s.modTerrace i f).buffers = s.buffers := rfl
@[simp] theorem State.modTerrace_deques (s : State) (i : Nat) (f : Terrace → Terrace) : (s.modTerrace i f).deques = s.deques := rfl
@[simp] theorem State.modTerrace_rings (s : State) (i : Nat) (f : Terrace → Terrace) : (s.modTerrace i f).rings = s.rings := rfl
@[simp] theorem State.modTerrace_stagings (s : State) (i : Nat) (f : Terrace → Terrace) : (s.modTerrace i f).stagings = s.stagings := rfl
@[simp] theorem State.modTerrace_sideLog (s : State) (i : Nat) (f : Terrace → Terrace) : (s.modTerrace i f).sideLog = s.sideLog := rfl
@[simp] theorem State.modTerrace_answers (s : State) (i : Nat) (f : Terrace → Terrace) : (s.modTerrace i f).answers = s.answers := rfl
@[simp] theorem State.modTerrace_perf (s : State) (i : Nat) (f : Terrace → Terrace) : (s.modTerrace i f).perf = s.perf := rfl
@[simp] theorem State.modTerrace_passed (s : State) (i : Nat) (f : Terrace → Terrace) : (s.modTerrace i f).passed = s.passed := rfl
@[simp] theorem State.modTerrace_heldSends (s : State) (i : Nat) (f : Terrace → Terrace) : (s.modTerrace i f).heldSends = s.heldSends := rfl
@[simp] theorem State.modTerrace_waitKids (s : State) (i : Nat) (f : Terrace → Terrace) : (s.modTerrace i f).waitKids = s.waitKids := rfl
@[simp] theorem State.modTerrace_placeGen (s : State) (i : Nat) (f : Terrace → Terrace) : (s.modTerrace i f).placeGen = s.placeGen := rfl
@[simp] theorem State.modTerrace_strands (s : State) (i : Nat) (f : Terrace → Terrace) : (s.modTerrace i f).strands = s.strands := rfl
@[simp] theorem State.modTerrace_tasks (s : State) (i : Nat) (f : Terrace → Terrace) : (s.modTerrace i f).tasks = s.tasks := rfl
@[simp] theorem State.modTerrace_engines (s : State) (i : Nat) (f : Terrace → Terrace) : (s.modTerrace i f).engines = s.engines := rfl
@[simp] theorem State.modTerrace_requests (s : State) (i : Nat) (f : Terrace → Terrace) : (s.modTerrace i f).requests = s.requests := rfl
@[simp] theorem State.modTerrace_domains (s : State) (i : Nat) (f : Terrace → Terrace) : (s.modTerrace i f).domains = s.domains := rfl
@[simp] theorem State.modTerrace_stores (s : State) (i : Nat) (f : Terrace → Terrace) : (s.modTerrace i f).stores = s.stores := rfl
@[simp] theorem State.modTerrace_queries (s : State) (i : Nat) (f : Terrace → Terrace) : (s.modTerrace i f).queries = s.queries := rfl
@[simp] theorem State.modTerrace_colls (s : State) (i : Nat) (f : Terrace → Terrace) : (s.modTerrace i f).colls = s.colls := rfl
@[simp] theorem State.modTerrace_barriers (s : State) (i : Nat) (f : Terrace → Terrace) : (s.modTerrace i f).barriers = s.barriers := rfl
@[simp] theorem State.modTerrace_flows (s : State) (i : Nat) (f : Terrace → Terrace) : (s.modTerrace i f).flows = s.flows := rfl
@[simp] theorem State.modTerrace_ownerCache (s : State) (i : Nat) (f : Terrace → Terrace) : (s.modTerrace i f).ownerCache = s.ownerCache := rfl
@[simp] theorem State.modTerrace_moved (s : State) (i : Nat) (f : Terrace → Terrace) : (s.modTerrace i f).moved = s.moved := rfl
@[simp] theorem State.modTerrace_retired (s : State) (i : Nat) (f : Terrace → Terrace) : (s.modTerrace i f).retired = s.retired := rfl
@[simp] theorem State.modTerrace_redirs (s : State) (i : Nat) (f : Terrace → Terrace) : (s.modTerrace i f).redirs = s.redirs := rfl
@[simp] theorem State.modTerrace_stubs (s : State) (i : Nat) (f : Terrace → Terrace) : (s.modTerrace i f).stubs = s.stubs := rfl
@[simp] theorem State.modTerrace_owned (s : State) (i : Nat) (f : Terrace → Terrace) : (s.modTerrace i f).owned = s.owned := rfl
@[simp] theorem State.modTerrace_incoming (s : State) (i : Nat) (f : Terrace → Terrace) : (s.modTerrace i f).incoming = s.incoming := rfl
@[simp] theorem State.modTerrace_heat (s : State) (i : Nat) (f : Terrace → Terrace) : (s.modTerrace i f).heat = s.heat := rfl
@[simp] theorem State.modTerrace_outbox (s : State) (i : Nat) (f : Terrace → Terrace) : (s.modTerrace i f).outbox = s.outbox := rfl
@[simp] theorem State.modTerrace_ages (s : State) (i : Nat) (f : Terrace → Terrace) : (s.modTerrace i f).ages = s.ages := rfl
@[simp] theorem State.modTerrace_nextBuf (s : State) (i : Nat) (f : Terrace → Terrace) : (s.modTerrace i f).nextBuf = s.nextBuf := rfl
@[simp] theorem State.modTerrace_nextTask (s : State) (i : Nat) (f : Terrace → Terrace) : (s.modTerrace i f).nextTask = s.nextTask := rfl
@[simp] theorem State.modTerrace_marks (s : State) (i : Nat) (f : Terrace → Terrace) : (s.modTerrace i f).marks = s.marks := rfl

/-! ### `push` -/

@[simp] theorem State.push_agenda (s : State) (e : Instr) : (s.push e).agenda = s.agenda ++ [e] := rfl
@[simp] theorem State.push_waiting (s : State) (e : Instr) : (s.push e).waiting = s.waiting := rfl
@[simp] theorem State.push_cur (s : State) (e : Instr) : (s.push e).cur = s.cur := rfl
@[simp] theorem State.push_ticks (s : State) (e : Instr) : (s.push e).ticks = s.ticks := rfl
@[simp] theorem State.push_rot (s : State) (e : Instr) : (s.push e).rot = s.rot := rfl
@[simp] theorem State.push_due (s : State) (e : Instr) : (s.push e).due = s.due := rfl
@[simp] theorem State.push_boot (s : State) (e : Instr) : (s.push e).boot = s.boot := rfl
@[simp] theorem State.push_terraces (s : State) (e : Instr) : (s.push e).terraces = s.terraces := rfl
@[simp] theorem State.push_harv (s : State) (e : Instr) : (s.push e).harv = s.harv := rfl
@[simp] theorem State.push_colid (s : State) (e : Instr) : (s.push e).colid = s.colid := rfl
@[simp] theorem State.push_croute (s : State) (e : Instr) : (s.push e).croute = s.croute := rfl
@[simp] theorem State.push_cports (s : State) (e : Instr) : (s.push e).cports = s.cports := rfl
@[simp] theorem State.push_escTime (s : State) (e : Instr) : (s.push e).escTime = s.escTime := rfl
@[simp] theorem State.push_heatctl (s : State) (e : Instr) : (s.push e).heatctl = s.heatctl := rfl
@[simp] theorem State.push_migs (s : State) (e : Instr) : (s.push e).migs = s.migs := rfl
@[simp] theorem State.push_ringHold (s : State) (e : Instr) : (s.push e).ringHold = s.ringHold := rfl
@[simp] theorem State.push_queues (s : State) (e : Instr) : (s.push e).queues = s.queues := rfl
@[simp] theorem State.push_lastServed (s : State) (e : Instr) : (s.push e).lastServed = s.lastServed := rfl
@[simp] theorem State.push_meshReplays (s : State) (e : Instr) : (s.push e).meshReplays = s.meshReplays := rfl
@[simp] theorem State.push_mem (s : State) (e : Instr) : (s.push e).mem = s.mem := rfl
@[simp] theorem State.push_poison (s : State) (e : Instr) : (s.push e).poison = s.poison := rfl
@[simp] theorem State.push_accW (s : State) (e : Instr) : (s.push e).accW = s.accW := rfl
@[simp] theorem State.push_accC (s : State) (e : Instr) : (s.push e).accC = s.accC := rfl
@[simp] theorem State.push_stickyW (s : State) (e : Instr) : (s.push e).stickyW = s.stickyW := rfl
@[simp] theorem State.push_stickyC (s : State) (e : Instr) : (s.push e).stickyC = s.stickyC := rfl
@[simp] theorem State.push_accPoison (s : State) (e : Instr) : (s.push e).accPoison = s.accPoison := rfl
@[simp] theorem State.push_lines (s : State) (e : Instr) : (s.push e).lines = s.lines := rfl
@[simp] theorem State.push_tlb (s : State) (e : Instr) : (s.push e).tlb = s.tlb := rfl
@[simp] theorem State.push_tiles (s : State) (e : Instr) : (s.push e).tiles = s.tiles := rfl
@[simp] theorem State.push_windows (s : State) (e : Instr) : (s.push e).windows = s.windows := rfl
@[simp] theorem State.push_buffers (s : State) (e : Instr) : (s.push e).buffers = s.buffers := rfl
@[simp] theorem State.push_deques (s : State) (e : Instr) : (s.push e).deques = s.deques := rfl
@[simp] theorem State.push_rings (s : State) (e : Instr) : (s.push e).rings = s.rings := rfl
@[simp] theorem State.push_stagings (s : State) (e : Instr) : (s.push e).stagings = s.stagings := rfl
@[simp] theorem State.push_sideLog (s : State) (e : Instr) : (s.push e).sideLog = s.sideLog := rfl
@[simp] theorem State.push_answers (s : State) (e : Instr) : (s.push e).answers = s.answers := rfl
@[simp] theorem State.push_perf (s : State) (e : Instr) : (s.push e).perf = s.perf := rfl
@[simp] theorem State.push_passed (s : State) (e : Instr) : (s.push e).passed = s.passed := rfl
@[simp] theorem State.push_heldSends (s : State) (e : Instr) : (s.push e).heldSends = s.heldSends := rfl
@[simp] theorem State.push_waitKids (s : State) (e : Instr) : (s.push e).waitKids = s.waitKids := rfl
@[simp] theorem State.push_placeGen (s : State) (e : Instr) : (s.push e).placeGen = s.placeGen := rfl
@[simp] theorem State.push_strands (s : State) (e : Instr) : (s.push e).strands = s.strands := rfl
@[simp] theorem State.push_tasks (s : State) (e : Instr) : (s.push e).tasks = s.tasks := rfl
@[simp] theorem State.push_engines (s : State) (e : Instr) : (s.push e).engines = s.engines := rfl
@[simp] theorem State.push_requests (s : State) (e : Instr) : (s.push e).requests = s.requests := rfl
@[simp] theorem State.push_domains (s : State) (e : Instr) : (s.push e).domains = s.domains := rfl
@[simp] theorem State.push_stores (s : State) (e : Instr) : (s.push e).stores = s.stores := rfl
@[simp] theorem State.push_queries (s : State) (e : Instr) : (s.push e).queries = s.queries := rfl
@[simp] theorem State.push_colls (s : State) (e : Instr) : (s.push e).colls = s.colls := rfl
@[simp] theorem State.push_barriers (s : State) (e : Instr) : (s.push e).barriers = s.barriers := rfl
@[simp] theorem State.push_flows (s : State) (e : Instr) : (s.push e).flows = s.flows := rfl
@[simp] theorem State.push_ownerCache (s : State) (e : Instr) : (s.push e).ownerCache = s.ownerCache := rfl
@[simp] theorem State.push_moved (s : State) (e : Instr) : (s.push e).moved = s.moved := rfl
@[simp] theorem State.push_retired (s : State) (e : Instr) : (s.push e).retired = s.retired := rfl
@[simp] theorem State.push_redirs (s : State) (e : Instr) : (s.push e).redirs = s.redirs := rfl
@[simp] theorem State.push_stubs (s : State) (e : Instr) : (s.push e).stubs = s.stubs := rfl
@[simp] theorem State.push_owned (s : State) (e : Instr) : (s.push e).owned = s.owned := rfl
@[simp] theorem State.push_incoming (s : State) (e : Instr) : (s.push e).incoming = s.incoming := rfl
@[simp] theorem State.push_heat (s : State) (e : Instr) : (s.push e).heat = s.heat := rfl
@[simp] theorem State.push_outbox (s : State) (e : Instr) : (s.push e).outbox = s.outbox := rfl
@[simp] theorem State.push_ages (s : State) (e : Instr) : (s.push e).ages = s.ages := rfl
@[simp] theorem State.push_nextBuf (s : State) (e : Instr) : (s.push e).nextBuf = s.nextBuf := rfl
@[simp] theorem State.push_nextTask (s : State) (e : Instr) : (s.push e).nextTask = s.nextTask := rfl
@[simp] theorem State.push_marks (s : State) (e : Instr) : (s.push e).marks = s.marks := rfl

/-! ### `hold` -/

@[simp] theorem State.hold_agenda (s : State) (e : Instr) : (s.hold e).agenda = s.agenda := rfl
@[simp] theorem State.hold_waiting (s : State) (e : Instr) : (s.hold e).waiting = s.waiting ++ [e] := rfl
@[simp] theorem State.hold_cur (s : State) (e : Instr) : (s.hold e).cur = s.cur := rfl
@[simp] theorem State.hold_ticks (s : State) (e : Instr) : (s.hold e).ticks = s.ticks := rfl
@[simp] theorem State.hold_rot (s : State) (e : Instr) : (s.hold e).rot = s.rot := rfl
@[simp] theorem State.hold_due (s : State) (e : Instr) : (s.hold e).due = s.due := rfl
@[simp] theorem State.hold_boot (s : State) (e : Instr) : (s.hold e).boot = s.boot := rfl
@[simp] theorem State.hold_terraces (s : State) (e : Instr) : (s.hold e).terraces = s.terraces := rfl
@[simp] theorem State.hold_harv (s : State) (e : Instr) : (s.hold e).harv = s.harv := rfl
@[simp] theorem State.hold_colid (s : State) (e : Instr) : (s.hold e).colid = s.colid := rfl
@[simp] theorem State.hold_croute (s : State) (e : Instr) : (s.hold e).croute = s.croute := rfl
@[simp] theorem State.hold_cports (s : State) (e : Instr) : (s.hold e).cports = s.cports := rfl
@[simp] theorem State.hold_escTime (s : State) (e : Instr) : (s.hold e).escTime = s.escTime := rfl
@[simp] theorem State.hold_heatctl (s : State) (e : Instr) : (s.hold e).heatctl = s.heatctl := rfl
@[simp] theorem State.hold_migs (s : State) (e : Instr) : (s.hold e).migs = s.migs := rfl
@[simp] theorem State.hold_ringHold (s : State) (e : Instr) : (s.hold e).ringHold = s.ringHold := rfl
@[simp] theorem State.hold_queues (s : State) (e : Instr) : (s.hold e).queues = s.queues := rfl
@[simp] theorem State.hold_lastServed (s : State) (e : Instr) : (s.hold e).lastServed = s.lastServed := rfl
@[simp] theorem State.hold_meshReplays (s : State) (e : Instr) : (s.hold e).meshReplays = s.meshReplays := rfl
@[simp] theorem State.hold_mem (s : State) (e : Instr) : (s.hold e).mem = s.mem := rfl
@[simp] theorem State.hold_poison (s : State) (e : Instr) : (s.hold e).poison = s.poison := rfl
@[simp] theorem State.hold_accW (s : State) (e : Instr) : (s.hold e).accW = s.accW := rfl
@[simp] theorem State.hold_accC (s : State) (e : Instr) : (s.hold e).accC = s.accC := rfl
@[simp] theorem State.hold_stickyW (s : State) (e : Instr) : (s.hold e).stickyW = s.stickyW := rfl
@[simp] theorem State.hold_stickyC (s : State) (e : Instr) : (s.hold e).stickyC = s.stickyC := rfl
@[simp] theorem State.hold_accPoison (s : State) (e : Instr) : (s.hold e).accPoison = s.accPoison := rfl
@[simp] theorem State.hold_lines (s : State) (e : Instr) : (s.hold e).lines = s.lines := rfl
@[simp] theorem State.hold_tlb (s : State) (e : Instr) : (s.hold e).tlb = s.tlb := rfl
@[simp] theorem State.hold_tiles (s : State) (e : Instr) : (s.hold e).tiles = s.tiles := rfl
@[simp] theorem State.hold_windows (s : State) (e : Instr) : (s.hold e).windows = s.windows := rfl
@[simp] theorem State.hold_buffers (s : State) (e : Instr) : (s.hold e).buffers = s.buffers := rfl
@[simp] theorem State.hold_deques (s : State) (e : Instr) : (s.hold e).deques = s.deques := rfl
@[simp] theorem State.hold_rings (s : State) (e : Instr) : (s.hold e).rings = s.rings := rfl
@[simp] theorem State.hold_stagings (s : State) (e : Instr) : (s.hold e).stagings = s.stagings := rfl
@[simp] theorem State.hold_sideLog (s : State) (e : Instr) : (s.hold e).sideLog = s.sideLog := rfl
@[simp] theorem State.hold_answers (s : State) (e : Instr) : (s.hold e).answers = s.answers := rfl
@[simp] theorem State.hold_perf (s : State) (e : Instr) : (s.hold e).perf = s.perf := rfl
@[simp] theorem State.hold_passed (s : State) (e : Instr) : (s.hold e).passed = s.passed := rfl
@[simp] theorem State.hold_heldSends (s : State) (e : Instr) : (s.hold e).heldSends = s.heldSends := rfl
@[simp] theorem State.hold_waitKids (s : State) (e : Instr) : (s.hold e).waitKids = s.waitKids := rfl
@[simp] theorem State.hold_placeGen (s : State) (e : Instr) : (s.hold e).placeGen = s.placeGen := rfl
@[simp] theorem State.hold_strands (s : State) (e : Instr) : (s.hold e).strands = s.strands := rfl
@[simp] theorem State.hold_tasks (s : State) (e : Instr) : (s.hold e).tasks = s.tasks := rfl
@[simp] theorem State.hold_engines (s : State) (e : Instr) : (s.hold e).engines = s.engines := rfl
@[simp] theorem State.hold_requests (s : State) (e : Instr) : (s.hold e).requests = s.requests := rfl
@[simp] theorem State.hold_domains (s : State) (e : Instr) : (s.hold e).domains = s.domains := rfl
@[simp] theorem State.hold_stores (s : State) (e : Instr) : (s.hold e).stores = s.stores := rfl
@[simp] theorem State.hold_queries (s : State) (e : Instr) : (s.hold e).queries = s.queries := rfl
@[simp] theorem State.hold_colls (s : State) (e : Instr) : (s.hold e).colls = s.colls := rfl
@[simp] theorem State.hold_barriers (s : State) (e : Instr) : (s.hold e).barriers = s.barriers := rfl
@[simp] theorem State.hold_flows (s : State) (e : Instr) : (s.hold e).flows = s.flows := rfl
@[simp] theorem State.hold_ownerCache (s : State) (e : Instr) : (s.hold e).ownerCache = s.ownerCache := rfl
@[simp] theorem State.hold_moved (s : State) (e : Instr) : (s.hold e).moved = s.moved := rfl
@[simp] theorem State.hold_retired (s : State) (e : Instr) : (s.hold e).retired = s.retired := rfl
@[simp] theorem State.hold_redirs (s : State) (e : Instr) : (s.hold e).redirs = s.redirs := rfl
@[simp] theorem State.hold_stubs (s : State) (e : Instr) : (s.hold e).stubs = s.stubs := rfl
@[simp] theorem State.hold_owned (s : State) (e : Instr) : (s.hold e).owned = s.owned := rfl
@[simp] theorem State.hold_incoming (s : State) (e : Instr) : (s.hold e).incoming = s.incoming := rfl
@[simp] theorem State.hold_heat (s : State) (e : Instr) : (s.hold e).heat = s.heat := rfl
@[simp] theorem State.hold_outbox (s : State) (e : Instr) : (s.hold e).outbox = s.outbox := rfl
@[simp] theorem State.hold_ages (s : State) (e : Instr) : (s.hold e).ages = s.ages := rfl
@[simp] theorem State.hold_nextBuf (s : State) (e : Instr) : (s.hold e).nextBuf = s.nextBuf := rfl
@[simp] theorem State.hold_nextTask (s : State) (e : Instr) : (s.hold e).nextTask = s.nextTask := rfl
@[simp] theorem State.hold_marks (s : State) (e : Instr) : (s.hold e).marks = s.marks := rfl

/-! ### `send` -/

@[simp] theorem State.send_agenda (s : State) (m : OutMsg) : (s.send m).agenda = s.agenda := rfl
@[simp] theorem State.send_waiting (s : State) (m : OutMsg) : (s.send m).waiting = s.waiting := rfl
@[simp] theorem State.send_cur (s : State) (m : OutMsg) : (s.send m).cur = s.cur := rfl
@[simp] theorem State.send_ticks (s : State) (m : OutMsg) : (s.send m).ticks = s.ticks := rfl
@[simp] theorem State.send_rot (s : State) (m : OutMsg) : (s.send m).rot = s.rot := rfl
@[simp] theorem State.send_due (s : State) (m : OutMsg) : (s.send m).due = s.due := rfl
@[simp] theorem State.send_boot (s : State) (m : OutMsg) : (s.send m).boot = s.boot := rfl
@[simp] theorem State.send_terraces (s : State) (m : OutMsg) : (s.send m).terraces = s.terraces := rfl
@[simp] theorem State.send_harv (s : State) (m : OutMsg) : (s.send m).harv = s.harv := rfl
@[simp] theorem State.send_colid (s : State) (m : OutMsg) : (s.send m).colid = s.colid := rfl
@[simp] theorem State.send_croute (s : State) (m : OutMsg) : (s.send m).croute = s.croute := rfl
@[simp] theorem State.send_cports (s : State) (m : OutMsg) : (s.send m).cports = s.cports := rfl
@[simp] theorem State.send_escTime (s : State) (m : OutMsg) : (s.send m).escTime = s.escTime := rfl
@[simp] theorem State.send_heatctl (s : State) (m : OutMsg) : (s.send m).heatctl = s.heatctl := rfl
@[simp] theorem State.send_migs (s : State) (m : OutMsg) : (s.send m).migs = s.migs := rfl
@[simp] theorem State.send_ringHold (s : State) (m : OutMsg) : (s.send m).ringHold = s.ringHold := rfl
@[simp] theorem State.send_queues (s : State) (m : OutMsg) : (s.send m).queues = s.queues := rfl
@[simp] theorem State.send_lastServed (s : State) (m : OutMsg) : (s.send m).lastServed = s.lastServed := rfl
@[simp] theorem State.send_meshReplays (s : State) (m : OutMsg) : (s.send m).meshReplays = s.meshReplays := rfl
@[simp] theorem State.send_mem (s : State) (m : OutMsg) : (s.send m).mem = s.mem := rfl
@[simp] theorem State.send_poison (s : State) (m : OutMsg) : (s.send m).poison = s.poison := rfl
@[simp] theorem State.send_accW (s : State) (m : OutMsg) : (s.send m).accW = s.accW := rfl
@[simp] theorem State.send_accC (s : State) (m : OutMsg) : (s.send m).accC = s.accC := rfl
@[simp] theorem State.send_stickyW (s : State) (m : OutMsg) : (s.send m).stickyW = s.stickyW := rfl
@[simp] theorem State.send_stickyC (s : State) (m : OutMsg) : (s.send m).stickyC = s.stickyC := rfl
@[simp] theorem State.send_accPoison (s : State) (m : OutMsg) : (s.send m).accPoison = s.accPoison := rfl
@[simp] theorem State.send_lines (s : State) (m : OutMsg) : (s.send m).lines = s.lines := rfl
@[simp] theorem State.send_tlb (s : State) (m : OutMsg) : (s.send m).tlb = s.tlb := rfl
@[simp] theorem State.send_tiles (s : State) (m : OutMsg) : (s.send m).tiles = s.tiles := rfl
@[simp] theorem State.send_windows (s : State) (m : OutMsg) : (s.send m).windows = s.windows := rfl
@[simp] theorem State.send_buffers (s : State) (m : OutMsg) : (s.send m).buffers = s.buffers := rfl
@[simp] theorem State.send_deques (s : State) (m : OutMsg) : (s.send m).deques = s.deques := rfl
@[simp] theorem State.send_rings (s : State) (m : OutMsg) : (s.send m).rings = s.rings := rfl
@[simp] theorem State.send_stagings (s : State) (m : OutMsg) : (s.send m).stagings = s.stagings := rfl
@[simp] theorem State.send_sideLog (s : State) (m : OutMsg) : (s.send m).sideLog = s.sideLog := rfl
@[simp] theorem State.send_answers (s : State) (m : OutMsg) : (s.send m).answers = s.answers := rfl
@[simp] theorem State.send_perf (s : State) (m : OutMsg) : (s.send m).perf = s.perf := rfl
@[simp] theorem State.send_passed (s : State) (m : OutMsg) : (s.send m).passed = s.passed := rfl
@[simp] theorem State.send_heldSends (s : State) (m : OutMsg) : (s.send m).heldSends = s.heldSends := rfl
@[simp] theorem State.send_waitKids (s : State) (m : OutMsg) : (s.send m).waitKids = s.waitKids := rfl
@[simp] theorem State.send_placeGen (s : State) (m : OutMsg) : (s.send m).placeGen = s.placeGen := rfl
@[simp] theorem State.send_strands (s : State) (m : OutMsg) : (s.send m).strands = s.strands := rfl
@[simp] theorem State.send_tasks (s : State) (m : OutMsg) : (s.send m).tasks = s.tasks := rfl
@[simp] theorem State.send_engines (s : State) (m : OutMsg) : (s.send m).engines = s.engines := rfl
@[simp] theorem State.send_requests (s : State) (m : OutMsg) : (s.send m).requests = s.requests := rfl
@[simp] theorem State.send_domains (s : State) (m : OutMsg) : (s.send m).domains = s.domains := rfl
@[simp] theorem State.send_stores (s : State) (m : OutMsg) : (s.send m).stores = s.stores := rfl
@[simp] theorem State.send_queries (s : State) (m : OutMsg) : (s.send m).queries = s.queries := rfl
@[simp] theorem State.send_colls (s : State) (m : OutMsg) : (s.send m).colls = s.colls := rfl
@[simp] theorem State.send_barriers (s : State) (m : OutMsg) : (s.send m).barriers = s.barriers := rfl
@[simp] theorem State.send_flows (s : State) (m : OutMsg) : (s.send m).flows = s.flows := rfl
@[simp] theorem State.send_ownerCache (s : State) (m : OutMsg) : (s.send m).ownerCache = s.ownerCache := rfl
@[simp] theorem State.send_moved (s : State) (m : OutMsg) : (s.send m).moved = s.moved := rfl
@[simp] theorem State.send_retired (s : State) (m : OutMsg) : (s.send m).retired = s.retired := rfl
@[simp] theorem State.send_redirs (s : State) (m : OutMsg) : (s.send m).redirs = s.redirs := rfl
@[simp] theorem State.send_stubs (s : State) (m : OutMsg) : (s.send m).stubs = s.stubs := rfl
@[simp] theorem State.send_owned (s : State) (m : OutMsg) : (s.send m).owned = s.owned := rfl
@[simp] theorem State.send_incoming (s : State) (m : OutMsg) : (s.send m).incoming = s.incoming := rfl
@[simp] theorem State.send_heat (s : State) (m : OutMsg) : (s.send m).heat = s.heat := rfl
@[simp] theorem State.send_outbox (s : State) (m : OutMsg) : (s.send m).outbox = s.outbox ++ [m] := rfl
@[simp] theorem State.send_ages (s : State) (m : OutMsg) : (s.send m).ages = s.ages := rfl
@[simp] theorem State.send_nextBuf (s : State) (m : OutMsg) : (s.send m).nextBuf = s.nextBuf := rfl
@[simp] theorem State.send_nextTask (s : State) (m : OutMsg) : (s.send m).nextTask = s.nextTask := rfl
@[simp] theorem State.send_marks (s : State) (m : OutMsg) : (s.send m).marks = s.marks := rfl

/-! ### `addPerf` -/

@[simp] theorem State.addPerf_agenda (s : State) (p c n : Nat) : (s.addPerf p c n).agenda = s.agenda := rfl
@[simp] theorem State.addPerf_waiting (s : State) (p c n : Nat) : (s.addPerf p c n).waiting = s.waiting := rfl
@[simp] theorem State.addPerf_cur (s : State) (p c n : Nat) : (s.addPerf p c n).cur = s.cur := rfl
@[simp] theorem State.addPerf_ticks (s : State) (p c n : Nat) : (s.addPerf p c n).ticks = s.ticks := rfl
@[simp] theorem State.addPerf_rot (s : State) (p c n : Nat) : (s.addPerf p c n).rot = s.rot := rfl
@[simp] theorem State.addPerf_due (s : State) (p c n : Nat) : (s.addPerf p c n).due = s.due := rfl
@[simp] theorem State.addPerf_boot (s : State) (p c n : Nat) : (s.addPerf p c n).boot = s.boot := rfl
@[simp] theorem State.addPerf_terraces (s : State) (p c n : Nat) : (s.addPerf p c n).terraces = s.terraces := rfl
@[simp] theorem State.addPerf_harv (s : State) (p c n : Nat) : (s.addPerf p c n).harv = s.harv := rfl
@[simp] theorem State.addPerf_colid (s : State) (p c n : Nat) : (s.addPerf p c n).colid = s.colid := rfl
@[simp] theorem State.addPerf_croute (s : State) (p c n : Nat) : (s.addPerf p c n).croute = s.croute := rfl
@[simp] theorem State.addPerf_cports (s : State) (p c n : Nat) : (s.addPerf p c n).cports = s.cports := rfl
@[simp] theorem State.addPerf_escTime (s : State) (p c n : Nat) : (s.addPerf p c n).escTime = s.escTime := rfl
@[simp] theorem State.addPerf_heatctl (s : State) (p c n : Nat) : (s.addPerf p c n).heatctl = s.heatctl := rfl
@[simp] theorem State.addPerf_migs (s : State) (p c n : Nat) : (s.addPerf p c n).migs = s.migs := rfl
@[simp] theorem State.addPerf_ringHold (s : State) (p c n : Nat) : (s.addPerf p c n).ringHold = s.ringHold := rfl
@[simp] theorem State.addPerf_queues (s : State) (p c n : Nat) : (s.addPerf p c n).queues = s.queues := rfl
@[simp] theorem State.addPerf_lastServed (s : State) (p c n : Nat) : (s.addPerf p c n).lastServed = s.lastServed := rfl
@[simp] theorem State.addPerf_meshReplays (s : State) (p c n : Nat) : (s.addPerf p c n).meshReplays = s.meshReplays := rfl
@[simp] theorem State.addPerf_mem (s : State) (p c n : Nat) : (s.addPerf p c n).mem = s.mem := rfl
@[simp] theorem State.addPerf_poison (s : State) (p c n : Nat) : (s.addPerf p c n).poison = s.poison := rfl
@[simp] theorem State.addPerf_accW (s : State) (p c n : Nat) : (s.addPerf p c n).accW = s.accW := rfl
@[simp] theorem State.addPerf_accC (s : State) (p c n : Nat) : (s.addPerf p c n).accC = s.accC := rfl
@[simp] theorem State.addPerf_stickyW (s : State) (p c n : Nat) : (s.addPerf p c n).stickyW = s.stickyW := rfl
@[simp] theorem State.addPerf_stickyC (s : State) (p c n : Nat) : (s.addPerf p c n).stickyC = s.stickyC := rfl
@[simp] theorem State.addPerf_accPoison (s : State) (p c n : Nat) : (s.addPerf p c n).accPoison = s.accPoison := rfl
@[simp] theorem State.addPerf_lines (s : State) (p c n : Nat) : (s.addPerf p c n).lines = s.lines := rfl
@[simp] theorem State.addPerf_tlb (s : State) (p c n : Nat) : (s.addPerf p c n).tlb = s.tlb := rfl
@[simp] theorem State.addPerf_tiles (s : State) (p c n : Nat) : (s.addPerf p c n).tiles = s.tiles := rfl
@[simp] theorem State.addPerf_windows (s : State) (p c n : Nat) : (s.addPerf p c n).windows = s.windows := rfl
@[simp] theorem State.addPerf_buffers (s : State) (p c n : Nat) : (s.addPerf p c n).buffers = s.buffers := rfl
@[simp] theorem State.addPerf_deques (s : State) (p c n : Nat) : (s.addPerf p c n).deques = s.deques := rfl
@[simp] theorem State.addPerf_rings (s : State) (p c n : Nat) : (s.addPerf p c n).rings = s.rings := rfl
@[simp] theorem State.addPerf_stagings (s : State) (p c n : Nat) : (s.addPerf p c n).stagings = s.stagings := rfl
@[simp] theorem State.addPerf_sideLog (s : State) (p c n : Nat) : (s.addPerf p c n).sideLog = s.sideLog := rfl
@[simp] theorem State.addPerf_answers (s : State) (p c n : Nat) : (s.addPerf p c n).answers = s.answers := rfl
@[simp] theorem State.addPerf_perf (s : State) (p c n : Nat) : (s.addPerf p c n).perf = Tab.put s.perf (p * 64 + c) (s.perfAt p c + BitVec.ofNat 64 n) := rfl
@[simp] theorem State.addPerf_passed (s : State) (p c n : Nat) : (s.addPerf p c n).passed = s.passed := rfl
@[simp] theorem State.addPerf_heldSends (s : State) (p c n : Nat) : (s.addPerf p c n).heldSends = s.heldSends := rfl
@[simp] theorem State.addPerf_waitKids (s : State) (p c n : Nat) : (s.addPerf p c n).waitKids = s.waitKids := rfl
@[simp] theorem State.addPerf_placeGen (s : State) (p c n : Nat) : (s.addPerf p c n).placeGen = s.placeGen := rfl
@[simp] theorem State.addPerf_strands (s : State) (p c n : Nat) : (s.addPerf p c n).strands = s.strands := rfl
@[simp] theorem State.addPerf_tasks (s : State) (p c n : Nat) : (s.addPerf p c n).tasks = s.tasks := rfl
@[simp] theorem State.addPerf_engines (s : State) (p c n : Nat) : (s.addPerf p c n).engines = s.engines := rfl
@[simp] theorem State.addPerf_requests (s : State) (p c n : Nat) : (s.addPerf p c n).requests = s.requests := rfl
@[simp] theorem State.addPerf_domains (s : State) (p c n : Nat) : (s.addPerf p c n).domains = s.domains := rfl
@[simp] theorem State.addPerf_stores (s : State) (p c n : Nat) : (s.addPerf p c n).stores = s.stores := rfl
@[simp] theorem State.addPerf_queries (s : State) (p c n : Nat) : (s.addPerf p c n).queries = s.queries := rfl
@[simp] theorem State.addPerf_colls (s : State) (p c n : Nat) : (s.addPerf p c n).colls = s.colls := rfl
@[simp] theorem State.addPerf_barriers (s : State) (p c n : Nat) : (s.addPerf p c n).barriers = s.barriers := rfl
@[simp] theorem State.addPerf_flows (s : State) (p c n : Nat) : (s.addPerf p c n).flows = s.flows := rfl
@[simp] theorem State.addPerf_ownerCache (s : State) (p c n : Nat) : (s.addPerf p c n).ownerCache = s.ownerCache := rfl
@[simp] theorem State.addPerf_moved (s : State) (p c n : Nat) : (s.addPerf p c n).moved = s.moved := rfl
@[simp] theorem State.addPerf_retired (s : State) (p c n : Nat) : (s.addPerf p c n).retired = s.retired := rfl
@[simp] theorem State.addPerf_redirs (s : State) (p c n : Nat) : (s.addPerf p c n).redirs = s.redirs := rfl
@[simp] theorem State.addPerf_stubs (s : State) (p c n : Nat) : (s.addPerf p c n).stubs = s.stubs := rfl
@[simp] theorem State.addPerf_owned (s : State) (p c n : Nat) : (s.addPerf p c n).owned = s.owned := rfl
@[simp] theorem State.addPerf_incoming (s : State) (p c n : Nat) : (s.addPerf p c n).incoming = s.incoming := rfl
@[simp] theorem State.addPerf_heat (s : State) (p c n : Nat) : (s.addPerf p c n).heat = s.heat := rfl
@[simp] theorem State.addPerf_outbox (s : State) (p c n : Nat) : (s.addPerf p c n).outbox = s.outbox := rfl
@[simp] theorem State.addPerf_ages (s : State) (p c n : Nat) : (s.addPerf p c n).ages = s.ages := rfl
@[simp] theorem State.addPerf_nextBuf (s : State) (p c n : Nat) : (s.addPerf p c n).nextBuf = s.nextBuf := rfl
@[simp] theorem State.addPerf_nextTask (s : State) (p c n : Nat) : (s.addPerf p c n).nextTask = s.nextTask := rfl
@[simp] theorem State.addPerf_marks (s : State) (p c n : Nat) : (s.addPerf p c n).marks = s.marks := rfl

/-! ### `tick` -/

@[simp] theorem State.tick_agenda (s : State) : (s.tick).agenda = s.agenda := rfl
@[simp] theorem State.tick_waiting (s : State) : (s.tick).waiting = s.waiting := rfl
@[simp] theorem State.tick_cur (s : State) : (s.tick).cur = s.cur := rfl
@[simp] theorem State.tick_ticks (s : State) : (s.tick).ticks = s.ticks + 1 := rfl
@[simp] theorem State.tick_rot (s : State) : (s.tick).rot = s.rot := rfl
@[simp] theorem State.tick_due (s : State) : (s.tick).due = s.due := rfl
@[simp] theorem State.tick_boot (s : State) : (s.tick).boot = s.boot := rfl
@[simp] theorem State.tick_terraces (s : State) : (s.tick).terraces = s.terraces := rfl
@[simp] theorem State.tick_harv (s : State) : (s.tick).harv = s.harv := rfl
@[simp] theorem State.tick_colid (s : State) : (s.tick).colid = s.colid := rfl
@[simp] theorem State.tick_croute (s : State) : (s.tick).croute = s.croute := rfl
@[simp] theorem State.tick_cports (s : State) : (s.tick).cports = s.cports := rfl
@[simp] theorem State.tick_escTime (s : State) : (s.tick).escTime = s.escTime := rfl
@[simp] theorem State.tick_heatctl (s : State) : (s.tick).heatctl = s.heatctl := rfl
@[simp] theorem State.tick_migs (s : State) : (s.tick).migs = s.migs := rfl
@[simp] theorem State.tick_ringHold (s : State) : (s.tick).ringHold = s.ringHold := rfl
@[simp] theorem State.tick_queues (s : State) : (s.tick).queues = s.queues := rfl
@[simp] theorem State.tick_lastServed (s : State) : (s.tick).lastServed = s.lastServed := rfl
@[simp] theorem State.tick_meshReplays (s : State) : (s.tick).meshReplays = s.meshReplays := rfl
@[simp] theorem State.tick_mem (s : State) : (s.tick).mem = s.mem := rfl
@[simp] theorem State.tick_poison (s : State) : (s.tick).poison = s.poison := rfl
@[simp] theorem State.tick_accW (s : State) : (s.tick).accW = s.accW := rfl
@[simp] theorem State.tick_accC (s : State) : (s.tick).accC = s.accC := rfl
@[simp] theorem State.tick_stickyW (s : State) : (s.tick).stickyW = s.stickyW := rfl
@[simp] theorem State.tick_stickyC (s : State) : (s.tick).stickyC = s.stickyC := rfl
@[simp] theorem State.tick_accPoison (s : State) : (s.tick).accPoison = s.accPoison := rfl
@[simp] theorem State.tick_lines (s : State) : (s.tick).lines = s.lines := rfl
@[simp] theorem State.tick_tlb (s : State) : (s.tick).tlb = s.tlb := rfl
@[simp] theorem State.tick_tiles (s : State) : (s.tick).tiles = s.tiles := rfl
@[simp] theorem State.tick_windows (s : State) : (s.tick).windows = s.windows := rfl
@[simp] theorem State.tick_buffers (s : State) : (s.tick).buffers = s.buffers := rfl
@[simp] theorem State.tick_deques (s : State) : (s.tick).deques = s.deques := rfl
@[simp] theorem State.tick_rings (s : State) : (s.tick).rings = s.rings := rfl
@[simp] theorem State.tick_stagings (s : State) : (s.tick).stagings = s.stagings := rfl
@[simp] theorem State.tick_sideLog (s : State) : (s.tick).sideLog = s.sideLog := rfl
@[simp] theorem State.tick_answers (s : State) : (s.tick).answers = s.answers := rfl
@[simp] theorem State.tick_perf (s : State) : (s.tick).perf = s.perf := rfl
@[simp] theorem State.tick_passed (s : State) : (s.tick).passed = s.passed := rfl
@[simp] theorem State.tick_heldSends (s : State) : (s.tick).heldSends = s.heldSends := rfl
@[simp] theorem State.tick_waitKids (s : State) : (s.tick).waitKids = s.waitKids := rfl
@[simp] theorem State.tick_placeGen (s : State) : (s.tick).placeGen = s.placeGen := rfl
@[simp] theorem State.tick_strands (s : State) : (s.tick).strands = s.strands := rfl
@[simp] theorem State.tick_tasks (s : State) : (s.tick).tasks = s.tasks := rfl
@[simp] theorem State.tick_engines (s : State) : (s.tick).engines = s.engines := rfl
@[simp] theorem State.tick_requests (s : State) : (s.tick).requests = s.requests := rfl
@[simp] theorem State.tick_domains (s : State) : (s.tick).domains = s.domains := rfl
@[simp] theorem State.tick_stores (s : State) : (s.tick).stores = s.stores := rfl
@[simp] theorem State.tick_queries (s : State) : (s.tick).queries = s.queries := rfl
@[simp] theorem State.tick_colls (s : State) : (s.tick).colls = s.colls := rfl
@[simp] theorem State.tick_barriers (s : State) : (s.tick).barriers = s.barriers := rfl
@[simp] theorem State.tick_flows (s : State) : (s.tick).flows = s.flows := rfl
@[simp] theorem State.tick_ownerCache (s : State) : (s.tick).ownerCache = s.ownerCache := rfl
@[simp] theorem State.tick_moved (s : State) : (s.tick).moved = s.moved := rfl
@[simp] theorem State.tick_retired (s : State) : (s.tick).retired = s.retired := rfl
@[simp] theorem State.tick_redirs (s : State) : (s.tick).redirs = s.redirs := rfl
@[simp] theorem State.tick_stubs (s : State) : (s.tick).stubs = s.stubs := rfl
@[simp] theorem State.tick_owned (s : State) : (s.tick).owned = s.owned := rfl
@[simp] theorem State.tick_incoming (s : State) : (s.tick).incoming = s.incoming := rfl
@[simp] theorem State.tick_heat (s : State) : (s.tick).heat = s.heat := rfl
@[simp] theorem State.tick_outbox (s : State) : (s.tick).outbox = s.outbox := rfl
@[simp] theorem State.tick_ages (s : State) : (s.tick).ages = s.ages := rfl
@[simp] theorem State.tick_nextBuf (s : State) : (s.tick).nextBuf = s.nextBuf := rfl
@[simp] theorem State.tick_nextTask (s : State) : (s.tick).nextTask = s.nextTask := rfl
@[simp] theorem State.tick_marks (s : State) : (s.tick).marks = s.marks := rfl

/-! ### `turned` -/

@[simp] theorem State.turned_agenda (s : State) : (s.turned).agenda = s.agenda := rfl
@[simp] theorem State.turned_waiting (s : State) : (s.turned).waiting = s.waiting := rfl
@[simp] theorem State.turned_cur (s : State) : (s.turned).cur = s.cur := rfl
@[simp] theorem State.turned_ticks (s : State) : (s.turned).ticks = s.ticks := rfl
@[simp] theorem State.turned_rot (s : State) : (s.turned).rot = s.rot + 1 := rfl
@[simp] theorem State.turned_due (s : State) : (s.turned).due = s.due := rfl
@[simp] theorem State.turned_boot (s : State) : (s.turned).boot = s.boot := rfl
@[simp] theorem State.turned_terraces (s : State) : (s.turned).terraces = s.terraces := rfl
@[simp] theorem State.turned_harv (s : State) : (s.turned).harv = s.harv := rfl
@[simp] theorem State.turned_colid (s : State) : (s.turned).colid = s.colid := rfl
@[simp] theorem State.turned_croute (s : State) : (s.turned).croute = s.croute := rfl
@[simp] theorem State.turned_cports (s : State) : (s.turned).cports = s.cports := rfl
@[simp] theorem State.turned_escTime (s : State) : (s.turned).escTime = s.escTime := rfl
@[simp] theorem State.turned_heatctl (s : State) : (s.turned).heatctl = s.heatctl := rfl
@[simp] theorem State.turned_migs (s : State) : (s.turned).migs = s.migs := rfl
@[simp] theorem State.turned_ringHold (s : State) : (s.turned).ringHold = s.ringHold := rfl
@[simp] theorem State.turned_queues (s : State) : (s.turned).queues = s.queues := rfl
@[simp] theorem State.turned_lastServed (s : State) : (s.turned).lastServed = s.lastServed := rfl
@[simp] theorem State.turned_meshReplays (s : State) : (s.turned).meshReplays = s.meshReplays := rfl
@[simp] theorem State.turned_mem (s : State) : (s.turned).mem = s.mem := rfl
@[simp] theorem State.turned_poison (s : State) : (s.turned).poison = s.poison := rfl
@[simp] theorem State.turned_accW (s : State) : (s.turned).accW = s.accW := rfl
@[simp] theorem State.turned_accC (s : State) : (s.turned).accC = s.accC := rfl
@[simp] theorem State.turned_stickyW (s : State) : (s.turned).stickyW = s.stickyW := rfl
@[simp] theorem State.turned_stickyC (s : State) : (s.turned).stickyC = s.stickyC := rfl
@[simp] theorem State.turned_accPoison (s : State) : (s.turned).accPoison = s.accPoison := rfl
@[simp] theorem State.turned_lines (s : State) : (s.turned).lines = s.lines := rfl
@[simp] theorem State.turned_tlb (s : State) : (s.turned).tlb = s.tlb := rfl
@[simp] theorem State.turned_tiles (s : State) : (s.turned).tiles = s.tiles := rfl
@[simp] theorem State.turned_windows (s : State) : (s.turned).windows = s.windows := rfl
@[simp] theorem State.turned_buffers (s : State) : (s.turned).buffers = s.buffers := rfl
@[simp] theorem State.turned_deques (s : State) : (s.turned).deques = s.deques := rfl
@[simp] theorem State.turned_rings (s : State) : (s.turned).rings = s.rings := rfl
@[simp] theorem State.turned_stagings (s : State) : (s.turned).stagings = s.stagings := rfl
@[simp] theorem State.turned_sideLog (s : State) : (s.turned).sideLog = s.sideLog := rfl
@[simp] theorem State.turned_answers (s : State) : (s.turned).answers = s.answers := rfl
@[simp] theorem State.turned_perf (s : State) : (s.turned).perf = s.perf := rfl
@[simp] theorem State.turned_passed (s : State) : (s.turned).passed = s.passed := rfl
@[simp] theorem State.turned_heldSends (s : State) : (s.turned).heldSends = s.heldSends := rfl
@[simp] theorem State.turned_waitKids (s : State) : (s.turned).waitKids = s.waitKids := rfl
@[simp] theorem State.turned_placeGen (s : State) : (s.turned).placeGen = s.placeGen := rfl
@[simp] theorem State.turned_strands (s : State) : (s.turned).strands = s.strands := rfl
@[simp] theorem State.turned_tasks (s : State) : (s.turned).tasks = s.tasks := rfl
@[simp] theorem State.turned_engines (s : State) : (s.turned).engines = s.engines := rfl
@[simp] theorem State.turned_requests (s : State) : (s.turned).requests = s.requests := rfl
@[simp] theorem State.turned_domains (s : State) : (s.turned).domains = s.domains := rfl
@[simp] theorem State.turned_stores (s : State) : (s.turned).stores = s.stores := rfl
@[simp] theorem State.turned_queries (s : State) : (s.turned).queries = s.queries := rfl
@[simp] theorem State.turned_colls (s : State) : (s.turned).colls = s.colls := rfl
@[simp] theorem State.turned_barriers (s : State) : (s.turned).barriers = s.barriers := rfl
@[simp] theorem State.turned_flows (s : State) : (s.turned).flows = s.flows := rfl
@[simp] theorem State.turned_ownerCache (s : State) : (s.turned).ownerCache = s.ownerCache := rfl
@[simp] theorem State.turned_moved (s : State) : (s.turned).moved = s.moved := rfl
@[simp] theorem State.turned_retired (s : State) : (s.turned).retired = s.retired := rfl
@[simp] theorem State.turned_redirs (s : State) : (s.turned).redirs = s.redirs := rfl
@[simp] theorem State.turned_stubs (s : State) : (s.turned).stubs = s.stubs := rfl
@[simp] theorem State.turned_owned (s : State) : (s.turned).owned = s.owned := rfl
@[simp] theorem State.turned_incoming (s : State) : (s.turned).incoming = s.incoming := rfl
@[simp] theorem State.turned_heat (s : State) : (s.turned).heat = s.heat := rfl
@[simp] theorem State.turned_outbox (s : State) : (s.turned).outbox = s.outbox := rfl
@[simp] theorem State.turned_ages (s : State) : (s.turned).ages = s.ages := rfl
@[simp] theorem State.turned_nextBuf (s : State) : (s.turned).nextBuf = s.nextBuf := rfl
@[simp] theorem State.turned_nextTask (s : State) : (s.turned).nextTask = s.nextTask := rfl
@[simp] theorem State.turned_marks (s : State) : (s.turned).marks = s.marks := rfl

/-! ### `modStrand` -/

@[simp] theorem State.modStrand_agenda (s : State) (k : Nat) (f : Strand → Strand) : (s.modStrand k f).agenda = s.agenda := by
  unfold State.modStrand; split <;> rfl
@[simp] theorem State.modStrand_waiting (s : State) (k : Nat) (f : Strand → Strand) : (s.modStrand k f).waiting = s.waiting := by
  unfold State.modStrand; split <;> rfl
@[simp] theorem State.modStrand_cur (s : State) (k : Nat) (f : Strand → Strand) : (s.modStrand k f).cur = s.cur := by
  unfold State.modStrand; split <;> rfl
@[simp] theorem State.modStrand_ticks (s : State) (k : Nat) (f : Strand → Strand) : (s.modStrand k f).ticks = s.ticks := by
  unfold State.modStrand; split <;> rfl
@[simp] theorem State.modStrand_rot (s : State) (k : Nat) (f : Strand → Strand) : (s.modStrand k f).rot = s.rot := by
  unfold State.modStrand; split <;> rfl
@[simp] theorem State.modStrand_due (s : State) (k : Nat) (f : Strand → Strand) : (s.modStrand k f).due = s.due := by
  unfold State.modStrand; split <;> rfl
@[simp] theorem State.modStrand_boot (s : State) (k : Nat) (f : Strand → Strand) : (s.modStrand k f).boot = s.boot := by
  unfold State.modStrand; split <;> rfl
@[simp] theorem State.modStrand_terraces (s : State) (k : Nat) (f : Strand → Strand) : (s.modStrand k f).terraces = s.terraces := by
  unfold State.modStrand; split <;> rfl
@[simp] theorem State.modStrand_harv (s : State) (k : Nat) (f : Strand → Strand) : (s.modStrand k f).harv = s.harv := by
  unfold State.modStrand; split <;> rfl
@[simp] theorem State.modStrand_colid (s : State) (k : Nat) (f : Strand → Strand) : (s.modStrand k f).colid = s.colid := by
  unfold State.modStrand; split <;> rfl
@[simp] theorem State.modStrand_croute (s : State) (k : Nat) (f : Strand → Strand) : (s.modStrand k f).croute = s.croute := by
  unfold State.modStrand; split <;> rfl
@[simp] theorem State.modStrand_cports (s : State) (k : Nat) (f : Strand → Strand) : (s.modStrand k f).cports = s.cports := by
  unfold State.modStrand; split <;> rfl
@[simp] theorem State.modStrand_escTime (s : State) (k : Nat) (f : Strand → Strand) : (s.modStrand k f).escTime = s.escTime := by
  unfold State.modStrand; split <;> rfl
@[simp] theorem State.modStrand_heatctl (s : State) (k : Nat) (f : Strand → Strand) : (s.modStrand k f).heatctl = s.heatctl := by
  unfold State.modStrand; split <;> rfl
@[simp] theorem State.modStrand_migs (s : State) (k : Nat) (f : Strand → Strand) : (s.modStrand k f).migs = s.migs := by
  unfold State.modStrand; split <;> rfl
@[simp] theorem State.modStrand_ringHold (s : State) (k : Nat) (f : Strand → Strand) : (s.modStrand k f).ringHold = s.ringHold := by
  unfold State.modStrand; split <;> rfl
@[simp] theorem State.modStrand_queues (s : State) (k : Nat) (f : Strand → Strand) : (s.modStrand k f).queues = s.queues := by
  unfold State.modStrand; split <;> rfl
@[simp] theorem State.modStrand_lastServed (s : State) (k : Nat) (f : Strand → Strand) : (s.modStrand k f).lastServed = s.lastServed := by
  unfold State.modStrand; split <;> rfl
@[simp] theorem State.modStrand_meshReplays (s : State) (k : Nat) (f : Strand → Strand) : (s.modStrand k f).meshReplays = s.meshReplays := by
  unfold State.modStrand; split <;> rfl
@[simp] theorem State.modStrand_mem (s : State) (k : Nat) (f : Strand → Strand) : (s.modStrand k f).mem = s.mem := by
  unfold State.modStrand; split <;> rfl
@[simp] theorem State.modStrand_poison (s : State) (k : Nat) (f : Strand → Strand) : (s.modStrand k f).poison = s.poison := by
  unfold State.modStrand; split <;> rfl
@[simp] theorem State.modStrand_accW (s : State) (k : Nat) (f : Strand → Strand) : (s.modStrand k f).accW = s.accW := by
  unfold State.modStrand; split <;> rfl
@[simp] theorem State.modStrand_accC (s : State) (k : Nat) (f : Strand → Strand) : (s.modStrand k f).accC = s.accC := by
  unfold State.modStrand; split <;> rfl
@[simp] theorem State.modStrand_stickyW (s : State) (k : Nat) (f : Strand → Strand) : (s.modStrand k f).stickyW = s.stickyW := by
  unfold State.modStrand; split <;> rfl
@[simp] theorem State.modStrand_stickyC (s : State) (k : Nat) (f : Strand → Strand) : (s.modStrand k f).stickyC = s.stickyC := by
  unfold State.modStrand; split <;> rfl
@[simp] theorem State.modStrand_accPoison (s : State) (k : Nat) (f : Strand → Strand) : (s.modStrand k f).accPoison = s.accPoison := by
  unfold State.modStrand; split <;> rfl
@[simp] theorem State.modStrand_lines (s : State) (k : Nat) (f : Strand → Strand) : (s.modStrand k f).lines = s.lines := by
  unfold State.modStrand; split <;> rfl
@[simp] theorem State.modStrand_tlb (s : State) (k : Nat) (f : Strand → Strand) : (s.modStrand k f).tlb = s.tlb := by
  unfold State.modStrand; split <;> rfl
@[simp] theorem State.modStrand_tiles (s : State) (k : Nat) (f : Strand → Strand) : (s.modStrand k f).tiles = s.tiles := by
  unfold State.modStrand; split <;> rfl
@[simp] theorem State.modStrand_windows (s : State) (k : Nat) (f : Strand → Strand) : (s.modStrand k f).windows = s.windows := by
  unfold State.modStrand; split <;> rfl
@[simp] theorem State.modStrand_buffers (s : State) (k : Nat) (f : Strand → Strand) : (s.modStrand k f).buffers = s.buffers := by
  unfold State.modStrand; split <;> rfl
@[simp] theorem State.modStrand_deques (s : State) (k : Nat) (f : Strand → Strand) : (s.modStrand k f).deques = s.deques := by
  unfold State.modStrand; split <;> rfl
@[simp] theorem State.modStrand_rings (s : State) (k : Nat) (f : Strand → Strand) : (s.modStrand k f).rings = s.rings := by
  unfold State.modStrand; split <;> rfl
@[simp] theorem State.modStrand_stagings (s : State) (k : Nat) (f : Strand → Strand) : (s.modStrand k f).stagings = s.stagings := by
  unfold State.modStrand; split <;> rfl
@[simp] theorem State.modStrand_sideLog (s : State) (k : Nat) (f : Strand → Strand) : (s.modStrand k f).sideLog = s.sideLog := by
  unfold State.modStrand; split <;> rfl
@[simp] theorem State.modStrand_answers (s : State) (k : Nat) (f : Strand → Strand) : (s.modStrand k f).answers = s.answers := by
  unfold State.modStrand; split <;> rfl
@[simp] theorem State.modStrand_perf (s : State) (k : Nat) (f : Strand → Strand) : (s.modStrand k f).perf = s.perf := by
  unfold State.modStrand; split <;> rfl
@[simp] theorem State.modStrand_passed (s : State) (k : Nat) (f : Strand → Strand) : (s.modStrand k f).passed = s.passed := by
  unfold State.modStrand; split <;> rfl
@[simp] theorem State.modStrand_heldSends (s : State) (k : Nat) (f : Strand → Strand) : (s.modStrand k f).heldSends = s.heldSends := by
  unfold State.modStrand; split <;> rfl
@[simp] theorem State.modStrand_waitKids (s : State) (k : Nat) (f : Strand → Strand) : (s.modStrand k f).waitKids = s.waitKids := by
  unfold State.modStrand; split <;> rfl
@[simp] theorem State.modStrand_placeGen (s : State) (k : Nat) (f : Strand → Strand) : (s.modStrand k f).placeGen = s.placeGen := by
  unfold State.modStrand; split <;> rfl
@[simp] theorem State.modStrand_tasks (s : State) (k : Nat) (f : Strand → Strand) : (s.modStrand k f).tasks = s.tasks := by
  unfold State.modStrand; split <;> rfl
@[simp] theorem State.modStrand_engines (s : State) (k : Nat) (f : Strand → Strand) : (s.modStrand k f).engines = s.engines := by
  unfold State.modStrand; split <;> rfl
@[simp] theorem State.modStrand_requests (s : State) (k : Nat) (f : Strand → Strand) : (s.modStrand k f).requests = s.requests := by
  unfold State.modStrand; split <;> rfl
@[simp] theorem State.modStrand_domains (s : State) (k : Nat) (f : Strand → Strand) : (s.modStrand k f).domains = s.domains := by
  unfold State.modStrand; split <;> rfl
@[simp] theorem State.modStrand_stores (s : State) (k : Nat) (f : Strand → Strand) : (s.modStrand k f).stores = s.stores := by
  unfold State.modStrand; split <;> rfl
@[simp] theorem State.modStrand_queries (s : State) (k : Nat) (f : Strand → Strand) : (s.modStrand k f).queries = s.queries := by
  unfold State.modStrand; split <;> rfl
@[simp] theorem State.modStrand_colls (s : State) (k : Nat) (f : Strand → Strand) : (s.modStrand k f).colls = s.colls := by
  unfold State.modStrand; split <;> rfl
@[simp] theorem State.modStrand_barriers (s : State) (k : Nat) (f : Strand → Strand) : (s.modStrand k f).barriers = s.barriers := by
  unfold State.modStrand; split <;> rfl
@[simp] theorem State.modStrand_flows (s : State) (k : Nat) (f : Strand → Strand) : (s.modStrand k f).flows = s.flows := by
  unfold State.modStrand; split <;> rfl
@[simp] theorem State.modStrand_ownerCache (s : State) (k : Nat) (f : Strand → Strand) : (s.modStrand k f).ownerCache = s.ownerCache := by
  unfold State.modStrand; split <;> rfl
@[simp] theorem State.modStrand_moved (s : State) (k : Nat) (f : Strand → Strand) : (s.modStrand k f).moved = s.moved := by
  unfold State.modStrand; split <;> rfl
@[simp] theorem State.modStrand_retired (s : State) (k : Nat) (f : Strand → Strand) : (s.modStrand k f).retired = s.retired := by
  unfold State.modStrand; split <;> rfl
@[simp] theorem State.modStrand_redirs (s : State) (k : Nat) (f : Strand → Strand) : (s.modStrand k f).redirs = s.redirs := by
  unfold State.modStrand; split <;> rfl
@[simp] theorem State.modStrand_stubs (s : State) (k : Nat) (f : Strand → Strand) : (s.modStrand k f).stubs = s.stubs := by
  unfold State.modStrand; split <;> rfl
@[simp] theorem State.modStrand_owned (s : State) (k : Nat) (f : Strand → Strand) : (s.modStrand k f).owned = s.owned := by
  unfold State.modStrand; split <;> rfl
@[simp] theorem State.modStrand_incoming (s : State) (k : Nat) (f : Strand → Strand) : (s.modStrand k f).incoming = s.incoming := by
  unfold State.modStrand; split <;> rfl
@[simp] theorem State.modStrand_heat (s : State) (k : Nat) (f : Strand → Strand) : (s.modStrand k f).heat = s.heat := by
  unfold State.modStrand; split <;> rfl
@[simp] theorem State.modStrand_outbox (s : State) (k : Nat) (f : Strand → Strand) : (s.modStrand k f).outbox = s.outbox := by
  unfold State.modStrand; split <;> rfl
@[simp] theorem State.modStrand_ages (s : State) (k : Nat) (f : Strand → Strand) : (s.modStrand k f).ages = s.ages := by
  unfold State.modStrand; split <;> rfl
@[simp] theorem State.modStrand_nextBuf (s : State) (k : Nat) (f : Strand → Strand) : (s.modStrand k f).nextBuf = s.nextBuf := by
  unfold State.modStrand; split <;> rfl
@[simp] theorem State.modStrand_nextTask (s : State) (k : Nat) (f : Strand → Strand) : (s.modStrand k f).nextTask = s.nextTask := by
  unfold State.modStrand; split <;> rfl
@[simp] theorem State.modStrand_marks (s : State) (k : Nat) (f : Strand → Strand) : (s.modStrand k f).marks = s.marks := by
  unfold State.modStrand; split <;> rfl

/-! ### `modBlock` -/

@[simp] theorem State.modBlock_agenda (s : State) (k : Nat) (f : BlockRun → BlockRun) : (s.modBlock k f).agenda = s.agenda := s.modStrand_agenda k _
@[simp] theorem State.modBlock_waiting (s : State) (k : Nat) (f : BlockRun → BlockRun) : (s.modBlock k f).waiting = s.waiting := s.modStrand_waiting k _
@[simp] theorem State.modBlock_cur (s : State) (k : Nat) (f : BlockRun → BlockRun) : (s.modBlock k f).cur = s.cur := s.modStrand_cur k _
@[simp] theorem State.modBlock_ticks (s : State) (k : Nat) (f : BlockRun → BlockRun) : (s.modBlock k f).ticks = s.ticks := s.modStrand_ticks k _
@[simp] theorem State.modBlock_rot (s : State) (k : Nat) (f : BlockRun → BlockRun) : (s.modBlock k f).rot = s.rot := s.modStrand_rot k _
@[simp] theorem State.modBlock_due (s : State) (k : Nat) (f : BlockRun → BlockRun) : (s.modBlock k f).due = s.due := s.modStrand_due k _
@[simp] theorem State.modBlock_boot (s : State) (k : Nat) (f : BlockRun → BlockRun) : (s.modBlock k f).boot = s.boot := s.modStrand_boot k _
@[simp] theorem State.modBlock_terraces (s : State) (k : Nat) (f : BlockRun → BlockRun) : (s.modBlock k f).terraces = s.terraces := s.modStrand_terraces k _
@[simp] theorem State.modBlock_harv (s : State) (k : Nat) (f : BlockRun → BlockRun) : (s.modBlock k f).harv = s.harv := s.modStrand_harv k _
@[simp] theorem State.modBlock_colid (s : State) (k : Nat) (f : BlockRun → BlockRun) : (s.modBlock k f).colid = s.colid := s.modStrand_colid k _
@[simp] theorem State.modBlock_croute (s : State) (k : Nat) (f : BlockRun → BlockRun) : (s.modBlock k f).croute = s.croute := s.modStrand_croute k _
@[simp] theorem State.modBlock_cports (s : State) (k : Nat) (f : BlockRun → BlockRun) : (s.modBlock k f).cports = s.cports := s.modStrand_cports k _
@[simp] theorem State.modBlock_escTime (s : State) (k : Nat) (f : BlockRun → BlockRun) : (s.modBlock k f).escTime = s.escTime := s.modStrand_escTime k _
@[simp] theorem State.modBlock_heatctl (s : State) (k : Nat) (f : BlockRun → BlockRun) : (s.modBlock k f).heatctl = s.heatctl := s.modStrand_heatctl k _
@[simp] theorem State.modBlock_migs (s : State) (k : Nat) (f : BlockRun → BlockRun) : (s.modBlock k f).migs = s.migs := s.modStrand_migs k _
@[simp] theorem State.modBlock_ringHold (s : State) (k : Nat) (f : BlockRun → BlockRun) : (s.modBlock k f).ringHold = s.ringHold := s.modStrand_ringHold k _
@[simp] theorem State.modBlock_queues (s : State) (k : Nat) (f : BlockRun → BlockRun) : (s.modBlock k f).queues = s.queues := s.modStrand_queues k _
@[simp] theorem State.modBlock_lastServed (s : State) (k : Nat) (f : BlockRun → BlockRun) : (s.modBlock k f).lastServed = s.lastServed := s.modStrand_lastServed k _
@[simp] theorem State.modBlock_meshReplays (s : State) (k : Nat) (f : BlockRun → BlockRun) : (s.modBlock k f).meshReplays = s.meshReplays := s.modStrand_meshReplays k _
@[simp] theorem State.modBlock_mem (s : State) (k : Nat) (f : BlockRun → BlockRun) : (s.modBlock k f).mem = s.mem := s.modStrand_mem k _
@[simp] theorem State.modBlock_poison (s : State) (k : Nat) (f : BlockRun → BlockRun) : (s.modBlock k f).poison = s.poison := s.modStrand_poison k _
@[simp] theorem State.modBlock_accW (s : State) (k : Nat) (f : BlockRun → BlockRun) : (s.modBlock k f).accW = s.accW := s.modStrand_accW k _
@[simp] theorem State.modBlock_accC (s : State) (k : Nat) (f : BlockRun → BlockRun) : (s.modBlock k f).accC = s.accC := s.modStrand_accC k _
@[simp] theorem State.modBlock_stickyW (s : State) (k : Nat) (f : BlockRun → BlockRun) : (s.modBlock k f).stickyW = s.stickyW := s.modStrand_stickyW k _
@[simp] theorem State.modBlock_stickyC (s : State) (k : Nat) (f : BlockRun → BlockRun) : (s.modBlock k f).stickyC = s.stickyC := s.modStrand_stickyC k _
@[simp] theorem State.modBlock_accPoison (s : State) (k : Nat) (f : BlockRun → BlockRun) : (s.modBlock k f).accPoison = s.accPoison := s.modStrand_accPoison k _
@[simp] theorem State.modBlock_lines (s : State) (k : Nat) (f : BlockRun → BlockRun) : (s.modBlock k f).lines = s.lines := s.modStrand_lines k _
@[simp] theorem State.modBlock_tlb (s : State) (k : Nat) (f : BlockRun → BlockRun) : (s.modBlock k f).tlb = s.tlb := s.modStrand_tlb k _
@[simp] theorem State.modBlock_tiles (s : State) (k : Nat) (f : BlockRun → BlockRun) : (s.modBlock k f).tiles = s.tiles := s.modStrand_tiles k _
@[simp] theorem State.modBlock_windows (s : State) (k : Nat) (f : BlockRun → BlockRun) : (s.modBlock k f).windows = s.windows := s.modStrand_windows k _
@[simp] theorem State.modBlock_buffers (s : State) (k : Nat) (f : BlockRun → BlockRun) : (s.modBlock k f).buffers = s.buffers := s.modStrand_buffers k _
@[simp] theorem State.modBlock_deques (s : State) (k : Nat) (f : BlockRun → BlockRun) : (s.modBlock k f).deques = s.deques := s.modStrand_deques k _
@[simp] theorem State.modBlock_rings (s : State) (k : Nat) (f : BlockRun → BlockRun) : (s.modBlock k f).rings = s.rings := s.modStrand_rings k _
@[simp] theorem State.modBlock_stagings (s : State) (k : Nat) (f : BlockRun → BlockRun) : (s.modBlock k f).stagings = s.stagings := s.modStrand_stagings k _
@[simp] theorem State.modBlock_sideLog (s : State) (k : Nat) (f : BlockRun → BlockRun) : (s.modBlock k f).sideLog = s.sideLog := s.modStrand_sideLog k _
@[simp] theorem State.modBlock_answers (s : State) (k : Nat) (f : BlockRun → BlockRun) : (s.modBlock k f).answers = s.answers := s.modStrand_answers k _
@[simp] theorem State.modBlock_perf (s : State) (k : Nat) (f : BlockRun → BlockRun) : (s.modBlock k f).perf = s.perf := s.modStrand_perf k _
@[simp] theorem State.modBlock_passed (s : State) (k : Nat) (f : BlockRun → BlockRun) : (s.modBlock k f).passed = s.passed := s.modStrand_passed k _
@[simp] theorem State.modBlock_heldSends (s : State) (k : Nat) (f : BlockRun → BlockRun) : (s.modBlock k f).heldSends = s.heldSends := s.modStrand_heldSends k _
@[simp] theorem State.modBlock_waitKids (s : State) (k : Nat) (f : BlockRun → BlockRun) : (s.modBlock k f).waitKids = s.waitKids := s.modStrand_waitKids k _
@[simp] theorem State.modBlock_placeGen (s : State) (k : Nat) (f : BlockRun → BlockRun) : (s.modBlock k f).placeGen = s.placeGen := s.modStrand_placeGen k _
@[simp] theorem State.modBlock_tasks (s : State) (k : Nat) (f : BlockRun → BlockRun) : (s.modBlock k f).tasks = s.tasks := s.modStrand_tasks k _
@[simp] theorem State.modBlock_engines (s : State) (k : Nat) (f : BlockRun → BlockRun) : (s.modBlock k f).engines = s.engines := s.modStrand_engines k _
@[simp] theorem State.modBlock_requests (s : State) (k : Nat) (f : BlockRun → BlockRun) : (s.modBlock k f).requests = s.requests := s.modStrand_requests k _
@[simp] theorem State.modBlock_domains (s : State) (k : Nat) (f : BlockRun → BlockRun) : (s.modBlock k f).domains = s.domains := s.modStrand_domains k _
@[simp] theorem State.modBlock_stores (s : State) (k : Nat) (f : BlockRun → BlockRun) : (s.modBlock k f).stores = s.stores := s.modStrand_stores k _
@[simp] theorem State.modBlock_queries (s : State) (k : Nat) (f : BlockRun → BlockRun) : (s.modBlock k f).queries = s.queries := s.modStrand_queries k _
@[simp] theorem State.modBlock_colls (s : State) (k : Nat) (f : BlockRun → BlockRun) : (s.modBlock k f).colls = s.colls := s.modStrand_colls k _
@[simp] theorem State.modBlock_barriers (s : State) (k : Nat) (f : BlockRun → BlockRun) : (s.modBlock k f).barriers = s.barriers := s.modStrand_barriers k _
@[simp] theorem State.modBlock_flows (s : State) (k : Nat) (f : BlockRun → BlockRun) : (s.modBlock k f).flows = s.flows := s.modStrand_flows k _
@[simp] theorem State.modBlock_ownerCache (s : State) (k : Nat) (f : BlockRun → BlockRun) : (s.modBlock k f).ownerCache = s.ownerCache := s.modStrand_ownerCache k _
@[simp] theorem State.modBlock_moved (s : State) (k : Nat) (f : BlockRun → BlockRun) : (s.modBlock k f).moved = s.moved := s.modStrand_moved k _
@[simp] theorem State.modBlock_retired (s : State) (k : Nat) (f : BlockRun → BlockRun) : (s.modBlock k f).retired = s.retired := s.modStrand_retired k _
@[simp] theorem State.modBlock_redirs (s : State) (k : Nat) (f : BlockRun → BlockRun) : (s.modBlock k f).redirs = s.redirs := s.modStrand_redirs k _
@[simp] theorem State.modBlock_stubs (s : State) (k : Nat) (f : BlockRun → BlockRun) : (s.modBlock k f).stubs = s.stubs := s.modStrand_stubs k _
@[simp] theorem State.modBlock_owned (s : State) (k : Nat) (f : BlockRun → BlockRun) : (s.modBlock k f).owned = s.owned := s.modStrand_owned k _
@[simp] theorem State.modBlock_incoming (s : State) (k : Nat) (f : BlockRun → BlockRun) : (s.modBlock k f).incoming = s.incoming := s.modStrand_incoming k _
@[simp] theorem State.modBlock_heat (s : State) (k : Nat) (f : BlockRun → BlockRun) : (s.modBlock k f).heat = s.heat := s.modStrand_heat k _
@[simp] theorem State.modBlock_outbox (s : State) (k : Nat) (f : BlockRun → BlockRun) : (s.modBlock k f).outbox = s.outbox := s.modStrand_outbox k _
@[simp] theorem State.modBlock_ages (s : State) (k : Nat) (f : BlockRun → BlockRun) : (s.modBlock k f).ages = s.ages := s.modStrand_ages k _
@[simp] theorem State.modBlock_nextBuf (s : State) (k : Nat) (f : BlockRun → BlockRun) : (s.modBlock k f).nextBuf = s.nextBuf := s.modStrand_nextBuf k _
@[simp] theorem State.modBlock_nextTask (s : State) (k : Nat) (f : BlockRun → BlockRun) : (s.modBlock k f).nextTask = s.nextTask := s.modStrand_nextTask k _
@[simp] theorem State.modBlock_marks (s : State) (k : Nat) (f : BlockRun → BlockRun) : (s.modBlock k f).marks = s.marks := s.modStrand_marks k _

/-! ### `setStatus` -/

@[simp] theorem State.setStatus_agenda (s : State) (k j : Nat) (x : SlotStatus) : (s.setStatus k j x).agenda = s.agenda := s.modBlock_agenda k _
@[simp] theorem State.setStatus_waiting (s : State) (k j : Nat) (x : SlotStatus) : (s.setStatus k j x).waiting = s.waiting := s.modBlock_waiting k _
@[simp] theorem State.setStatus_cur (s : State) (k j : Nat) (x : SlotStatus) : (s.setStatus k j x).cur = s.cur := s.modBlock_cur k _
@[simp] theorem State.setStatus_ticks (s : State) (k j : Nat) (x : SlotStatus) : (s.setStatus k j x).ticks = s.ticks := s.modBlock_ticks k _
@[simp] theorem State.setStatus_rot (s : State) (k j : Nat) (x : SlotStatus) : (s.setStatus k j x).rot = s.rot := s.modBlock_rot k _
@[simp] theorem State.setStatus_due (s : State) (k j : Nat) (x : SlotStatus) : (s.setStatus k j x).due = s.due := s.modBlock_due k _
@[simp] theorem State.setStatus_boot (s : State) (k j : Nat) (x : SlotStatus) : (s.setStatus k j x).boot = s.boot := s.modBlock_boot k _
@[simp] theorem State.setStatus_terraces (s : State) (k j : Nat) (x : SlotStatus) : (s.setStatus k j x).terraces = s.terraces := s.modBlock_terraces k _
@[simp] theorem State.setStatus_harv (s : State) (k j : Nat) (x : SlotStatus) : (s.setStatus k j x).harv = s.harv := s.modBlock_harv k _
@[simp] theorem State.setStatus_colid (s : State) (k j : Nat) (x : SlotStatus) : (s.setStatus k j x).colid = s.colid := s.modBlock_colid k _
@[simp] theorem State.setStatus_croute (s : State) (k j : Nat) (x : SlotStatus) : (s.setStatus k j x).croute = s.croute := s.modBlock_croute k _
@[simp] theorem State.setStatus_cports (s : State) (k j : Nat) (x : SlotStatus) : (s.setStatus k j x).cports = s.cports := s.modBlock_cports k _
@[simp] theorem State.setStatus_escTime (s : State) (k j : Nat) (x : SlotStatus) : (s.setStatus k j x).escTime = s.escTime := s.modBlock_escTime k _
@[simp] theorem State.setStatus_heatctl (s : State) (k j : Nat) (x : SlotStatus) : (s.setStatus k j x).heatctl = s.heatctl := s.modBlock_heatctl k _
@[simp] theorem State.setStatus_migs (s : State) (k j : Nat) (x : SlotStatus) : (s.setStatus k j x).migs = s.migs := s.modBlock_migs k _
@[simp] theorem State.setStatus_ringHold (s : State) (k j : Nat) (x : SlotStatus) : (s.setStatus k j x).ringHold = s.ringHold := s.modBlock_ringHold k _
@[simp] theorem State.setStatus_queues (s : State) (k j : Nat) (x : SlotStatus) : (s.setStatus k j x).queues = s.queues := s.modBlock_queues k _
@[simp] theorem State.setStatus_lastServed (s : State) (k j : Nat) (x : SlotStatus) : (s.setStatus k j x).lastServed = s.lastServed := s.modBlock_lastServed k _
@[simp] theorem State.setStatus_meshReplays (s : State) (k j : Nat) (x : SlotStatus) : (s.setStatus k j x).meshReplays = s.meshReplays := s.modBlock_meshReplays k _
@[simp] theorem State.setStatus_mem (s : State) (k j : Nat) (x : SlotStatus) : (s.setStatus k j x).mem = s.mem := s.modBlock_mem k _
@[simp] theorem State.setStatus_poison (s : State) (k j : Nat) (x : SlotStatus) : (s.setStatus k j x).poison = s.poison := s.modBlock_poison k _
@[simp] theorem State.setStatus_accW (s : State) (k j : Nat) (x : SlotStatus) : (s.setStatus k j x).accW = s.accW := s.modBlock_accW k _
@[simp] theorem State.setStatus_accC (s : State) (k j : Nat) (x : SlotStatus) : (s.setStatus k j x).accC = s.accC := s.modBlock_accC k _
@[simp] theorem State.setStatus_stickyW (s : State) (k j : Nat) (x : SlotStatus) : (s.setStatus k j x).stickyW = s.stickyW := s.modBlock_stickyW k _
@[simp] theorem State.setStatus_stickyC (s : State) (k j : Nat) (x : SlotStatus) : (s.setStatus k j x).stickyC = s.stickyC := s.modBlock_stickyC k _
@[simp] theorem State.setStatus_accPoison (s : State) (k j : Nat) (x : SlotStatus) : (s.setStatus k j x).accPoison = s.accPoison := s.modBlock_accPoison k _
@[simp] theorem State.setStatus_lines (s : State) (k j : Nat) (x : SlotStatus) : (s.setStatus k j x).lines = s.lines := s.modBlock_lines k _
@[simp] theorem State.setStatus_tlb (s : State) (k j : Nat) (x : SlotStatus) : (s.setStatus k j x).tlb = s.tlb := s.modBlock_tlb k _
@[simp] theorem State.setStatus_tiles (s : State) (k j : Nat) (x : SlotStatus) : (s.setStatus k j x).tiles = s.tiles := s.modBlock_tiles k _
@[simp] theorem State.setStatus_windows (s : State) (k j : Nat) (x : SlotStatus) : (s.setStatus k j x).windows = s.windows := s.modBlock_windows k _
@[simp] theorem State.setStatus_buffers (s : State) (k j : Nat) (x : SlotStatus) : (s.setStatus k j x).buffers = s.buffers := s.modBlock_buffers k _
@[simp] theorem State.setStatus_deques (s : State) (k j : Nat) (x : SlotStatus) : (s.setStatus k j x).deques = s.deques := s.modBlock_deques k _
@[simp] theorem State.setStatus_rings (s : State) (k j : Nat) (x : SlotStatus) : (s.setStatus k j x).rings = s.rings := s.modBlock_rings k _
@[simp] theorem State.setStatus_stagings (s : State) (k j : Nat) (x : SlotStatus) : (s.setStatus k j x).stagings = s.stagings := s.modBlock_stagings k _
@[simp] theorem State.setStatus_sideLog (s : State) (k j : Nat) (x : SlotStatus) : (s.setStatus k j x).sideLog = s.sideLog := s.modBlock_sideLog k _
@[simp] theorem State.setStatus_answers (s : State) (k j : Nat) (x : SlotStatus) : (s.setStatus k j x).answers = s.answers := s.modBlock_answers k _
@[simp] theorem State.setStatus_perf (s : State) (k j : Nat) (x : SlotStatus) : (s.setStatus k j x).perf = s.perf := s.modBlock_perf k _
@[simp] theorem State.setStatus_passed (s : State) (k j : Nat) (x : SlotStatus) : (s.setStatus k j x).passed = s.passed := s.modBlock_passed k _
@[simp] theorem State.setStatus_heldSends (s : State) (k j : Nat) (x : SlotStatus) : (s.setStatus k j x).heldSends = s.heldSends := s.modBlock_heldSends k _
@[simp] theorem State.setStatus_waitKids (s : State) (k j : Nat) (x : SlotStatus) : (s.setStatus k j x).waitKids = s.waitKids := s.modBlock_waitKids k _
@[simp] theorem State.setStatus_placeGen (s : State) (k j : Nat) (x : SlotStatus) : (s.setStatus k j x).placeGen = s.placeGen := s.modBlock_placeGen k _
@[simp] theorem State.setStatus_tasks (s : State) (k j : Nat) (x : SlotStatus) : (s.setStatus k j x).tasks = s.tasks := s.modBlock_tasks k _
@[simp] theorem State.setStatus_engines (s : State) (k j : Nat) (x : SlotStatus) : (s.setStatus k j x).engines = s.engines := s.modBlock_engines k _
@[simp] theorem State.setStatus_requests (s : State) (k j : Nat) (x : SlotStatus) : (s.setStatus k j x).requests = s.requests := s.modBlock_requests k _
@[simp] theorem State.setStatus_domains (s : State) (k j : Nat) (x : SlotStatus) : (s.setStatus k j x).domains = s.domains := s.modBlock_domains k _
@[simp] theorem State.setStatus_stores (s : State) (k j : Nat) (x : SlotStatus) : (s.setStatus k j x).stores = s.stores := s.modBlock_stores k _
@[simp] theorem State.setStatus_queries (s : State) (k j : Nat) (x : SlotStatus) : (s.setStatus k j x).queries = s.queries := s.modBlock_queries k _
@[simp] theorem State.setStatus_colls (s : State) (k j : Nat) (x : SlotStatus) : (s.setStatus k j x).colls = s.colls := s.modBlock_colls k _
@[simp] theorem State.setStatus_barriers (s : State) (k j : Nat) (x : SlotStatus) : (s.setStatus k j x).barriers = s.barriers := s.modBlock_barriers k _
@[simp] theorem State.setStatus_flows (s : State) (k j : Nat) (x : SlotStatus) : (s.setStatus k j x).flows = s.flows := s.modBlock_flows k _
@[simp] theorem State.setStatus_ownerCache (s : State) (k j : Nat) (x : SlotStatus) : (s.setStatus k j x).ownerCache = s.ownerCache := s.modBlock_ownerCache k _
@[simp] theorem State.setStatus_moved (s : State) (k j : Nat) (x : SlotStatus) : (s.setStatus k j x).moved = s.moved := s.modBlock_moved k _
@[simp] theorem State.setStatus_retired (s : State) (k j : Nat) (x : SlotStatus) : (s.setStatus k j x).retired = s.retired := s.modBlock_retired k _
@[simp] theorem State.setStatus_redirs (s : State) (k j : Nat) (x : SlotStatus) : (s.setStatus k j x).redirs = s.redirs := s.modBlock_redirs k _
@[simp] theorem State.setStatus_stubs (s : State) (k j : Nat) (x : SlotStatus) : (s.setStatus k j x).stubs = s.stubs := s.modBlock_stubs k _
@[simp] theorem State.setStatus_owned (s : State) (k j : Nat) (x : SlotStatus) : (s.setStatus k j x).owned = s.owned := s.modBlock_owned k _
@[simp] theorem State.setStatus_incoming (s : State) (k j : Nat) (x : SlotStatus) : (s.setStatus k j x).incoming = s.incoming := s.modBlock_incoming k _
@[simp] theorem State.setStatus_heat (s : State) (k j : Nat) (x : SlotStatus) : (s.setStatus k j x).heat = s.heat := s.modBlock_heat k _
@[simp] theorem State.setStatus_outbox (s : State) (k j : Nat) (x : SlotStatus) : (s.setStatus k j x).outbox = s.outbox := s.modBlock_outbox k _
@[simp] theorem State.setStatus_ages (s : State) (k j : Nat) (x : SlotStatus) : (s.setStatus k j x).ages = s.ages := s.modBlock_ages k _
@[simp] theorem State.setStatus_nextBuf (s : State) (k j : Nat) (x : SlotStatus) : (s.setStatus k j x).nextBuf = s.nextBuf := s.modBlock_nextBuf k _
@[simp] theorem State.setStatus_nextTask (s : State) (k j : Nat) (x : SlotStatus) : (s.setStatus k j x).nextTask = s.nextTask := s.modBlock_nextTask k _
@[simp] theorem State.setStatus_marks (s : State) (k j : Nat) (x : SlotStatus) : (s.setStatus k j x).marks = s.marks := s.modBlock_marks k _

/-! ### `setSent` -/

@[simp] theorem State.setSent_agenda (s : State) (k j : Nat) : (s.setSent k j).agenda = s.agenda := s.modBlock_agenda k _
@[simp] theorem State.setSent_waiting (s : State) (k j : Nat) : (s.setSent k j).waiting = s.waiting := s.modBlock_waiting k _
@[simp] theorem State.setSent_cur (s : State) (k j : Nat) : (s.setSent k j).cur = s.cur := s.modBlock_cur k _
@[simp] theorem State.setSent_ticks (s : State) (k j : Nat) : (s.setSent k j).ticks = s.ticks := s.modBlock_ticks k _
@[simp] theorem State.setSent_rot (s : State) (k j : Nat) : (s.setSent k j).rot = s.rot := s.modBlock_rot k _
@[simp] theorem State.setSent_due (s : State) (k j : Nat) : (s.setSent k j).due = s.due := s.modBlock_due k _
@[simp] theorem State.setSent_boot (s : State) (k j : Nat) : (s.setSent k j).boot = s.boot := s.modBlock_boot k _
@[simp] theorem State.setSent_terraces (s : State) (k j : Nat) : (s.setSent k j).terraces = s.terraces := s.modBlock_terraces k _
@[simp] theorem State.setSent_harv (s : State) (k j : Nat) : (s.setSent k j).harv = s.harv := s.modBlock_harv k _
@[simp] theorem State.setSent_colid (s : State) (k j : Nat) : (s.setSent k j).colid = s.colid := s.modBlock_colid k _
@[simp] theorem State.setSent_croute (s : State) (k j : Nat) : (s.setSent k j).croute = s.croute := s.modBlock_croute k _
@[simp] theorem State.setSent_cports (s : State) (k j : Nat) : (s.setSent k j).cports = s.cports := s.modBlock_cports k _
@[simp] theorem State.setSent_escTime (s : State) (k j : Nat) : (s.setSent k j).escTime = s.escTime := s.modBlock_escTime k _
@[simp] theorem State.setSent_heatctl (s : State) (k j : Nat) : (s.setSent k j).heatctl = s.heatctl := s.modBlock_heatctl k _
@[simp] theorem State.setSent_migs (s : State) (k j : Nat) : (s.setSent k j).migs = s.migs := s.modBlock_migs k _
@[simp] theorem State.setSent_ringHold (s : State) (k j : Nat) : (s.setSent k j).ringHold = s.ringHold := s.modBlock_ringHold k _
@[simp] theorem State.setSent_queues (s : State) (k j : Nat) : (s.setSent k j).queues = s.queues := s.modBlock_queues k _
@[simp] theorem State.setSent_lastServed (s : State) (k j : Nat) : (s.setSent k j).lastServed = s.lastServed := s.modBlock_lastServed k _
@[simp] theorem State.setSent_meshReplays (s : State) (k j : Nat) : (s.setSent k j).meshReplays = s.meshReplays := s.modBlock_meshReplays k _
@[simp] theorem State.setSent_mem (s : State) (k j : Nat) : (s.setSent k j).mem = s.mem := s.modBlock_mem k _
@[simp] theorem State.setSent_poison (s : State) (k j : Nat) : (s.setSent k j).poison = s.poison := s.modBlock_poison k _
@[simp] theorem State.setSent_accW (s : State) (k j : Nat) : (s.setSent k j).accW = s.accW := s.modBlock_accW k _
@[simp] theorem State.setSent_accC (s : State) (k j : Nat) : (s.setSent k j).accC = s.accC := s.modBlock_accC k _
@[simp] theorem State.setSent_stickyW (s : State) (k j : Nat) : (s.setSent k j).stickyW = s.stickyW := s.modBlock_stickyW k _
@[simp] theorem State.setSent_stickyC (s : State) (k j : Nat) : (s.setSent k j).stickyC = s.stickyC := s.modBlock_stickyC k _
@[simp] theorem State.setSent_accPoison (s : State) (k j : Nat) : (s.setSent k j).accPoison = s.accPoison := s.modBlock_accPoison k _
@[simp] theorem State.setSent_lines (s : State) (k j : Nat) : (s.setSent k j).lines = s.lines := s.modBlock_lines k _
@[simp] theorem State.setSent_tlb (s : State) (k j : Nat) : (s.setSent k j).tlb = s.tlb := s.modBlock_tlb k _
@[simp] theorem State.setSent_tiles (s : State) (k j : Nat) : (s.setSent k j).tiles = s.tiles := s.modBlock_tiles k _
@[simp] theorem State.setSent_windows (s : State) (k j : Nat) : (s.setSent k j).windows = s.windows := s.modBlock_windows k _
@[simp] theorem State.setSent_buffers (s : State) (k j : Nat) : (s.setSent k j).buffers = s.buffers := s.modBlock_buffers k _
@[simp] theorem State.setSent_deques (s : State) (k j : Nat) : (s.setSent k j).deques = s.deques := s.modBlock_deques k _
@[simp] theorem State.setSent_rings (s : State) (k j : Nat) : (s.setSent k j).rings = s.rings := s.modBlock_rings k _
@[simp] theorem State.setSent_stagings (s : State) (k j : Nat) : (s.setSent k j).stagings = s.stagings := s.modBlock_stagings k _
@[simp] theorem State.setSent_sideLog (s : State) (k j : Nat) : (s.setSent k j).sideLog = s.sideLog := s.modBlock_sideLog k _
@[simp] theorem State.setSent_answers (s : State) (k j : Nat) : (s.setSent k j).answers = s.answers := s.modBlock_answers k _
@[simp] theorem State.setSent_perf (s : State) (k j : Nat) : (s.setSent k j).perf = s.perf := s.modBlock_perf k _
@[simp] theorem State.setSent_passed (s : State) (k j : Nat) : (s.setSent k j).passed = s.passed := s.modBlock_passed k _
@[simp] theorem State.setSent_heldSends (s : State) (k j : Nat) : (s.setSent k j).heldSends = s.heldSends := s.modBlock_heldSends k _
@[simp] theorem State.setSent_waitKids (s : State) (k j : Nat) : (s.setSent k j).waitKids = s.waitKids := s.modBlock_waitKids k _
@[simp] theorem State.setSent_placeGen (s : State) (k j : Nat) : (s.setSent k j).placeGen = s.placeGen := s.modBlock_placeGen k _
@[simp] theorem State.setSent_tasks (s : State) (k j : Nat) : (s.setSent k j).tasks = s.tasks := s.modBlock_tasks k _
@[simp] theorem State.setSent_engines (s : State) (k j : Nat) : (s.setSent k j).engines = s.engines := s.modBlock_engines k _
@[simp] theorem State.setSent_requests (s : State) (k j : Nat) : (s.setSent k j).requests = s.requests := s.modBlock_requests k _
@[simp] theorem State.setSent_domains (s : State) (k j : Nat) : (s.setSent k j).domains = s.domains := s.modBlock_domains k _
@[simp] theorem State.setSent_stores (s : State) (k j : Nat) : (s.setSent k j).stores = s.stores := s.modBlock_stores k _
@[simp] theorem State.setSent_queries (s : State) (k j : Nat) : (s.setSent k j).queries = s.queries := s.modBlock_queries k _
@[simp] theorem State.setSent_colls (s : State) (k j : Nat) : (s.setSent k j).colls = s.colls := s.modBlock_colls k _
@[simp] theorem State.setSent_barriers (s : State) (k j : Nat) : (s.setSent k j).barriers = s.barriers := s.modBlock_barriers k _
@[simp] theorem State.setSent_flows (s : State) (k j : Nat) : (s.setSent k j).flows = s.flows := s.modBlock_flows k _
@[simp] theorem State.setSent_ownerCache (s : State) (k j : Nat) : (s.setSent k j).ownerCache = s.ownerCache := s.modBlock_ownerCache k _
@[simp] theorem State.setSent_moved (s : State) (k j : Nat) : (s.setSent k j).moved = s.moved := s.modBlock_moved k _
@[simp] theorem State.setSent_retired (s : State) (k j : Nat) : (s.setSent k j).retired = s.retired := s.modBlock_retired k _
@[simp] theorem State.setSent_redirs (s : State) (k j : Nat) : (s.setSent k j).redirs = s.redirs := s.modBlock_redirs k _
@[simp] theorem State.setSent_stubs (s : State) (k j : Nat) : (s.setSent k j).stubs = s.stubs := s.modBlock_stubs k _
@[simp] theorem State.setSent_owned (s : State) (k j : Nat) : (s.setSent k j).owned = s.owned := s.modBlock_owned k _
@[simp] theorem State.setSent_incoming (s : State) (k j : Nat) : (s.setSent k j).incoming = s.incoming := s.modBlock_incoming k _
@[simp] theorem State.setSent_heat (s : State) (k j : Nat) : (s.setSent k j).heat = s.heat := s.modBlock_heat k _
@[simp] theorem State.setSent_outbox (s : State) (k j : Nat) : (s.setSent k j).outbox = s.outbox := s.modBlock_outbox k _
@[simp] theorem State.setSent_ages (s : State) (k j : Nat) : (s.setSent k j).ages = s.ages := s.modBlock_ages k _
@[simp] theorem State.setSent_nextBuf (s : State) (k j : Nat) : (s.setSent k j).nextBuf = s.nextBuf := s.modBlock_nextBuf k _
@[simp] theorem State.setSent_nextTask (s : State) (k j : Nat) : (s.setSent k j).nextTask = s.nextTask := s.modBlock_nextTask k _
@[simp] theorem State.setSent_marks (s : State) (k j : Nat) : (s.setSent k j).marks = s.marks := s.modBlock_marks k _

/-! ### `settle` -/

@[simp] theorem State.settle_agenda (s : State) (k : Nat) : (s.settle k).agenda = s.agenda := s.modStrand_agenda k _
@[simp] theorem State.settle_waiting (s : State) (k : Nat) : (s.settle k).waiting = s.waiting := s.modStrand_waiting k _
@[simp] theorem State.settle_cur (s : State) (k : Nat) : (s.settle k).cur = s.cur := s.modStrand_cur k _
@[simp] theorem State.settle_ticks (s : State) (k : Nat) : (s.settle k).ticks = s.ticks := s.modStrand_ticks k _
@[simp] theorem State.settle_rot (s : State) (k : Nat) : (s.settle k).rot = s.rot := s.modStrand_rot k _
@[simp] theorem State.settle_due (s : State) (k : Nat) : (s.settle k).due = s.due := s.modStrand_due k _
@[simp] theorem State.settle_boot (s : State) (k : Nat) : (s.settle k).boot = s.boot := s.modStrand_boot k _
@[simp] theorem State.settle_terraces (s : State) (k : Nat) : (s.settle k).terraces = s.terraces := s.modStrand_terraces k _
@[simp] theorem State.settle_harv (s : State) (k : Nat) : (s.settle k).harv = s.harv := s.modStrand_harv k _
@[simp] theorem State.settle_colid (s : State) (k : Nat) : (s.settle k).colid = s.colid := s.modStrand_colid k _
@[simp] theorem State.settle_croute (s : State) (k : Nat) : (s.settle k).croute = s.croute := s.modStrand_croute k _
@[simp] theorem State.settle_cports (s : State) (k : Nat) : (s.settle k).cports = s.cports := s.modStrand_cports k _
@[simp] theorem State.settle_escTime (s : State) (k : Nat) : (s.settle k).escTime = s.escTime := s.modStrand_escTime k _
@[simp] theorem State.settle_heatctl (s : State) (k : Nat) : (s.settle k).heatctl = s.heatctl := s.modStrand_heatctl k _
@[simp] theorem State.settle_migs (s : State) (k : Nat) : (s.settle k).migs = s.migs := s.modStrand_migs k _
@[simp] theorem State.settle_ringHold (s : State) (k : Nat) : (s.settle k).ringHold = s.ringHold := s.modStrand_ringHold k _
@[simp] theorem State.settle_queues (s : State) (k : Nat) : (s.settle k).queues = s.queues := s.modStrand_queues k _
@[simp] theorem State.settle_lastServed (s : State) (k : Nat) : (s.settle k).lastServed = s.lastServed := s.modStrand_lastServed k _
@[simp] theorem State.settle_meshReplays (s : State) (k : Nat) : (s.settle k).meshReplays = s.meshReplays := s.modStrand_meshReplays k _
@[simp] theorem State.settle_mem (s : State) (k : Nat) : (s.settle k).mem = s.mem := s.modStrand_mem k _
@[simp] theorem State.settle_poison (s : State) (k : Nat) : (s.settle k).poison = s.poison := s.modStrand_poison k _
@[simp] theorem State.settle_accW (s : State) (k : Nat) : (s.settle k).accW = s.accW := s.modStrand_accW k _
@[simp] theorem State.settle_accC (s : State) (k : Nat) : (s.settle k).accC = s.accC := s.modStrand_accC k _
@[simp] theorem State.settle_stickyW (s : State) (k : Nat) : (s.settle k).stickyW = s.stickyW := s.modStrand_stickyW k _
@[simp] theorem State.settle_stickyC (s : State) (k : Nat) : (s.settle k).stickyC = s.stickyC := s.modStrand_stickyC k _
@[simp] theorem State.settle_accPoison (s : State) (k : Nat) : (s.settle k).accPoison = s.accPoison := s.modStrand_accPoison k _
@[simp] theorem State.settle_lines (s : State) (k : Nat) : (s.settle k).lines = s.lines := s.modStrand_lines k _
@[simp] theorem State.settle_tlb (s : State) (k : Nat) : (s.settle k).tlb = s.tlb := s.modStrand_tlb k _
@[simp] theorem State.settle_tiles (s : State) (k : Nat) : (s.settle k).tiles = s.tiles := s.modStrand_tiles k _
@[simp] theorem State.settle_windows (s : State) (k : Nat) : (s.settle k).windows = s.windows := s.modStrand_windows k _
@[simp] theorem State.settle_buffers (s : State) (k : Nat) : (s.settle k).buffers = s.buffers := s.modStrand_buffers k _
@[simp] theorem State.settle_deques (s : State) (k : Nat) : (s.settle k).deques = s.deques := s.modStrand_deques k _
@[simp] theorem State.settle_rings (s : State) (k : Nat) : (s.settle k).rings = s.rings := s.modStrand_rings k _
@[simp] theorem State.settle_stagings (s : State) (k : Nat) : (s.settle k).stagings = s.stagings := s.modStrand_stagings k _
@[simp] theorem State.settle_sideLog (s : State) (k : Nat) : (s.settle k).sideLog = s.sideLog := s.modStrand_sideLog k _
@[simp] theorem State.settle_answers (s : State) (k : Nat) : (s.settle k).answers = s.answers := s.modStrand_answers k _
@[simp] theorem State.settle_perf (s : State) (k : Nat) : (s.settle k).perf = s.perf := s.modStrand_perf k _
@[simp] theorem State.settle_passed (s : State) (k : Nat) : (s.settle k).passed = s.passed := s.modStrand_passed k _
@[simp] theorem State.settle_heldSends (s : State) (k : Nat) : (s.settle k).heldSends = s.heldSends := s.modStrand_heldSends k _
@[simp] theorem State.settle_waitKids (s : State) (k : Nat) : (s.settle k).waitKids = s.waitKids := s.modStrand_waitKids k _
@[simp] theorem State.settle_placeGen (s : State) (k : Nat) : (s.settle k).placeGen = s.placeGen := s.modStrand_placeGen k _
@[simp] theorem State.settle_tasks (s : State) (k : Nat) : (s.settle k).tasks = s.tasks := s.modStrand_tasks k _
@[simp] theorem State.settle_engines (s : State) (k : Nat) : (s.settle k).engines = s.engines := s.modStrand_engines k _
@[simp] theorem State.settle_requests (s : State) (k : Nat) : (s.settle k).requests = s.requests := s.modStrand_requests k _
@[simp] theorem State.settle_domains (s : State) (k : Nat) : (s.settle k).domains = s.domains := s.modStrand_domains k _
@[simp] theorem State.settle_stores (s : State) (k : Nat) : (s.settle k).stores = s.stores := s.modStrand_stores k _
@[simp] theorem State.settle_queries (s : State) (k : Nat) : (s.settle k).queries = s.queries := s.modStrand_queries k _
@[simp] theorem State.settle_colls (s : State) (k : Nat) : (s.settle k).colls = s.colls := s.modStrand_colls k _
@[simp] theorem State.settle_barriers (s : State) (k : Nat) : (s.settle k).barriers = s.barriers := s.modStrand_barriers k _
@[simp] theorem State.settle_flows (s : State) (k : Nat) : (s.settle k).flows = s.flows := s.modStrand_flows k _
@[simp] theorem State.settle_ownerCache (s : State) (k : Nat) : (s.settle k).ownerCache = s.ownerCache := s.modStrand_ownerCache k _
@[simp] theorem State.settle_moved (s : State) (k : Nat) : (s.settle k).moved = s.moved := s.modStrand_moved k _
@[simp] theorem State.settle_retired (s : State) (k : Nat) : (s.settle k).retired = s.retired := s.modStrand_retired k _
@[simp] theorem State.settle_redirs (s : State) (k : Nat) : (s.settle k).redirs = s.redirs := s.modStrand_redirs k _
@[simp] theorem State.settle_stubs (s : State) (k : Nat) : (s.settle k).stubs = s.stubs := s.modStrand_stubs k _
@[simp] theorem State.settle_owned (s : State) (k : Nat) : (s.settle k).owned = s.owned := s.modStrand_owned k _
@[simp] theorem State.settle_incoming (s : State) (k : Nat) : (s.settle k).incoming = s.incoming := s.modStrand_incoming k _
@[simp] theorem State.settle_heat (s : State) (k : Nat) : (s.settle k).heat = s.heat := s.modStrand_heat k _
@[simp] theorem State.settle_outbox (s : State) (k : Nat) : (s.settle k).outbox = s.outbox := s.modStrand_outbox k _
@[simp] theorem State.settle_ages (s : State) (k : Nat) : (s.settle k).ages = s.ages := s.modStrand_ages k _
@[simp] theorem State.settle_nextBuf (s : State) (k : Nat) : (s.settle k).nextBuf = s.nextBuf := s.modStrand_nextBuf k _
@[simp] theorem State.settle_nextTask (s : State) (k : Nat) : (s.settle k).nextTask = s.nextTask := s.modStrand_nextTask k _
@[simp] theorem State.settle_marks (s : State) (k : Nat) : (s.settle k).marks = s.marks := s.modStrand_marks k _

end Sys2Proof.Machine
end

