-- ==== Sys2Proof/Laws/Ops.lean ====
section
/-! SUPPORT. Tables and memory: a read after a write, what a write leaves alone, and that every memory operation keeps
the canonical form. -/

namespace Sys2Proof.Machine

/-! ### Tables -/

theorem Tab.find_put_same {α : Type} (t : Tab α) (i : Nat) (x : α) : (t.put i x).find i = some x := by
  induction t with
  | nil => simp [Tab.put, Tab.find]
  | cons c t ih =>
    obtain ⟨k, v⟩ := c
    simp only [Tab.put]
    split
    · simp [Tab.find]
    · split
      · simp [Tab.find]
      · rw [Tab.find, if_neg (by omega)]
        exact ih

theorem Tab.find_put_other {α : Type} (t : Tab α) (i j : Nat) (x : α) (h : j ≠ i) : (t.put i x).find j = t.find j := by
  induction t with
  | nil => simp [Tab.put, Tab.find]; omega
  | cons c t ih =>
    obtain ⟨k, v⟩ := c
    simp only [Tab.put]
    split
    · rw [Tab.find, if_neg (by omega)]
    · split
      · subst_vars
        rw [Tab.find, if_neg (by omega), Tab.find, if_neg (by omega)]
      · rw [Tab.find, Tab.find]
        split
        · rfl
        · exact ih

/-! ### The canonical form -/

theorem Memory.wf_cons {k : Nat} {v : Byte} {t : List Host.Cell} :
    Memory.wf ((k, v) :: t) ↔ v ≠ 0 ∧ Memory.wf t ∧ (∀ c ∈ t, k < c.1) := by
  induction t generalizing k v with
  | nil => simp [Memory.wf]
  | cons c t ih =>
    obtain ⟨a, b⟩ := c
    simp only [Memory.wf, Bool.and_eq_true, bne_iff_ne, decide_eq_true_eq, and_assoc]
    constructor
    · rintro ⟨hv, hk, hw⟩
      refine ⟨hv, hw, ?_⟩
      intro x hx
      rcases List.mem_cons.1 hx with rfl | hx
      · exact hk
      · exact Nat.lt_trans hk ((ih.1 hw).2.2 x hx)
    · rintro ⟨hv, hw, hk⟩
      exact ⟨hv, hk (a, b) (by simp), hw⟩

theorem Memory.mem_erase {m : List Host.Cell} {i : Nat} {c : Host.Cell} (h : c ∈ Memory.erase m i) : c ∈ m := by
  induction m with
  | nil => simp [Memory.erase] at h
  | cons d t ih =>
    obtain ⟨k, v⟩ := d
    simp only [Memory.erase] at h
    split at h
    · exact List.mem_cons_of_mem _ h
    · split at h
      · exact h
      · rcases List.mem_cons.1 h with rfl | h
        · simp
        · exact List.mem_cons_of_mem _ (ih h)

theorem Memory.wf_erase {m : List Host.Cell} (i : Nat) (h : Memory.wf m) : Memory.wf (Memory.erase m i) := by
  induction m with
  | nil => exact h
  | cons d t ih =>
    obtain ⟨k, v⟩ := d
    obtain ⟨hv, ht, hk⟩ := Memory.wf_cons.1 h
    simp only [Memory.erase]
    split
    · exact ht
    · split
      · exact h
      · exact Memory.wf_cons.2 ⟨hv, ih ht, fun c hc => hk c (Memory.mem_erase hc)⟩

theorem Memory.mem_insert {m : List Host.Cell} {i : Nat} {x : Byte} {c : Host.Cell} (h : c ∈ Memory.insert m i x) :
    c = (i, x) ∨ c ∈ m := by
  induction m with
  | nil => simpa [Memory.insert] using h
  | cons d t ih =>
    obtain ⟨k, v⟩ := d
    simp only [Memory.insert] at h
    split at h
    · simpa using h
    · split at h
      · rcases List.mem_cons.1 h with rfl | h
        · exact .inl rfl
        · exact .inr (List.mem_cons_of_mem _ h)
      · rcases List.mem_cons.1 h with rfl | h
        · exact .inr (by simp)
        · rcases ih h with h | h
          · exact .inl h
          · exact .inr (List.mem_cons_of_mem _ h)

theorem Memory.wf_insert {m : List Host.Cell} (i : Nat) {x : Byte} (hx : x ≠ 0) (h : Memory.wf m) :
    Memory.wf (Memory.insert m i x) := by
  induction m with
  | nil => simpa [Memory.insert, Memory.wf] using hx
  | cons d t ih =>
    obtain ⟨k, v⟩ := d
    obtain ⟨hv, ht, hk⟩ := Memory.wf_cons.1 h
    simp only [Memory.insert]
    split
    · rename_i hik
      refine Memory.wf_cons.2 ⟨hx, h, fun c hc => ?_⟩
      rcases List.mem_cons.1 hc with rfl | hc
      · exact hik
      · exact Nat.lt_trans hik (hk c hc)
    · split
      · rename_i hik
        exact Memory.wf_cons.2 ⟨hx, ht, fun c hc => hik ▸ hk c hc⟩
      · refine Memory.wf_cons.2 ⟨hv, ih ht, fun c hc => ?_⟩
        rcases Memory.mem_insert hc with rfl | hc
        · simp only; omega
        · exact hk c hc

/-- A write keeps the canonical form. -/
theorem Memory.wf_write {m : List Host.Cell} (i : Nat) (x : Byte) (h : Memory.wf m) : Memory.wf (Memory.write m i x) := by
  unfold Memory.write
  split
  · exact Memory.wf_erase i h
  · rename_i hx; exact Memory.wf_insert i hx h

theorem Memory.wf_writeN {m : List Host.Cell} (a : Nat) (d : List Byte) (h : Memory.wf m) : Memory.wf (Memory.writeN m a d) := by
  induction d generalizing m a with
  | nil => exact h
  | cons b t ih => exact ih (a + 1) (Memory.wf_write a b h)

theorem Memory.wf_writeCells {m : List Host.Cell} (cs : List Host.Cell) (h : Memory.wf m) :
    Memory.wf (Memory.writeCells m cs) := by
  unfold Memory.writeCells
  induction cs generalizing m with
  | nil => exact h
  | cons c t ih => exact ih (Memory.wf_write c.1 c.2 h)

theorem Memory.wf_clear {m : List Host.Cell} (a n : Nat) (h : Memory.wf m) : Memory.wf (Memory.clear m a n) := by
  unfold Memory.clear
  generalize Memory.range m a n = cs
  induction cs generalizing m with
  | nil => exact h
  | cons c t ih => exact ih (Memory.wf_erase c.1 h)

theorem Memory.wf_copy {dst : List Host.Cell} (src : List Host.Cell) (a b n : Nat) (h : Memory.wf dst) :
    Memory.wf (Memory.copy src a dst b n) := Memory.wf_writeCells _ (Memory.wf_clear b n h)

/-! ### Reading after writing -/

theorem Memory.read_erase_other (m : List Host.Cell) {i j : Nat} (h : j ≠ i) : Memory.read (Memory.erase m i) j = Memory.read m j := by
  induction m with
  | nil => rfl
  | cons d t ih =>
    obtain ⟨k, v⟩ := d
    simp only [Memory.erase]
    split
    · rw [Memory.read, if_neg (by omega)]
    · split
      · rfl
      · rw [Memory.read, Memory.read, ih]

theorem Memory.read_absent {m : List Host.Cell} {i : Nat} (h : ∀ c ∈ m, i ≠ c.1) : Memory.read m i = 0 := by
  induction m with
  | nil => rfl
  | cons d t ih =>
    obtain ⟨k, v⟩ := d
    rw [Memory.read, if_neg (fun e => h (k, v) (by simp) e.symm)]
    exact ih fun c hc => h c (List.mem_cons_of_mem _ hc)

theorem Memory.read_erase_same {m : List Host.Cell} (i : Nat) (h : Memory.wf m) : Memory.read (Memory.erase m i) i = 0 := by
  induction m with
  | nil => rfl
  | cons d t ih =>
    obtain ⟨k, v⟩ := d
    obtain ⟨_, ht, hk⟩ := Memory.wf_cons.1 h
    simp only [Memory.erase]
    split
    · subst_vars
      exact Memory.read_absent fun c hc => by have := hk c hc; omega
    · split
      · refine Memory.read_absent fun c hc => ?_
        rcases List.mem_cons.1 hc with rfl | hc
        · simpa using fun e => ‹¬_› e.symm
        · have := hk c hc; omega
      · rw [Memory.read, if_neg (by omega)]
        exact ih ht

theorem Memory.read_insert_same (m : List Host.Cell) (i : Nat) (x : Byte) : Memory.read (Memory.insert m i x) i = x := by
  induction m with
  | nil => simp [Memory.insert, Memory.read]
  | cons d t ih =>
    obtain ⟨k, v⟩ := d
    simp only [Memory.insert]
    split
    · simp [Memory.read]
    · split
      · simp [Memory.read]
      · rw [Memory.read, if_neg (by omega)]
        exact ih

theorem Memory.read_insert_other (m : List Host.Cell) {i j : Nat} (x : Byte) (h : j ≠ i) :
    Memory.read (Memory.insert m i x) j = Memory.read m j := by
  induction m with
  | nil => simp [Memory.insert, Memory.read]; omega
  | cons d t ih =>
    obtain ⟨k, v⟩ := d
    simp only [Memory.insert]
    split
    · rw [Memory.read, if_neg (by omega)]
    · split
      · subst_vars
        rw [Memory.read, if_neg (by omega), Memory.read, if_neg (by omega)]
      · rw [Memory.read, Memory.read, ih]

/-- A read after a write: the value written there, and every other byte as before. -/
theorem Memory.read_write {m : List Host.Cell} (h : Memory.wf m) (i j : Nat) (x : Byte) :
    Memory.read (Memory.write m i x) j = if j = i then x else Memory.read m j := by
  unfold Memory.write
  split <;> split
  · subst_vars; exact Memory.read_erase_same j h
  · exact Memory.read_erase_other m ‹_›
  · subst_vars; exact Memory.read_insert_same m j x
  · exact Memory.read_insert_other m x ‹_›

theorem Memory.read_writeCells_other {m : List Host.Cell} (cs : List Host.Cell) {j : Nat} (h : ∀ c ∈ cs, c.1 ≠ j) :
    Memory.read (Memory.writeCells m cs) j = Memory.read m j := by
  unfold Memory.writeCells
  induction cs generalizing m with
  | nil => rfl
  | cons c t ih =>
    rw [List.foldl_cons, ih fun d hd => h d (List.mem_cons_of_mem _ hd)]
    have hc : j ≠ c.1 := fun e => h c (by simp) e.symm
    unfold Memory.write
    split
    · exact Memory.read_erase_other m hc
    · exact Memory.read_insert_other m _ hc

/-- Bytes written at a home: what they cover reads as written. -/
theorem Memory.read_writeN {m : List Host.Cell} (h : Memory.wf m) (a : Nat) (d : List Byte) (j : Nat) :
    Memory.read (Memory.writeN m a d) j = if a ≤ j ∧ j < a + d.length then (d[j - a]?).getD 0 else Memory.read m j := by
  induction d generalizing m a with
  | nil => simp only [Memory.writeN, List.length_nil]; rw [if_neg (by omega)]
  | cons b t ih =>
    rw [Memory.writeN, ih (Memory.wf_write a b h), Memory.read_write h]
    by_cases h1 : j = a
    · subst h1
      rw [if_neg (by omega), if_pos rfl, if_pos (by simp)]
      simp
    · by_cases h2 : a + 1 ≤ j ∧ j < a + 1 + t.length
      · have e : j - a = j - (a + 1) + 1 := by omega
        simp only [h2, and_self, if_true, List.length_cons]
        rw [if_pos (by omega), e, List.getElem?_cons_succ]
      · simp only [List.length_cons]
        rw [if_neg h2, if_neg h1, if_neg (by omega)]

/-! ### Bytes of a state's memory -/

/-- Cells performed at their home leave every other byte as it reads. -/
theorem State.performHome_read (s : State) (cells : List Host.Cell) (older : Nat → Nat → Bool) {j : Nat}
    (h : ∀ c ∈ cells, c.1 ≠ j) : Memory.read (s.performHome cells older).mem j = Memory.read s.mem j :=
  Memory.read_writeCells_other cells h

theorem State.performHome_wf (s : State) (cells : List Host.Cell) (older : Nat → Nat → Bool) (h : Memory.wf s.mem) :
    Memory.wf (s.performHome cells older).mem := Memory.wf_writeCells cells h

theorem State.writeHome_wf (s : State) (key : Nat) (d : List Byte) (h : Memory.wf s.mem) : Memory.wf (s.writeHome key d).mem :=
  s.performHome_wf _ _ h

/-- Bytes written at a home leave every byte outside them as it reads. -/
theorem State.writeHome_read (s : State) (key : Nat) (d : List Byte) {j : Nat} (h : j < key ∨ key + d.length ≤ j) :
    Memory.read (s.writeHome key d).mem j = Memory.read s.mem j := by
  refine s.performHome_read _ _ fun c hc => ?_
  obtain ⟨x, hx, rfl⟩ := List.mem_map.1 hc
  have hl : x.1 < d.length := by
    have := (List.of_mem_zip hx).1
    simpa using this
  simp only
  omega

theorem State.carry_wf (s : State) (scope point : Nat) (keys : List Nat) (outer : Nat) (h : Memory.wf s.mem) :
    Memory.wf (s.carry scope point keys outer).mem :=
  s.performHome_wf _ (fun _ _ => true) h

theorem State.drainEgress_wf (s : State) (p : Nat → Bool) (h : Memory.wf s.mem) : Memory.wf (s.drainEgress p).mem := by
  unfold State.drainEgress
  split
  · exact h
  · exact s.carry_wf _ _ _ _ h

theorem State.restoreAcc_wf (s : State) (id : Nat) (h : Memory.wf s.accW) : Memory.wf (s.restoreAcc id).accW :=
  Memory.wf_copy s.accC _ _ _ h

theorem State.commitAcc_wf (s : State) (id : Nat) (h : Memory.wf s.accC) : Memory.wf (s.commitAcc id).accC :=
  Memory.wf_copy s.accW _ _ _ h

theorem State.reset_wf : Memory.wf State.reset.mem ∧ Memory.wf State.reset.accW ∧ Memory.wf State.reset.accC := by decide

end Sys2Proof.Machine
end

