-- ==== Sys2Proof/Laws/Invariant.lean ====
section
/-! SUPPORT. The machine's invariant (`State.Inv`): it holds right after reset, what leaves its fields alone keeps it, and so
do the shared operations over strands, tasks, Terraces, memory and the fault ring. -/

namespace Sys2Proof.Machine

/-- The invariant holds right after reset. -/
theorem State.inv_reset : State.reset.Inv :=
  ⟨State.reset_wf, by decide, by decide, by decide, by decide, nofun⟩

/-- What changes none of the invariant's fields keeps it. -/
theorem State.Inv.keep {s s' : State} (h : s.Inv) (m : s'.mem = s.mem) (w : s'.accW = s.accW) (c : s'.accC = s.accC)
    (t : s'.terraces = s.terraces) (r : s'.ringHold = s.ringHold) (e : s'.escTime = s.escTime) (b : s'.boot = s.boot)
    (k : s'.tasks = s.tasks) : s'.Inv := by
  obtain ⟨h1, h2, h3, h4, h5, h6⟩ := h
  exact ⟨by simpa [State.memOk, m, w, c] using h1, t ▸ h2, r ▸ h3, e ▸ h4, b ▸ h5, k ▸ h6⟩

theorem State.inv_setStrand {s : State} (k : Nat) (t : Strand) (h : s.Inv) : (s.setStrand k t).Inv :=
  h.keep rfl rfl rfl rfl rfl rfl rfl rfl

theorem State.inv_modStrand {s : State} (k : Nat) (f : Strand → Strand) (h : s.Inv) : (s.modStrand k f).Inv := by
  unfold State.modStrand
  split
  · exact State.inv_setStrand k _ h
  · exact h

theorem State.inv_modBlock {s : State} (k : Nat) (f : BlockRun → BlockRun) (h : s.Inv) : (s.modBlock k f).Inv :=
  State.inv_modStrand k _ h

theorem State.task_ok {s : State} (h : s.Inv) (i : Nat) : (s.task i).Ok := by
  unfold State.task
  cases e : s.tasks[i]? with
  | none => exact ⟨by decide, by decide, by decide, by decide⟩
  | some t => exact h.tasks t (List.mem_of_getElem? e)

/-- A change of a task that leaves TAGWIN and RCLIM in their ranges keeps the invariant. -/
theorem State.inv_modTask {s : State} (i : Nat) (f : Task → Task) (hf : ∀ t, t.Ok → (f t).Ok) (h : s.Inv) : (s.modTask i f).Inv := by
  have ok := hf _ (State.task_ok h i)
  obtain ⟨h1, h2, h3, h4, h5, h6⟩ := h
  refine ⟨h1, h2, h3, h4, h5, fun t ht => ?_⟩
  rcases List.mem_or_eq_of_mem_set ht with h | h
  · exact h6 t h
  · exact h ▸ ok

theorem State.inv_modTerrace {s : State} (t : Nat) (f : Terrace → Terrace) (h : s.Inv) : (s.modTerrace t f).Inv := by
  obtain ⟨h1, h2, h3, h4, h5, h6⟩ := h
  exact ⟨h1, by simpa [State.modTerrace] using h2, h3, h4, h5, h6⟩

theorem State.inv_push {s : State} (e : Instr) (h : s.Inv) : (s.push e).Inv := h.keep rfl rfl rfl rfl rfl rfl rfl rfl
theorem State.inv_hold {s : State} (e : Instr) (h : s.Inv) : (s.hold e).Inv := h.keep rfl rfl rfl rfl rfl rfl rfl rfl
theorem State.inv_send {s : State} (m : OutMsg) (h : s.Inv) : (s.send m).Inv := h.keep rfl rfl rfl rfl rfl rfl rfl rfl
theorem State.inv_tick {s : State} (h : s.Inv) : s.tick.Inv := h.keep rfl rfl rfl rfl rfl rfl rfl rfl
theorem State.inv_addPerf {s : State} (p c n : Nat) (h : s.Inv) : (s.addPerf p c n).Inv := h.keep rfl rfl rfl rfl rfl rfl rfl rfl

theorem State.inv_performHome {s : State} (cells : List Host.Cell) (older : Nat → Nat → Bool) (h : s.Inv) :
    (s.performHome cells older).Inv := by
  obtain ⟨⟨m, w, c⟩, h2, h3, h4, h5, h6⟩ := h
  exact ⟨⟨State.performHome_wf s cells older m, w, c⟩, h2, h3, h4, h5, h6⟩

theorem State.inv_writeHome {s : State} (key : Nat) (d : List Byte) (h : s.Inv) : (s.writeHome key d).Inv :=
  State.inv_performHome _ _ h

theorem State.inv_carry {s : State} (scope point : Nat) (keys : List Nat) (outer : Nat) (h : s.Inv) :
    (s.carry scope point keys outer).Inv := by
  obtain ⟨⟨m, w, c⟩, h2, h3, h4, h5, h6⟩ := h
  exact ⟨⟨State.carry_wf s _ _ _ _ m, w, c⟩, h2, h3, h4, h5, h6⟩

theorem State.inv_drainEgress {s : State} (p : Nat → Bool) (h : s.Inv) : (s.drainEgress p).Inv := by
  unfold State.drainEgress
  split
  · exact h
  · exact State.inv_carry _ _ _ _ h

theorem State.inv_performAt {s : State} (k : Nat) (t : Strand) (scope : Nat) (va block : Word) (cells : List Host.Cell) (h : s.Inv) :
    (s.performAt k t scope va block cells).Inv := by
  unfold State.performAt
  split
  · exact State.inv_performHome _ _ (State.inv_drainEgress _ h)
  · exact h.keep rfl rfl rfl rfl rfl rfl rfl rfl

theorem State.inv_restoreAcc {s : State} (id : Nat) (h : s.Inv) : (s.restoreAcc id).Inv := by
  obtain ⟨⟨m, w, c⟩, h2, h3, h4, h5, h6⟩ := h
  exact ⟨⟨m, State.restoreAcc_wf s id w, c⟩, h2, h3, h4, h5, h6⟩

theorem State.inv_commitAcc {s : State} (id : Nat) (h : s.Inv) : (s.commitAcc id).Inv := by
  obtain ⟨⟨m, w, c⟩, h2, h3, h4, h5, h6⟩ := h
  exact ⟨⟨m, w, State.commitAcc_wf s id c⟩, h2, h3, h4, h5, h6⟩

theorem putAcc_wf {m : List Host.Cell} (id : Nat) (words : List Nat) (h : Memory.wf m) : Memory.wf (putAcc m id words) := by
  rw [putAcc]
  exact Memory.wf_writeCells _ (Memory.wf_clear _ _ h)

theorem State.setAcc_wf {s : State} (pav fe acc : Nat) (fp64 : Bool) (rows : List (List Nat)) (h : Memory.wf s.accW) :
    ∃ m, Memory.wf m ∧ s.setAcc pav fe acc fp64 rows = { s with accW := m } := by
  cases fp64
  · exact ⟨_, putAcc_wf _ _ h, rfl⟩
  · exact ⟨_, putAcc_wf _ _ (putAcc_wf _ _ h), rfl⟩

theorem State.inv_setAcc {s : State} (pav fe acc : Nat) (fp64 : Bool) (rows : List (List Nat)) (h : s.Inv) :
    (s.setAcc pav fe acc fp64 rows).Inv := by
  obtain ⟨⟨m, w, c⟩, h2, h3, h4, h5, h6⟩ := h
  obtain ⟨a, ha, e⟩ := State.setAcc_wf pav fe acc fp64 rows w
  rw [e]
  exact ⟨⟨m, ha, c⟩, h2, h3, h4, h5, h6⟩

/-- A record written into a fault ring (R318). -/
theorem State.inv_ringWrite {s : State} (t : Nat) (r : Record) (h : s.Inv) : (s.ringWrite t r).Inv := by
  unfold State.ringWrite
  exact State.inv_modTerrace _ _
    ((State.inv_writeHome _ _ (State.inv_writeHome _ _ h)).keep rfl rfl rfl rfl rfl rfl rfl rfl)

/-- A record written or held (R322). -/
theorem State.inv_record {s : State} (t : Nat) (r : Record) (handler : Bool) (strand : Option (Nat × StrandState)) (h : s.Inv) :
    (s.record t r handler strand).Inv := by
  unfold State.record
  split
  · have := State.inv_ringWrite t r h
    cases strand with
    | none => exact this
    | some x => exact State.inv_modStrand _ _ this
  · cases strand with
    | none => exact State.inv_modTerrace _ _ h
    | some x => exact State.inv_modStrand _ _ (State.inv_modTerrace _ _ h)

/-- A list of operations that each keep the invariant keeps it. -/
theorem State.inv_foldl {α : Type} (f : State → α → State) (l : List α) (hf : ∀ s x, s.Inv → (f s x).Inv) {s : State} (h : s.Inv) :
    (l.foldl f s).Inv := by
  induction l generalizing s with
  | nil => exact h
  | cons x t ih => exact ih (hf s x h)

end Sys2Proof.Machine
end

