-- ==== Sys2Proof/Laws/Operands.lean ====
section
/-! SUPPORT. What firing does, said once: the gate of a slot that may fire, the state that a completed effect leaves, and the
outcome of each form of instruction (`fireEff`, `fireVal`, `fireDef`). The meanings are proved through these. -/

namespace Sys2Proof.Machine

theorem State.strand_setStrand_same {s : State} {k : Nat} {t : Strand} (u : Strand) (h : s.strand k = some t) :
    (s.setStrand k u).strand k = some u := by
  have hk : k < s.strands.length := (List.getElem?_eq_some_iff.1 h).1
  simp [State.strand, State.setStrand, hk]

theorem State.strand_setStrand_other {s : State} {k j : Nat} (u : Strand) (h : j ≠ k) :
    (s.setStrand k u).strand j = s.strand j := by
  simp [State.strand, State.setStrand, List.getElem?_set_ne (Ne.symm h)]

theorem State.strand_addPerf (s : State) (p c n k : Nat) : (s.addPerf p c n).strand k = s.strand k := rfl

theorem State.strand_push (s : State) (e : Instr) (k : Nat) : (s.push e).strand k = s.strand k := rfl

theorem State.modStrand_some {s : State} {k : Nat} {t : Strand} (f : Strand → Strand) (h : s.strand k = some t) :
    s.modStrand k f = s.setStrand k (f t) := by
  simp [State.modStrand, h]

theorem State.setStrand_setStrand (s : State) (k : Nat) (t u : Strand) : (s.setStrand k t).setStrand k u = s.setStrand k u := by
  simp [State.setStrand]

theorem State.setStrand_addPerf (s : State) (k : Nat) (t : Strand) (p c n : Nat) :
    (s.addPerf p c n).setStrand k t = (s.setStrand k t).addPerf p c n := rfl

theorem State.modBlock_some {s : State} {k : Nat} {t : Strand} {b : BlockRun} (f : BlockRun → BlockRun)
    (h : s.strand k = some t) (hb : t.block = some b) : s.modBlock k f = s.setStrand k { t with block := some (f b) } := by
  simp [State.modBlock, State.modStrand, h, hb]

/-- The context of a slot: its strand, block and slot as they stand. -/
theorem State.ctxAt_some {s : State} {k j : Nat} {c : Ctx} (h : s.ctxAt k j = some c) :
    c.k = k ∧ c.j = j ∧ s.strand k = some c.t ∧ c.t.block = some c.b ∧ c.b.slots[j]? = some c.o := by
  unfold State.ctxAt at h
  split at h
  · cases h
  · split at h
    · cases h
    · split at h
      · cases h
      · cases h
        exact ⟨rfl, rfl, ‹_›, ‹_›, ‹_›⟩

theorem State.ctx_some {s : State} {c : Ctx} (h : s.ctx = some c) :
    s.strand c.k = some c.t ∧ c.t.block = some c.b ∧ c.b.slots[c.j]? = some c.o := by
  obtain ⟨hk, hj, h1, h2, h3⟩ := State.ctxAt_some h
  exact ⟨hk ▸ h1, h2, hj ▸ h3⟩

/-- A slot that may fire passes its gate, with the values on its operands (R15, R16). -/
theorem gate_mayFire {p : Pred} {u : Uses} {early : Bool} {o : Slot} (h : o.mayFire p u = true) (hu : u ≠ .merge) :
    gate p u early o = .go (opVal o.l) (opVal o.r) (opVal o.p) := by
  simp only [Slot.mayFire, Bool.and_eq_true, Bool.not_eq_true'] at h
  obtain ⟨⟨⟨⟨hs, hc⟩, hp⟩, hv⟩, -⟩ := h
  have hn : (usedOperands u o).any (fun t => t == some Token.null) = false := by
    rw [List.any_eq_false]
    intro x hx
    have := List.all_eq_true.1 hv x hx
    rcases x with _ | ⟨_ | _ | _⟩ <;> simp_all [isValue]
  have hi : (usedOperands u o).any Option.isNone = false := by
    rw [List.any_eq_false]
    intro x hx
    have := List.all_eq_true.1 hv x hx
    rcases x with _ | ⟨_ | _ | _⟩ <;> simp_all [isValue]
  have hg : operandGate u early o = .go (opVal o.l) (opVal o.r) (opVal o.p) := by
    unfold operandGate
    simp [hn, hi]
  have hst : (decide (o.status = .sent) || decide (o.status = .done)) = false := by
    rcases h' : o.status <;> simp_all
  unfold gate
  rw [hst, if_neg (by simp), if_neg hu, if_neg (by simp [hc])]
  cases p with
  | always => exact hg
  | onTrue =>
    rcases h' : o.p with _ | ⟨_ | _ | _⟩ <;> simp_all [predOk]
  | onFalse =>
    rcases h' : o.p with _ | ⟨_ | _ | _⟩ <;> simp_all [predOk]

/-- A slot that may fire fires: its effect is applied (R15). -/
theorem fire_issues {s : State} {c : Ctx} {p : Pred} {u : Uses} (h : Issues s c p u) (hu : u ≠ .merge) (early : Bool)
    (ta tb : Target) (res : Resolve) (f : Ctx → State → Word → Word → Word → Eff) :
    fire p u early ta tb res f s = applyEff c ta tb res (f c s (opVal c.o.l) (opVal c.o.r) (opVal c.o.p)) s := by
  unfold fire
  have hb : c.o.bad = false := by
    have := h.2
    simp only [Slot.mayFire, Bool.and_eq_true, Bool.not_eq_true'] at this
    exact this.2
  rw [h.1]
  simp [gate_mayFire h.2 hu, hb]

/-- A token delivered to a target that is free. -/
theorem State.deliver_take {s : State} {k : Nat} {t : Strand} {b b' : BlockRun} {tg : Target} {x : Option Token}
    (h : s.strand k = some t) (hb : t.block = some b) (hp : b.take tg x = some b') :
    s.deliver k tg x = s.setStrand k { t with block := some b' } := by
  cases x with
  | none =>
    simp only [BlockRun.take, Option.some.injEq] at hp
    subst hp
    have : ({ t with block := some b } : Strand) = t := by rw [← hb]
    simp only [State.deliver, this]
    have hk : s.strands.set k t = s.strands := by
      apply List.ext_getElem?
      intro i
      by_cases hi : k = i
      · subst hi
        rw [List.getElem?_set_self (List.getElem?_eq_some_iff.1 h).1]
        exact h.symm
      · rw [List.getElem?_set_ne hi]
    simp only [State.setStrand, hk]
  | some tok =>
    simp only [BlockRun.take] at hp
    simp only [State.deliver, h, hb, hp]

/-- A token on an operand changes no slot's status, and so not what the block waits for (R10). -/
theorem BlockRun.awaits_setSlot (b : BlockRun) (i : Nat) (o : Slot) (h : o.status = ((b.slots[i]?).getD {}).status) :
    ({ b with slots := b.slots.set i o } : BlockRun).awaits = b.awaits := by
  have hm : (b.slots.set i o).map Slot.status = b.slots.map Slot.status := by
    apply List.ext_getElem?
    intro n
    by_cases hn : i = n
    · subst hn
      by_cases hl : i < b.slots.length
      · simp_all
      · simp [hl]
    · simp [List.getElem?_set_ne hn]
  have ha (l : List Slot) : (l.any fun o => o.status == .waiting || o.status == .sent) =
      (l.map Slot.status).any fun x => x == .waiting || x == .sent := by
    rw [List.any_map]; rfl
  simp only [BlockRun.awaits, ha, hm]

theorem BlockRun.awaits_put {b b' : BlockRun} {tg : Target} {x : Token} (h : b.put tg x = some b') : b'.awaits = b.awaits := by
  cases tg <;> simp only [BlockRun.put] at h
  case none => cases h; rfl
  case pred c =>
    split at h
    · cases h; exact b.awaits_setSlot _ _ rfl
    · split at h
      · cases h; rfl
      · cases h
  all_goals
    split at h
    · cases h
    · split at h
      · cases h; exact b.awaits_setSlot _ _ rfl
      · split at h
        · cases h; rfl
        · cases h

theorem BlockRun.awaits_take {b b' : BlockRun} {tg : Target} {x : Option Token} (h : b.take tg x = some b') :
    b'.awaits = b.awaits := by
  cases x with
  | none => cases h; rfl
  | some tok => exact BlockRun.awaits_put h

/-- An effect that is done leaves the slot fired and its tokens on its targets (R15, R16, R272). -/
theorem applyEff_ok {s1 : State} {c : Ctx} {t1 : Strand} {b1 b2 : BlockRun} {ta tb : Target} {x y : Option Token}
    (res : Resolve) (s : State) (h1 : s1.strand c.k = some t1) (hb : t1.block = some b1)
    (hf : b1.fired c.j ta tb x y = some b2) : applyEff c ta tb res (.ok s1 x y) s = s1.firedAt c t1 b2 := by
  obtain ⟨b, hx, hy⟩ := Option.bind_eq_some_iff.1 hf
  simp only [applyEff, State.deliver2, State.setStatus]
  have hw : (b1.setStatus c.j .done).awaits = b2.awaits := by rw [BlockRun.awaits_take hy, BlockRun.awaits_take hx]
  rw [State.modBlock_some _ h1 hb, State.settle, State.modStrand_some _ (State.strand_setStrand_same _ h1),
    State.setStrand_setStrand]
  simp only [Strand.settled, Option.any_some, hw]
  rw [State.deliver_take (t := { t1 with block := some (b1.setStatus c.j .done),
                                         state := if b2.awaits = true then .blocked else .running })
      (by rw [State.strand_addPerf]; exact State.strand_setStrand_same _ h1) rfl hx,
    State.deliver_take (t := { t1 with block := some b, state := if b2.awaits = true then .blocked else .running })
      (by rw [State.setStrand_addPerf, State.setStrand_setStrand, State.strand_addPerf]; exact State.strand_setStrand_same _ h1) rfl hy]
  simp only [State.setStrand_addPerf, State.setStrand_setStrand, State.firedAt]

/-- An instruction that fires and whose effect is done completes. -/
theorem completes_of_fire {i : Instr} {s : State} {c : Ctx} {p : Pred} {u : Uses} {early : Bool} {ta tb : Target} {res : Resolve}
    {f : Ctx → State → Word → Word → Word → Eff} {s1 : State} {x y : Option Token}
    (he : exec i s = .next (fire p u early ta tb res f s)) (h : Issues s c p u) (hu : u ≠ .merge)
    (hf : f c s (opVal c.o.l) (opVal c.o.r) (opVal c.o.p) = .ok s1 x y) : Completes i s c s1 ta tb x y := by
  intro t1 b1 b2 h1 h2 h3
  rw [he, fire_issues h hu, hf, applyEff_ok res s h1 h2 h3]

/-- A value instruction sends its value. -/
theorem sendsValue_of_fireVal {i : Instr} {p : Pred} {u : Uses} {ta tb : Target} {f : Word → Word → Word → Word}
    (he : ∀ s, exec i s = fireVal p u ta tb f s) (hu : u ≠ .merge) : SendsValue i p u ta tb f :=
  fun s _ h => completes_of_fire (he s) h hu rfl

/-- An entry taken while the deferred list has room and no entry of the region stands for it (R33, R134). -/
theorem takeEntry_room {c : Ctx} {s : State} {d : Deferred} {joins : Deferred → Bool}
    (hj : c.t.region.deferred.any joins = false) (hr : c.t.region.deferred.length < 32) :
    takeEntry c s d joins = some (s.deferred c d) := by
  simp [takeEntry, hj, hr, State.deferred]

theorem deferEff_room {c : Ctx} {s : State} (d : Deferred) (v : Option Word) {joins : Deferred → Bool}
    (hj : c.t.region.deferred.any joins = false) (hr : c.t.region.deferred.length < 32) :
    deferEff c s d v joins = .ok (s.deferred c d) (v.map Token.value) (v.map Token.value) := by
  simp [deferEff, takeEntry_room hj hr]

/-- The full list: F_REGION_OVERFLOW (R33). -/
theorem deferEff_full {c : Ctx} {s : State} (d : Deferred) (v : Option Word) {joins : Deferred → Bool}
    (hj : c.t.region.deferred.any joins = false) (hr : ¬c.t.region.deferred.length < 32) :
    deferEff c s d v joins = .fault { code := .regionOverflow } := by
  simp [deferEff, takeEntry, hj, hr]

theorem checked_pass {cs : List (Bool × FaultInfo)} {e : Eff} (h : ∀ x ∈ cs, x.1 = false) : checked cs e = e := by
  unfold checked
  have : firstFault cs = none := by
    induction cs with
    | nil => rfl
    | cons x t ih =>
      obtain ⟨bad, f⟩ := x
      have hb : bad = false := h (bad, f) (by simp)
      simp only [firstFault, hb]
      exact ih fun y hy => h y (List.mem_cons_of_mem _ hy)
  rw [this]

/-- A fault at fire, before a boundary instruction has been performed, is taken (R44, R139). -/
theorem fire_faults {s : State} {c : Ctx} {p : Pred} {u : Uses} {early : Bool} {ta tb : Target} {res : Resolve}
    {f : Ctx → State → Word → Word → Word → Eff} {info : FaultInfo} (h : Issues s c p u) (hu : u ≠ .merge)
    (hf : f c s (opVal c.o.l) (opVal c.o.r) (opVal c.o.p) = .fault info) (hp : c.b.performed = false) :
    fire p u early ta tb res f s = s.takeFault c.k ⟨info, c.b.addr, c.j⟩ := by
  rw [fire_issues h hu, hf]
  simp [applyEff, hp]

end Sys2Proof.Machine
end

