-- ==== Sys2Proof/Tests/Slice0.lean ====
section
/-! SUPPORT. The model's own tests: a word of every encoding, written out from the encoding tables of the spec, and what it
decodes to; an ill-formed term for every check of well-formedness; a few results calculated by hand from the rules; and, for
every obligation, states and operands that meet all the hypotheses of each of its clauses (`witness_…`), at a boundary of their
range where there is one. -/

set_option Elab.async false

namespace Sys2Proof.Tests

open Sys2Proof Sys2Proof.Machine

/-! ### Decoding (R117 to R127) -/

/-- Each word decodes to the instruction beside it. -/
def decodes (l : List (Word32 × Instr)) : Bool := l.all fun x => match decode x.1 with
  | .ok i => i == x.2
  | .error _ => false

/-- Each word is refused with the error beside it. -/
def rejects (l : List (Word32 × DecodeError)) : Bool := l.all fun x => match decode x.1 with
  | .ok _ => false
  | .error e => e == x.2

-- Each word is its opcode's fixed bits with the fields put at the places that R117 and R121 to R127 give them.

theorem test_decode_0 : decodes [
    (0x05352400, .read 77 .none (.left 18)),
    (0x09340000, .write 77),
    (0x0D6B4085, .readp 90 (.left 5) (.pred 32)),
    (0x0D680000, .writep 90),
    (0x11015C00, .mov .onTrue .none (.left 46)),
    (0x10066AA8, .nul (.left 40) (.right 53)),
    (0x10080000, .stop .always),
    (0x110C0000, .yield .onTrue),
    (0x12111400, .self .onFalse .none (.left 10)),
    (0x14800084, .genc 0x4000 (.left 4)),
    (0x19FFFF0B, .appc .onTrue 0x7FFF (.right 11)),
    (0x1EFFFFF3, .bro .onFalse 0xFFFFF3),
    (0x20000000, .bri .always),
    (0x21040000, .call .onTrue),
    (0x22080000, .calli .onFalse),
    (0x200C0000, .ret .always)] = true := by decide +kernel

theorem test_decode_1 : decodes [
    (0x25010400, .add .onTrue .none (.left 2)),
    (0x260612BC, .sub .onFalse (.left 60) (.right 9)),
    (0x240B2103, .mul .always (.right 3) (.pred 16)),
    (0x250C018A, .mulh .onTrue (.pred 10) .none),
    (0x26113C00, .mulhu .onFalse .none (.left 30)),
    (0x24164A98, .div .always (.left 24) (.right 37)),
    (0x251B591F, .divu .onTrue (.right 31) (.pred 44)),
    (0x261C01A6, .rem .onFalse (.pred 38) .none),
    (0x24217400, .remu .always .none (.left 58)),
    (0x290202B4, .and .onTrue (.left 52) (.right 1)),
    (0x2A07113B, .or .onFalse (.right 59) (.pred 8)),
    (0x28080182, .xor .always (.pred 2) .none),
    (0x290D2C00, .andn .onTrue .none (.left 22)),
    (0x2A123A90, .shl .onFalse (.left 16) (.right 29)),
    (0x28174917, .shr .always (.right 23) (.pred 36)),
    (0x2918019E, .sar .onTrue (.pred 30) .none),
    (0x2A1D6400, .rotl .onFalse .none (.left 50)),
    (0x282272AC, .clz .always (.left 44) (.right 57)),
    (0x29270133, .ctz .onTrue (.right 51) (.pred 0)),
    (0x2A2801BA, .popc .onFalse (.pred 58) .none)] = true := by decide +kernel

theorem test_decode_2 : decodes [
    (0x2C011C00, .min .always .none (.left 14)),
    (0x2D062A88, .max .onTrue (.left 8) (.right 21)),
    (0x2E0B390F, .minu .onFalse (.right 15) (.pred 28)),
    (0x2C0C0196, .maxu .always (.pred 22) .none),
    (0x2D115400, .sext .onTrue .none (.left 42)),
    (0x2E1662A4, .zext .onFalse (.left 36) (.right 49)),
    (0x2C1B712B, .bfx .always (.right 43) (.pred 56)),
    (0x2D1C01B2, .bfi .onTrue (.pred 50) .none),
    (0x3248D000, .addi .onFalse 0x2468 .none),
    (0x34800080, .andi .always 0x4000 (.left 0)),
    (0x39FFFF07, .ori .onTrue 0x7FFF (.right 7)),
    (0x3E48D18E, .xori .onFalse 0x2468 (.pred 14)),
    (0x40005200, .shli .always 41 .none),
    (0x4500529C, .shri .onTrue 41 (.left 28)),
    (0x4A005323, .sari .onFalse 41 (.right 35)),
    (0x4C8001AA, .teqi .always 0x4000 (.pred 42))] = true := by decide +kernel

theorem test_decode_3 : decodes [
    (0x51FFFE00, .tlti .onTrue 0x7FFF .none),
    (0x56020AB8, .teq .onFalse (.left 56) (.right 5)),
    (0x5407193F, .tne .always (.right 63) (.pred 12)),
    (0x55080186, .tlt .onTrue (.pred 6) .none),
    (0x560D3400, .tle .onFalse .none (.left 26)),
    (0x54124294, .tltu .always (.left 20) (.right 33)),
    (0x5517511B, .tleu .onTrue (.right 27) (.pred 40)),
    (0x561801A2, .tbit .onFalse (.pred 34) .none),
    (0x58056C00, .fadd .always 1 .none (.left 54)),
    (0x591A7AB0, .fsub .onTrue 2 (.left 48) (.right 61)),
    (0x5A270937, .fmul .onFalse 1 (.right 55) (.pred 4)),
    (0x583801BE, .fdiv .always 2 (.pred 62) .none),
    (0x59452400, .fsqrt .onTrue 1 .none (.left 18)),
    (0x5A5A328C, .fmin .onFalse 2 (.left 12) (.right 25)),
    (0x58674113, .fmax .always 1 (.right 19) (.pred 32)),
    (0x5978019A, .fceq .onTrue 2 (.pred 26) .none),
    (0x5A855C00, .fclt .onFalse 1 .none (.left 46)),
    (0x589A6AA8, .fcle .always 2 (.left 40) (.right 53)),
    (0x59A7792F, .fcvt .onTrue 1 (.right 47) (.pred 60)),
    (0x5AB801B6, .fclass .onFalse 2 (.pred 54) .none)] = true := by decide +kernel

theorem test_decode_4 : decodes [
    (0x5C011400, .sel .none (.left 10)),
    (0x5C1A2284, .ffma 2 (.left 4) (.right 17)),
    (0x5E2F310B, .lea .onFalse 3 (.right 11) (.pred 24)),
    (0x60000000, .fork .always),
    (0x61040000, .forkn .onTrue),
    (0x62080000, .send .onFalse),
    (0x600F6927, .fralloc .always (.right 39) (.pred 52)),
    (0x61100000, .frfree .onTrue),
    (0x62150400, .tagget .onFalse .none (.left 2)),
    (0x60180000, .tagset .always),
    (0x65032103, .dqpush .onTrue (.right 3) (.pred 16)),
    (0x6604018A, .dqpop .onFalse (.pred 10) .none),
    (0x64093C00, .dqsteal .always .none (.left 30)),
    (0x68390400, .rgn 3 9 true false),
    (0x6880011F, .rcnt (.right 31)),
    (0x6C0001A6, .gbar .always (.pred 38) .none),
    (0x6D040000, .gbarx .onTrue),
    (0x6E0A02B4, .mring .onFalse (.left 52) (.right 1)),
    (0x6C0C0000, .msend .always),
    (0x6D100182, .mwait .onTrue (.pred 2) .none)] = true := by decide +kernel

theorem test_decode_5 : decodes [
    (0x720B4A00, .trap .onFalse 0x5A5),
    (0x70104490, .mfsr .always 0x22 (.left 16)),
    (0x71204400, .mtsr .onTrue 0x22),
    (0x7230019E, .resume .onFalse (.pred 30)),
    (0x70400000, .tlbi .always),
    (0x715026AC, .perf .onTrue 19 (.left 44)),
    (0x72600133, .idle .onFalse (.right 51)),
    (0x80BFFFBA, .ldb .always 47 0x1FF (.pred 58)),
    (0x85D20000, .ldh .onTrue 52 0x100 .none),
    (0x8AE5FE88, .ldw .onFalse 57 0xFF (.left 8)),
    (0x8CFBFF0F, .ldd .always 62 0x1FF (.right 15)),
    (0x910E0196, .ldsb .onTrue 3 0x100 (.pred 22)),
    (0x9621FE00, .ldsh .onFalse 8 0xFF .none),
    (0x9837FEA4, .ldsw .always 13 0x1FF (.left 36)),
    (0x9D4A0000, .pref .onTrue 18 0x100),
    (0xA25DFE00, .stb .onFalse 23 0xFF)] = true := by decide +kernel

theorem test_decode_6 : decodes [
    (0xA473FE00, .sth .always 28 0x1FF),
    (0xA9860000, .stw .onTrue 33 0x100),
    (0xAE99FE00, .std .onFalse 38 0xFF),
    (0xB080018E, .aadd .always true (.pred 14) .none),
    (0xB1054400, .aswp .onTrue false .none (.left 34)),
    (0xB08A529C, .acas true (.left 28) (.right 41)),
    (0xB00F6123, .amin .always false (.right 35) (.pred 48)),
    (0xB19001AA, .amax .onTrue true (.pred 42) .none),
    (0xB2157C00, .aminu .onFalse false .none (.left 62)),
    (0xB09A0AB8, .amaxu .always true (.left 56) (.right 5)),
    (0xB11F193F, .aand .onTrue false (.right 63) (.pred 12)),
    (0xB2A00186, .aor .onFalse true (.pred 6) .none),
    (0xB0253400, .axor .always false .none (.left 26)),
    (0xB1AA4294, .amaxrs .onTrue true (.left 20) (.right 33)),
    (0xB6000000, .radd .onFalse false),
    (0xB4840000, .rmin .always true),
    (0xB5080000, .rmax .onTrue false),
    (0xB68C0000, .rand .onFalse true),
    (0xB4100000, .ror .always false),
    (0xB5940000, .rxor .onTrue true),
    (0xB6180000, .rfadd .onFalse false)] = true := by decide +kernel

theorem test_decode_7 : decodes [
    (0xB8000000, .cpy .always),
    (0xB9040000, .cpyt .onTrue),
    (0xBA080000, .coll .onFalse),
    (0xB80C0000, .wsld .always),
    (0xB9126AA8, .wsref .onTrue (.left 40) (.right 53)),
    (0xC2000000, .bufdef .onFalse),
    (0xC00401B6, .bufinfo .always (.pred 54) .none),
    (0xC1091400, .waitf .onTrue .none (.left 10)),
    (0xC20E2284, .waite .onFalse (.left 4) (.right 17)),
    (0xC0100000, .advp .always),
    (0xC1140000, .advc .onTrue),
    (0xC6000000, .sload .onFalse),
    (0xC4040000, .sstore .always),
    (0xC9036927, .vadd .onTrue (.right 39) (.pred 52)),
    (0xCA0401AE, .vsub .onFalse (.pred 46) .none),
    (0xC8090400, .vmul .always .none (.left 2)),
    (0xC80E12BC, .vfma (.left 60) (.right 9)),
    (0xCA132103, .vmin .onFalse (.right 3) (.pred 16)),
    (0xC814018A, .vmax .always (.pred 10) .none),
    (0xC9193C00, .vabs .onTrue .none (.left 30)),
    (0xCA1E4A98, .vneg .onFalse (.left 24) (.right 37)),
    (0xC823591F, .vexp2 .always (.right 31) (.pred 44)),
    (0xC92401A6, .vrcp .onTrue (.pred 38) .none),
    (0xCA297400, .vrsq .onFalse .none (.left 58)),
    (0xC82E02B4, .vcvt .always (.left 52) (.right 1)),
    (0xC933113B, .vsel .onTrue (.right 59) (.pred 8)),
    (0xCA340182, .vcmp .onFalse (.pred 2) .none),
    (0xC8392C00, .vand .always .none (.left 22)),
    (0xC93E3A90, .vor .onTrue (.left 16) (.right 29)),
    (0xCA434917, .vxor .onFalse (.right 23) (.pred 36)),
    (0xC844019E, .vshl .always (.pred 30) .none),
    (0xC9496400, .vshr .onTrue .none (.left 50))] = true := by decide +kernel

theorem test_decode_8 : decodes [
    (0xCE0272AC, .vredsum .onFalse (.left 44) (.right 57)),
    (0xCC070133, .vredmax .always (.right 51) (.pred 0)),
    (0xCD0801BA, .vredmin .onTrue (.pred 58) .none),
    (0xCE0D1C00, .vscan .onFalse .none (.left 14)),
    (0xCC122A88, .vperm .always (.left 8) (.right 21)),
    (0xCD17390F, .vbcast .onTrue (.right 15) (.pred 28)),
    (0xCE180196, .visect .onFalse (.pred 22) .none),
    (0xD0015400, .tld .always .none (.left 42)),
    (0xD10662A4, .tldt .onTrue (.left 36) (.right 49)),
    (0xD20B712B, .tst .onFalse (.right 43) (.pred 56)),
    (0xD40001B2, .tzero .always (.pred 50) .none),
    (0xD4050C00, .tmma .none (.left 6)),
    (0xD60A1A80, .tcvt .onFalse (.left 0) (.right 13)),
    (0xD40F2907, .tdrain .always (.right 7) (.pred 20)),
    (0xD800018E, .steer (.pred 14) .none),
    (0xDA054400, .merge .onFalse .none (.left 34))] = true := by decide +kernel

theorem test_decode_9 : decodes [
    (0xDC000000, .gdef .always),
    (0xDD076123, .gseed .onTrue (.right 35) (.pred 48)),
    (0xE2000000, .kput .onFalse),
    (0xE0040000, .kdel .always),
    (0xE1080000, .kappend .onTrue),
    (0xE20C0000, .kmerge .onFalse),
    (0xE0100186, .matchQ (.pred 6) .none),
    (0xE0153400, .matchc .none (.left 26)),
    (0xE2180000, .mscan .onFalse),
    (0xE01C0000, .ksum .always),
    (0xE12001A2, .matchb .onTrue (.pred 34) .none),
    (0xE2240000, .mdom .onFalse),
    (0xE4027AB0, .topk .always (.left 48) (.right 61)),
    (0xE9000000, .itbl .onTrue),
    (0xEA0401BE, .itperm .onFalse (.pred 62) .none),
    (0xE8080000, .igather .always),
    (0xE90C0000, .walk .onTrue)] = true := by decide +kernel

/-- The words of the spec's own example block (04_word_and_block_formats.md, A block, word by word). -/
theorem test_decode_example : decodes [(0x14000102, .genc 0 (.right 2)), (0x04040082, .read 1 (.left 2) .none),
    (0x54030983, .teq .always (.pred 3) (.pred 4)), (0x1D000010, .bro .onTrue 0x10), (0x1E000020, .bro .onFalse 0x20)] = true := by
  decide +kernel

/-- Words that R131 refuses: a target whose kind and slot do not agree or with bit 6 set, a reserved predicate, the reserved OPs of
R127, a reserved scope, bits that must be zero, a predicate on RGN, an odd pair. -/
theorem test_decode_rejects : rejects [(0x140000C1, .badTarget), (0x14000001, .badTarget), (0x27000000, .reservedPred),
    (0x00000000, .reservedOp), (0xBC000000, .reservedOp), (0xFC000000, .reservedOp), (0x68520000, .reservedField),
    (0x08000001, .nonzeroBits), (0x69220000, .notPredicable), (0x0C040085, .oddRegister)] = true := by
  decide +kernel

/-! ### Well-formed instructions -/

/-- The check that a term fails. -/
def fails (l : List (Instr × IllFormed)) : Bool := l.all fun x => x.1.ill == some x.2

theorem test_illFormed_words : fails [
    (.readp 1 (.left 0) .none, .oddRegister), (.readp 2 .none .none, .noTarget), (.writep 127, .oddRegister),
    (.rgn 5 0 false false, .reservedScope), (.mfsr .always 5 .none, .noSuchRegister), (.mtsr .always 0x31, .noSuchRegister)] = true := by
  decide +kernel

theorem test_illFormed_events : fails [
    (.strandPlace 0 4096, .noSuchUnit), (.heldStrandRecord 8, .noSuchUnit), (.ringHoldExpire 0 16 0, .noSuchUnit),
    (.xreplyMapped 8 0, .noSuchUnit), (.xreplyInvalid 8 0, .noSuchUnit), (.refreshWindowStart 0 64, .noSuchUnit),
    (.refreshWindowEnd 8 0, .noSuchUnit), (.weightStoreWrite 0 (2 ^ 31) [0], .badRange), (.lqDoorbell 64 0, .noSuchUnit),
    (.taskLaunch 64, .noSuchUnit), (.preemptChoice 64, .noSuchUnit), (.mtsrFring 8 0, .noSuchUnit), (.mtsrFstat 8 0, .noSuchUnit),
    (.migGo 8 0 true, .noSuchUnit), (.migSlotWake 8 true, .noSuchUnit), (.precopyPassEnd 8, .noSuchUnit),
    (.finalDrained 8, .noSuchUnit), (.commitAck 8, .noSuchUnit), (.tile 0 512 [] 0, .badRange), (.portFail 24, .noSuchUnit),
    (.retrain 24, .noSuchUnit), (.portTrained 24 0, .noSuchUnit), (.terraceTestDone 0 true [], .badRange),
    (.admitTerrace 8, .noSuchUnit), (.measExtend 4 [], .badRange), (.quoteRequest [], .badRange),
    (.rootPortRequest 0 0 true (List.replicate 4097 0), .badRange)] = true := by
  decide +kernel

theorem test_wellFormed : ([Instr.readp 126 .none (.left 0), .rgn 4 15 true true, .mfsr .onTrue 0x30 .none, .lqDoorbell 63 0].all
    Instr.wf) = true := by decide +kernel

/-! ### States for tests and witnesses -/

/-- An operand that holds a number. -/
def v (n : Nat) : Option Token := some (.value (BitVec.ofNat 64 n))

/-- A block at 0x1000 with an instruction in slot 0 and an ADD behind it. -/
def blockOf (i : Instr) (o : Slot) : BlockRun :=
  { addr := 0x1000, hdr := 0x04100000, words := [(encode i).getD 0, 0x24000000], slots := [o, {}] }

/-- A strand in pavilion 0 whose block fires. -/
def fires (b : BlockRun) : Strand := { task := 0, pav := 0, state := .ready, phase := .run, block := some b }

/-- A running module with one task and one strand; slot 0 of it issues. -/
def run1 (t : Strand) (k : Task := placedTask) : State :=
  { State.reset with boot := { State.reset.boot with stage := .run }, tasks := [k], strands := [t], cur := ⟨0, 0⟩ }

/-- The strand's instruction in slot 0, with three operands. -/
def at0 (i : Instr) (l r p : Option Token) : Strand := fires (blockOf i { l := l, r := r, p := p })

/-- A slot issues, and what is asked of its context holds. -/
def issues (s : State) (p : Pred) (u : Uses) (h : Ctx → Bool) : Bool := match s.ctx with
  | some c => c.o.mayFire p u && h c
  | none => false

/-- A slot stands as an event needs it. -/
def stands (s : State) (k j : Nat) (h : Ctx → Bool) : Bool := match s.ctxAt k j with
  | some c => h c
  | none => false

/-- The tokens of a firing find their places: what `Completes` asks of the state that the effect leaves. -/
def lands (s : State) (c : Ctx) (ta tb : Target) (x y : Option Token) : Bool := match s.strand c.k with
  | some t => match t.block with
    | some b => (b.fired c.j ta tb x y).isSome
    | none => false
  | none => false

/-- Both targets receive a value. -/
def landsV (s : State) (c : Ctx) : Bool := lands s c (.left 1) (.right 1) (v 1) (v 1)

/-- Nothing is sent. -/
def lands0 (s : State) (c : Ctx) : Bool := lands s c .none .none none none

/-- What a step answers is a next state of which something holds. -/
def nextIs (o : Host.Outcome State Fault Refusal) (h : State → Bool) : Bool := match o with
  | .next s => h s
  | _ => false

/-! ### Results calculated by hand -/

/-- What reaches the left operand of slot 1. -/
def got (o : Host.Outcome State Fault Refusal) (x : Option Token) : Bool := nextIs o fun s => match s.strand 0 with
  | some t => match t.block with
    | some b => match b.slots[1]? with
      | some o => o.l == x
      | none => false
    | none => false
  | none => false

/-- Slot 0 fires with three operands and sends its result to the left operand of slot 1. -/
def sends (i : Instr) (l r p : Option Token) (x : Option Token) : Bool := got (exec i (run1 (at0 i l r p))) x

/-- R151: -7 / 2 is -3 with remainder -1; a zero divisor gives -1 and the dividend; -2^63 by -1 wraps. -/
theorem test_division : (sends (.div .always (.left 1) .none) (v (2 ^ 64 - 7)) (v 2) none (v (2 ^ 64 - 3)) &&
    sends (.rem .always (.left 1) .none) (v (2 ^ 64 - 7)) (v 2) none (v (2 ^ 64 - 1)) &&
    sends (.divu .always (.left 1) .none) (v 5) (v 0) none (v (2 ^ 64 - 1)) &&
    sends (.remu .always (.left 1) .none) (v 5) (v 0) none (v 5) &&
    sends (.div .always (.left 1) .none) (v (2 ^ 63)) (v (2 ^ 64 - 1)) none (v (2 ^ 63))) = true := by decide +kernel

/-- R150: a shift counts modulo 64, MULH takes the high half, SAR fills with the sign. -/
theorem test_integers : (sends (.shl .always (.left 1) .none) (v 3) (v 65) none (v 6) &&
    sends (.mulh .always (.left 1) .none) (v (2 ^ 64 - 1)) (v 2) none (v (2 ^ 64 - 1)) &&
    sends (.mulhu .always (.left 1) .none) (v (2 ^ 64 - 1)) (v 2) none (v 1) &&
    sends (.sar .always (.left 1) .none) (v (2 ^ 63)) (v 63) none (v (2 ^ 64 - 1)) &&
    sends (.sub .always (.left 1) .none) (v 0) (v 1) none (v (2 ^ 64 - 1))) = true := by decide +kernel

/-- R143: GENC sends its immediate sign-extended, and APPC puts 15 more bits below. -/
theorem test_constants : (sends (.genc 0x7FFF (.left 1)) none none none (v (2 ^ 64 - 1)) &&
    sends (.appc .always 0x1234 (.left 1)) (v 5) none none (v (5 * 2 ^ 15 + 0x1234))) = true := by decide +kernel

/-- R154: 1.5 + 0.25 = 1.75 and 1 / 3 in FP64, and 2^24 + 1 rounds to even in FP32. -/
theorem test_floats : (sends (.fadd .always 1 (.left 1) .none) (v 0x3FF8000000000000) (v 0x3FD0000000000000) none (v 0x3FFC000000000000) &&
    sends (.fdiv .always 1 (.left 1) .none) (v 0x3FF0000000000000) (v 0x4008000000000000) none (v 0x3FD5555555555555) &&
    sends (.fadd .always 0 (.left 1) .none) (v 0x4B800000) (v 0x3F800000) none (v 0x4B800000)) = true := by decide +kernel

/-- R15, R118: a predicate that does not hold suppresses the slot, and nothing is sent. -/
theorem test_predicate : (sends (.add .onTrue (.left 1) .none) (v 1) (v 2) (v 0) none &&
    sends (.add .onTrue (.left 1) .none) (v 1) (v 2) (v 1) (v 3)) = true := by decide +kernel

/-- R16, R235: a null operand makes a null result. -/
theorem test_null : sends (.add .always (.left 1) .none) (v 1) (some .null) none (some .null) = true := by decide +kernel

/-- R84: a doubleword is stored with its low byte first. -/
theorem test_littleEndian : toLe 8 0x0102030405060708 = [8, 7, 6, 5, 4, 3, 2, 1] := by decide +kernel

/-! ### Witnesses: values, registers, branches, control -/

/-- The strand of a firing, with any operands that its form uses. -/
def issuing (p : Pred) (u : Uses) : State :=
  let pv : Option Token := match p with
    | .always => if u = .three then v 1 else none
    | .onTrue => v 1
    | .onFalse => v 0
  run1 (at0 (.mov p .none .none) (if u = .none then none else v 5) (if u = .none ∨ u = .left then none else v 6) pv)

/-- What `SendsValue` asks for (ConstantsAndIntegersComplete, DivisionsComplete, ImmediatesAndTestsComplete, FloatingInstructionsComplete):
a slot that issues, and free targets, with each predicate and each form of operands. -/
theorem witness_sendsValue : ([(Pred.always, Uses.none), (.onTrue, .none), (.onFalse, .none), (.always, .left), (.onTrue, .left),
    (.onFalse, .left), (.always, .both), (.onTrue, .both), (.onFalse, .both), (.always, .three)].all fun x =>
      issues (issuing x.1 x.2) x.1 x.2 (landsV (issuing x.1 x.2))) = true := by decide +kernel

theorem witness_ConstantsAndIntegersComplete : issues (run1 (at0 (.nul (.left 1) (.right 1)) none none none)) .always .none
    (fun c => lands (run1 (at0 (.nul (.left 1) (.right 1)) none none none)) c (.left 1) (.right 1) (some .null) (some .null)) = true := by
  decide +kernel

/-- A MOV of a null, under each predicate; the word of a NULL, and a NULL whose block begins. -/
theorem witness_ConstantsAndIntegersComplete_nulls : (([(Pred.always, none), (.onTrue, v 1), (.onFalse, v 0)].all fun x =>
      stands (run1 (at0 (.mov x.1 (.left 1) .none) (some .null) none x.2)) 0 0 fun c => c.o.status == .idle && !c.o.cancelled &&
        predOk x.1 c.o.p && c.o.l == some .null) &&
    (encode (.nul (.left 63) (.pred 0))).isSome &&
    (let b := blockOf (.nul .none .none) {}; b.instr 0 == some (.nul .none .none) && b.slots[0]? == some ({} : Slot))) = true := by decide +kernel

/-- A nonzero and a zero divisor, and the two ends of the range. -/
theorem witness_DivisionsComplete : ([(7, 2), (7, 0), (2 ^ 63, 2 ^ 64 - 1)].all fun x =>
    issues (run1 (at0 (.div .always (.left 1) .none) (v x.1) (v x.2) none)) .always .both
      (landsV (run1 (at0 (.div .always (.left 1) .none) (v x.1) (v x.2) none)))) = true := by decide +kernel

theorem witness_BitCounts : ((BitVec.twoPow 64 63).getLsbD 63 && (List.range 63).all (fun j => !(BitVec.twoPow 64 63).getLsbD j)) = true := by
  decide +kernel

/-- FCVT's control word: the last one allowed, and the three refused (SRC reserved, a bit above, both). -/
theorem witness_FloatingInstructionsComplete : ((let s := run1 (at0 (.fcvt .always 1 (.left 1) .none) (v 1) (v 0x2F) none);
      issues s .always .both fun c => bits (opVal c.o.r) 63 6 == 0 && bits (opVal c.o.r) 5 4 != 3 && landsV s c) &&
    ([0x30, 0x40, 0xF0].all fun r => issues (run1 (at0 (.fcvt .always 1 (.left 1) .none) (v 1) (v r) none)) .always .both fun c =>
      (bits (opVal c.o.r) 63 6 != 0 || bits (opVal c.o.r) 5 4 == 3) && !c.b.performed)) = true := by decide +kernel

/-- A READ of the last register and a READP of the last pair; a READ that waits, one of a poisoned register, one of a completion to be
raised; WRITE and WRITEP, and a WRITE of a null. -/
theorem witness_RegistersComplete : ((let s := run1 (at0 (.read 127 (.left 1) (.right 1)) none none none);
      issues s .always .none fun c => !c.t.pending.getLsbD 127 && !c.t.poison.getLsbD 127 && !c.t.trapErr.getLsbD 127 &&
        landsV (s.modStrand c.k fun t => t.markLive 127) c) &&
    (let s := run1 (at0 (.readp 126 (.left 1) (.right 1)) none none none);
      issues s .always .none fun c => ([126, 127].all fun n => !c.t.pending.getLsbD n && !c.t.poison.getLsbD n && !c.t.trapErr.getLsbD n) &&
        landsV (s.modStrand c.k fun t => (t.markLive 126).markLive 127) c) &&
    (let s := run1 { at0 (.read 127 (.left 1) .none) none none none with pending := BitVec.twoPow 128 127 };
      issues s .always .none fun c => c.t.pending.getLsbD 127 && (s.heldFor c.k 127).isNone) &&
    (let s := run1 { at0 (.read 127 (.left 1) .none) none none none with poison := BitVec.twoPow 128 127 };
      issues s .always .none fun c => !c.t.pending.getLsbD 127 && c.t.poison.getLsbD 127 && !c.b.performed) &&
    (let s := run1 { at0 (.read 127 (.left 1) .none) none none none with trapErr := BitVec.twoPow 128 127 };
      issues s .always .none fun c => !c.t.pending.getLsbD 127 && !c.t.poison.getLsbD 127 && c.t.trapErr.getLsbD 127 && !c.b.performed) &&
    (let s := run1 (at0 (.write 127) (v 1) none none);
      issues s .always .left fun c => lands0 (s.modBlock c.k fun b => { b with writes := [(0, 127, some 1)] }) c) &&
    (let s := run1 (at0 (.writep 126) (v 1) (v 2) none);
      issues s .always .both fun c => lands0 (s.modBlock c.k fun b => { b with writes := [(0, 126, some 1), (0, 127, some 2)] }) c) &&
    (stands (run1 (at0 (.write 0) (some .null) none none)) 0 0 fun c => c.o.status == .idle && c.o.l == some .null &&
      c.o.r != some .cancel && c.o.p != some .cancel)) = true := by decide +kernel

/-- Each branch with the block's branch still to fire, at the ends of what it may name, and each refusal. -/
theorem witness_BranchesComplete : ((let s := run1 (at0 (.bro .onTrue 0x800000) none none (v 1));
      issues s .onTrue .none fun c => c.b.branch.isNone && lands0 s c) &&
    ([0, 2 ^ 57 - 4].all fun a => let s := run1 (at0 (.bri .always) (v a) none none);
      issues s .always .left fun c => c.b.branch.isNone && (opVal c.o.l).toNat < 2 ^ 57 && (opVal c.o.l).toNat % 4 == 0 && lands0 s c) &&
    (let s := run1 (at0 (.call .always) (v (2 ^ 64 - 4)) (v (2 ^ 57 - 8)) none);
      issues s .always .both fun c => c.b.branch.isNone && (c.b.addr + opVal c.o.l).toNat % 2 ^ 57 % 4 == 0 &&
        (opVal c.o.r).toNat % 8 == 0 && (opVal c.o.r).toNat < 2 ^ 57 && lands0 s c) &&
    (let s := run1 (at0 (.ret .always) (v (2 ^ 57 - 4)) (v 0) none);
      issues s .always .both fun c => c.b.branch.isNone && (opVal c.o.l).toNat < 2 ^ 57 && (opVal c.o.l).toNat % 4 == 0 &&
        (opVal c.o.r).toNat % 8 == 0 && (opVal c.o.r).toNat < 2 ^ 57 && lands0 s c) &&
    (let s := run1 (at0 (.stop .onFalse) none none (v 0));
      issues s .onFalse .none fun c => c.b.branch.isNone && lands0 s c) &&
    (let s := run1 (fires { blockOf (.bro .always 0) {} with branch := some (1, .stop) });
      issues s .always .none fun c => c.b.branch.isSome && !c.b.performed) &&
    (let s := run1 (at0 (.bri .always) (v (2 ^ 57)) none none);
      issues s .always .left fun c => 2 ^ 57 ≤ (opVal c.o.l).toNat && !c.b.performed) &&
    (let s := run1 (at0 (.bri .always) (v (2 ^ 57 - 1)) none none);
      issues s .always .left fun c => (opVal c.o.l).toNat < 2 ^ 57 && (opVal c.o.l).toNat % 4 != 0 && !c.b.performed)) = true := by
  decide +kernel

/-- YIELD, TAGGET, RCNT and RGN; SELF with each selector and with the first refused; STEER both ways; MERGE from either side. -/
theorem witness_ControlCompletes : ((issues (run1 (at0 (.yield .always) none none none)) .always .none
      (lands0 (run1 (at0 (.yield .always) none none none)))) &&
    ([0, 1, 2, 3].all fun n => let s := run1 (at0 (.self .always (.left 1) (.right 1)) (v n) none none);
      issues s .always .left fun c => (opVal c.o.l).toNat == n && landsV s c) &&
    (issues (run1 (at0 (.self .always (.left 1) .none) (v 4) none none)) .always .left fun c =>
      3 < (opVal c.o.l).toNat && !c.b.performed) &&
    (issues (run1 (at0 (.rcnt (.left 1)) none none none)) .always .none
      (landsV (run1 (at0 (.rcnt (.left 1)) none none none)))) &&
    ([0, 1].all fun r => [0, 1].all fun p => let s := run1 (at0 (.steer (.left 1) (.right 1)) (v 9) (v r) (v p));
      issues s .always .three fun c => (opVal c.o.r).toNat ≤ 1 && landsV s c) &&
    ([(v 9, none), (none, v 9)].all fun o => let s := run1 (at0 (.merge .always (.left 1) .none) o.1 o.2 none);
      stands s 0 0 fun c => c.o.status == .idle && predOk .always c.o.p && !olderMerge c s && (isValue c.o.l != isValue c.o.r) &&
        landsV s c)) = true := by decide +kernel

/-! ### Witnesses: memory -/

/-- A task whose scratch bytes are every bank. -/
def scratchTask : Task := { placedTask with desc := { placedTask.desc with scratch := 1024 } }

/-- A slot that has left for another unit. -/
def sentAt0 (i : Instr) (l r p : Option Token) : Strand := fires (blockOf i { status := .sent, l := l, r := r, p := p })

/-- The last doubleword of the last bank of the strand's own pavilion. -/
def lastBank : Nat := 0xFF000000000FFFF8

/-- The last page of the flat window, cached with every permission. -/
def cachedPage (s : State) : State :=
  { s with tlb := [⟨0, 0, 2 ^ 45 - 1, 12, 0x9C00000000005000#64⟩] }

/-- A load leaves from the end of the flat window and of a bank; one returns the bytes of an older store of its block; one returns
what a bank holds, and one what memory holds behind a cached page. -/
theorem witness_LoadsComplete : (([(Instr.ldb .always 1 0 (.left 1), 1), (.ldh .always 1 0 (.left 1), 2), (.ldw .always 1 0 (.left 1), 4),
      (.ldd .always 1 0 (.left 1), 8), (.ldsb .always 1 0 (.left 1), 1), (.ldsh .always 1 0 (.left 1), 2),
      (.ldsw .always 1 0 (.left 1), 4)].all fun x => [2 ^ 57 - 8, lastBank].all fun a =>
        let s := run1 (at0 x.1 (v a) none none) scratchTask; issues s .always .left fun c =>
          c.b.olderStoresDone 1 && (opVal c.o.l).toNat % x.2 == 0 && (s.fireCheck c.t (opVal c.o.l) x.2).isNone) &&
    (let b := { blockOf (.ldd .always 1 0 (.left 1)) { status := .sent, l := v 64 } with
        stores := [⟨1, 0, 64, some [1, 2, 3, 4, 5, 6, 7, 8]⟩] }; let s := run1 (fires b); stands s 0 0 fun c =>
      c.o.status == .sent && (c.b.instr 0).any (fun i => (loadForm i).any fun f => f.1 == 8) && !s.loggedRed 0 64 8 &&
        ((List.range 8).all fun n => s.ownByte 0 c.t c.b (lsidOf ((c.b.words[0]?).getD 0)) (64 + BitVec.ofNat 64 n) ==
          some (BitVec.ofNat 8 (n + 1))) && landsV s c) &&
    ([lastBank, 2 ^ 57 - 8].all fun a =>
      let s := cachedPage (run1 (sentAt0 (.ldd .always 1 0 (.left 1)) (v a) none none) scratchTask); stands s 0 0 fun c =>
      c.o.status == .sent && (c.b.instr 0).any (fun i => (loadForm i).any fun f => f.1 == 8) && !s.loggedRed 0 (BitVec.ofNat 64 a) 8 &&
        ((List.range 8).all fun n => (s.ownByte 0 c.t c.b 1 (s.asOwn 0 0 (BitVec.ofNat 64 a) + BitVec.ofNat 64 n)).isNone) &&
        (match s.access c.t (BitVec.ofNat 64 a) 8 .load with
          | .ok key => !s.frameHeld (frameOf key) && s.homeOk key && !s.poisoned (s.ownerKey key) 8 &&
            c.t.region.pins.all (fun p => p.key != s.ownerKey (key / 64 * 64)) &&
            landsV (s.modStrand 0 fun t => { t with region := { t.region with pins := [{ key := key / 64 * 64, va := 0, bytes := [] }] } }) c
          | _ => false) && c.t.region.pins.length < 256 && s.pinCount c.t.pav < 1024)) = true := by decide +kernel

/-- Stores to the end of the flat window and of a bank; one of a null; PREF; a misaligned load and store of each width. -/
theorem witness_StoresComplete : (([(Instr.stb .always 0 0, 1), (.sth .always 0 0, 2), (.stw .always 0 0, 4), (.std .always 0 0, 8)].all fun x =>
      [2 ^ 57 - 8, lastBank].all fun a => let s := run1 (at0 x.1 (v a) (v 1) none) scratchTask; issues s .always .both fun c =>
        (opVal c.o.l).toNat % x.2 == 0 && (s.storeCheck c.t (opVal c.o.l) x.2).isNone &&
          lands0 (s.modBlock c.k fun b => { b with stores := [⟨0, 0, opVal c.o.l, some []⟩] }) c) &&
    (stands (run1 (at0 (.std .always 0 0) (v 8) (some .null) none)) 0 0 fun c => c.o.status == .idle && predOk .always c.o.p &&
      !c.o.cancelled && c.o.r == some .null) &&
    (let s := run1 (at0 (.pref .always 0 0) (v 8) none none); issues s .always .left (lands0 s)) &&
    ([(Instr.ldh .always 0 0 .none, 2), (.ldw .always 0 0 .none, 4), (.ldd .always 0 0 .none, 8), (.ldsh .always 0 0 .none, 2),
      (.ldsw .always 0 0 .none, 4)].all fun x => issues (run1 (at0 x.1 (v 0x1001) none none)) .always .left fun c =>
        !c.b.performed && (opVal c.o.l).toNat % x.2 != 0) &&
    ([(Instr.sth .always 0 0, 2), (.stw .always 0 0, 4), (.std .always 0 0, 8)].all fun x =>
      issues (run1 (at0 x.1 (v 0x1001) (v 0) none)) .always .both fun c =>
        !c.b.performed && (opVal c.o.l).toNat % x.2 != 0)) = true := by decide +kernel

/-- An atomic of each width leaves; one is performed at a bank, and a compare-and-swap whose comparison fails; the operations on the
largest and smallest words. -/
theorem witness_AtomicsComplete : ((let s := run1 (at0 (.aadd .always false (.left 1) .none) (v lastBank) (v 1) none) scratchTask;
      issues s .always .both fun c => boundaryReady c s && (opVal c.o.l).toNat % 8 == 0) &&
    (let s := run1 (at0 (.acas true (.left 1) .none) (v (2 ^ 57 - 4)) (v 1) (v 2)) scratchTask;
      issues s .always .three fun c => boundaryReady c s && (opVal c.o.l).toNat % 4 == 0) &&
    ([Instr.aadd .always false (.left 1) (.right 1), .acas false (.left 1) (.right 1)].all fun i =>
      let s := run1 (sentAt0 i (v lastBank) (v 1) (v 2)) scratchTask; stands s 0 0 fun c => c.o.status == .sent &&
        (c.b.instr 0).any (fun i => (atomicForm i).isSome) && (match s.access c.t (opVal c.o.l) 8 .atomic with
          | .ok key => !s.frameHeld (frameOf (s.ownerKey key)) && s.homeOk (s.ownerKey key) && !s.poisoned (s.ownerKey key) 8
          | _ => false) && landsV (s.modBlock 0 fun x => { x with performed := true }) c)) = true := by decide +kernel

/-- Reductions resolve where DETERM is 0 and 1, and one is performed at a bank by its region's publish. -/
theorem witness_ReductionsComplete : (([(false, 2 ^ 57 - 8), (true, 2 ^ 57 - 4)].all fun x =>
      let s := run1 (at0 (.radd .always x.1) (v x.2) (v 1) none); issues s .always .both fun c =>
        (opVal c.o.l).toNat % (if x.1 then 4 else 8) == 0 && (s.storeCheck c.t (opVal c.o.l) 8).isNone && !(s.task c.t.task).determ &&
          lands0 (s.modBlock c.k fun b => { b with reds := [⟨0, .add, x.1, 0, 0⟩] }) c) &&
    (let s := run1 (at0 (.rfadd .always false) (v 8) (v 1) none) { placedTask with desc := { placedTask.desc with flags := 1 } };
      issues s .always .both fun c => (opVal c.o.l).toNat % 8 == 0 && (s.storeCheck c.t (opVal c.o.l) 8).isNone &&
        (s.task c.t.task).determ && !c.b.performed) &&
    (let line : SbLine := ⟨0xFF000000000FFFC0#64, .red .add false 56 1⟩;
      let pb : Pub := { scope := 0, started := true, lines := [line], deferred := [] };
      let s := run1 { fires (blockOf (.stop .always) { }) with block := none, phase := .step1, pub := some pb };
      match s.strand 0 with
        | some t => (t.active.any fun p => p.started && p.lines == [line]) && (match s.lineMeets t line.va with
          | .key key => !s.poisoned (key + 56) 8
          | _ => false)
        | none => false)) = true := by decide +kernel

/-- A local instruction goes on with its block. -/
theorem witness_LocalInstructionsFrame : (let s := run1 (at0 (.add .always (.left 1) .none) (v 1) (v 2) none);
    s.ctx.isSome && nextIs (exec (.add .always (.left 1) .none) s) fun s' => (s'.strand 0).any fun t => t.block.isSome) = true := by
  decide +kernel

/-- The conditions of the operations of atomics. -/
theorem witness_AtomicsComplete_operations : ((2 ^ 64 - 1 < 2 ^ 64) && (0 < 2 ^ 64) && (0 < 64) && decide (2 ^ 63 ≠ 2 ^ 64 - 1)) = true := by decide +kernel

/-! ### Witnesses: deferred instructions and rings -/

/-- A slot issues with room in the deferred list, what is asked holds, and its tokens land. -/
def defers (s : State) (p : Pred) (u : Uses) (h : Ctx → Bool) (two : Bool := false) : Bool := issues s p u fun c =>
  c.t.region.deferred.length < 32 && h c && (if two then landsV else lands0) (s.deferred c { kind := .gbarx }) c

/-- A region with n deferred entries before the firing. -/
def withList (n : Nat) (t : Strand) : Strand := { t with region := { t.region with deferred := List.replicate n { kind := .gbarx } } }

/-- FORK and FORKN of a block at the end of the flat window, the latter of 4,096 children and of none; SEND to the last slot of the
largest frame; FRFREE of an allocated frame; TAGSET of the deepest tag; and each full list. -/
theorem witness_StrandInstructionsComplete_defers : ((defers (run1 (withList 31 (at0 (.fork .always) (v (2 ^ 57 - 4)) (v 4095) none)))
      .always .both fun c =>
        (opVal c.o.l).toNat % 4 == 0 && (opVal c.o.l).toNat < 2 ^ 57 && tagDepth c.t.region.tag != 5 && (opVal c.o.r).toNat < 4096) &&
    ([0, 4096].all fun n => defers (run1 (at0 (.forkn .always) (v (2 ^ 57 - 4)) (v (n * 4096 + 5)) none)) .always .both fun c =>
        (opVal c.o.l).toNat % 4 == 0 && (opVal c.o.l).toNat < 2 ^ 57 && tagDepth c.t.region.tag != 5 &&
          (opVal c.o.r).toNat < 2 ^ 25 && (opVal c.o.r).toNat / 4096 ≤ 4096) &&
    (let s := run1 (at0 (.send .always) (v (2 ^ 63 - 8)) (v 1) none)
        { placedTask with desc := { placedTask.desc with frame := 576 } };
      defers s .always .both fun c => (opVal c.o.l).toNat < 2 ^ 63 &&
        (opVal c.o.l).toNat / 2 ^ 57 < frameSlots (s.task c.t.task).desc.frame && (opVal c.o.l).toNat % 8 == 0)) = true := by
  decide +kernel

theorem witness_StrandInstructionsComplete_frames : ((let s := run1 { at0 (.frfree .always) (v (2 ^ 57 - 24)) none none with
        frames := [⟨BitVec.ofNat 64 (2 ^ 57 - 64), 64, true, 0⟩] };
      defers s .always .left fun c => (c.t.frames.any fun f => f.live && f.base + 40 == opVal c.o.l) &&
        (c.t.region.deferred ++ c.t.queue.flatMap (·.deferred)).isEmpty) &&
    (let s := run1 (at0 (.tagset .always) (v (5 * 2 ^ 60 + 2 ^ 60 - 1)) none none); defers s .always .left fun c => tagOk (opVal c.o.l)) &&
    (let s := run1 (withList 32 (at0 (.gbarx .always) none none none));
      issues s .always .none fun c => c.t.region.deferred.length == 32 && !c.b.performed) &&
    (let s := run1 (withList 32 (at0 (.tagset .always) (v 0) none none));
      issues s .always .left fun c => c.t.region.deferred.length == 32 && tagOk (opVal c.o.l) && !c.b.performed)) = true := by
  decide +kernel

/-- FRALLOC of the last frame that its pool holds, for a block with one input in the last cached page. -/
theorem witness_StrandInstructionsComplete_fralloc : (let s0 := cachedPage (run1 { at0 (.fralloc .always (.left 1) (.right 1))
        (v (2 ^ 57 - 8)) (v 0) none with poolPtr := 0x1000, poolEnd := 0x1040 });
    let s := { s0 with mem := Memory.writeN s0.mem 0x5FF8 (toLe 4 0x05100000) }; defers s .always .both (fun c =>
      (opVal c.o.l).toNat < 2 ^ 63 && tagOk (opVal c.o.r) && (opVal c.o.l).toNat % 8 == 0 &&
        (match s.flat c.t.pav c.t.task ((opVal c.o.l).toNat % 2 ^ 57) .fetch with
          | .ok key => s.homeOk key && !s.poisoned key 4 && leNat (s.viewN c.k c.t.pav key 4) / 2 ^ 24 % 2 == 1 &&
            leNat (s.viewN c.k c.t.pav key 4) / 2 ^ 20 % 16 == 1
          | _ => false) && (opVal c.o.l).toNat / 2 ^ 57 + 1 == 1 &&
        c.t.poolPtr.toNat + (40 + 8 * 1 + 63) / 64 * 64 == c.t.poolEnd.toNat) true) = true := by decide +kernel
/-- The state with entries in the deque of a pavilion. -/
def withDeque (i n : Nat) (st : DqState) (s : State) : State :=
  { s with deques := [(i, { entries := (List.range n).map fun e => (e, 9, st), nextId := n })] }

/-- DQPUSH of the last deque of the own pavilion: a zero, a full deque, and the last place. DQPOP and DQSTEAL of the last deque they may
name: every entry taken by others, and one visible among them. -/
theorem witness_DequesComplete : (([(16, 1), (0, 0), (15, 2 ^ 64 - 1)].all fun x =>
      let s := withDeque 15 x.1 .visible (run1 (at0 (.dqpush .always (.left 1) (.right 1)) (v 15) (v x.2) none));
      defers s .always .both (fun c => (opVal c.o.l).toNat < 256 && (opVal c.o.l).toNat / 16 == (s.task c.t.task).logPav c.t.pav % 16 &&
        (s.task c.t.task).mate c.t.pav ((opVal c.o.l).toNat / 16) == 0 && (opVal c.o.l).toNat % 16 == 15 &&
        ((opVal c.o.r == 0 || 16 ≤ (s.deque 0 15).entries.length) == !(opVal c.o.r != 0 && (s.deque 0 15).entries.length < 16))) true) &&
    ([(Instr.dqpop .always (.left 1) (.right 1), 15), (.dqsteal .always (.left 1) (.right 1), 255)].all fun x =>
      let s := withDeque x.2 3 (.claimed 1) (run1 (at0 x.1 (v x.2) none none));
      issues s .always .left fun c => (opVal c.o.l).toNat < 256 && (s.deque (x.2 / 16) 15).entries.length == 3 &&
        ((s.deque (x.2 / 16) 15).entries.all fun e => !e.2.2.free) && landsV s c) &&
    ([(Instr.dqpop .always (.left 1) (.right 1), 15), (.dqsteal .always (.left 1) (.right 1), 255)].all fun x =>
      let s0 := run1 (at0 x.1 (v x.2) none none);
      let s := { s0 with deques := [(x.2, { entries := [(0, 7, .claimed 1), (1, 8, .visible), (2, 9, .reserved 1)], nextId := 3 })] };
      issues s .always .left fun c => (opVal c.o.l).toNat < 256 &&
        (s.deque (x.2 / 16) 15).entries == [(0, 7, .claimed 1)] ++ (1, 8, .visible) :: [(2, 9, .reserved 1)] &&
        DqState.visible.free && !(DqState.claimed 1).free && !(DqState.reserved 1).free &&
        landsV (s.modStrand c.k fun t => { t with region := { t.region with claims := [(x.2 / 16, 15, 1)] } }) c)) = true := by
  decide +kernel

/-- A ring of the last number in the strand's pavilion, with n records. -/
def withRing (n : Nat) (s : State) : State :=
  { s with rings := [{ pav := 0, ring := 15, fe := 15, base := 65472, log2 := 6, recs := (List.range n).map fun j => (j * 64, 64, false) }] }

/-- GBARX; MRING that defines the largest and the smallest ring and that ends one; MSEND of the longest and the shortest record, with and
without a completion register. -/
theorem witness_BarriersAndRingsLeave_defers : ((defers (run1 (withList 31 (at0 (.gbarx .always) none none none))) .always .none fun _ => true) &&
    ([(15 * 2 ^ 48 + 2 ^ 44 + 2 ^ 20, false), (15 * 2 ^ 48 + 6 * 2 ^ 16 + 65472, false),
        (15 * 2 ^ 48 + 65535, true)].all fun x =>
      let s0 := run1 (at0 (.mring .always (.left 1) (.right 1)) (v x.1) none none); let s := if x.2 then withRing 0 s0 else s0;
      defers s .always .left (fun c => decide (bits (opVal c.o.l) 63 52 = 0 ∧ bits (opVal c.o.l) 43 21 = 0 ∧
      (bits (opVal c.o.l) 20 16 = 0 ∧ (s.ring c.t.pav (bits (opVal c.o.l) 51 48)).isSome = true ∨
        6 ≤ bits (opVal c.o.l) 20 16 ∧ bits (opVal c.o.l) 20 16 ≤ 16 ∧
          (s.ring c.t.pav (bits (opVal c.o.l) 51 48)).isSome = false ∧ regionDefines c (bits (opVal c.o.l) 51 48) = false ∧
          bits (opVal c.o.l) 15 0 % 2 ^ bits (opVal c.o.l) 20 16 = 0))) true) &&
    ([(16 * 2 ^ 24, 2 ^ 57 + 127 * 2 ^ 50 + 511 * 2 ^ 41 + 61448), (6 * 2 ^ 24, 7 * 2 ^ 41 + 65480), (6 * 2 ^ 24, 2 ^ 41)].all fun x =>
      let s := run1 (at0 (.msend .always) (v x.1) (v x.2) none);
      defers s .always .both fun c => decide (bits (opVal c.o.l) 63 61 = 0 ∧ bits (opVal c.o.l) 31 29 = 0 ∧ bits (opVal c.o.l) 23 0 = 0 ∧
      6 ≤ bits (opVal c.o.l) 28 24 ∧ bits (opVal c.o.l) 28 24 ≤ 16 ∧
      bits (opVal c.o.r) 63 58 = 0 ∧ bits (opVal c.o.r) 40 36 = 0 ∧ bits (opVal c.o.r) 31 16 = 0 ∧
      bits (opVal c.o.r) 49 41 ≠ 0 ∧
      ((opVal c.o.r).getLsbD 57 = true → bits (opVal c.o.r) 56 50 < (s.task c.t.task).desc.regs) ∧
      bits (opVal c.o.r) 15 0 % 8 = 0 ∧ bits (opVal c.o.r) 15 0 + 8 * bits (opVal c.o.r) 49 41 ≤ 65536 ∧
      8 * (bits (opVal c.o.r) 49 41 + 1) ≤ 2 ^ bits (opVal c.o.l) 28 24))) = true := by decide +kernel

/-- MWAIT on the last ring, empty and with a record; GBAR at the last barrier of each scope. -/
theorem witness_BarriersAndRingsLeave : (([0, 1].all fun n =>
      let s := withRing n (run1 (at0 (.mwait .always (.left 1) (.right 1)) (v (15 * 2 ^ 32 + 6 * 2 ^ 24)) none none));
      defers s .always .left (fun c => decide (bits (opVal c.o.l) 63 61 = 0 ∧ bits (opVal c.o.l) 31 29 = 0 ∧ bits (opVal c.o.l) 23 0 = 0 ∧
        bits (opVal c.o.l) 60 48 = s.chip ∧ bits (opVal c.o.l) 47 36 = (s.task c.t.task).logPav c.t.pav) &&
        (match s.ring c.t.pav (bits (opVal c.o.l) 35 32) with
          | some rg => rg.dataRecs[(c.t.region.waits.find 15).getD 0 + queuedWaits c.t 15]? == (if n = 0 then none else some (0, 64))
          | none => false) && (c.t.region.deferred.all fun d => d.kind != .mwait)) true) &&
    ([1, 2, 3, 4].all fun sc => let s := run1 (at0 (.gbar .always (.left 1) .none) (v (65535 * 2 ^ 16 + sc * 256 + 255)) none none);
      issues s .always .left fun c => decide (bits (opVal c.o.l) 63 61 = 0 ∧ bits (opVal c.o.l) 47 32 = 0 ∧ bits (opVal c.o.l) 15 11 = 0 ∧
    1 ≤ bits (opVal c.o.l) 10 8 ∧ bits (opVal c.o.l) 10 8 ≤ 4 ∧
    (bits (opVal c.o.l) 10 8 ≤ 3 → bits (opVal c.o.l) 60 48 = 0) ∧
    bits (opVal c.o.l) 7 0 < (s.task c.t.task).desc.barriers ∧
    (bits (opVal c.o.l) 10 8 = 4 → bits (opVal c.o.l) 60 48 = s.chip ∨ s.reached (bits (opVal c.o.l) 60 48) = true)) &&
      boundaryReady c s && c.t.barrier.isNone)) = true := by decide +kernel

/-- A strand whose last descriptor names a buffer, and the module with that buffer. -/
def withBuf (b : BufRec) (t : Strand) (k : Task := placedTask) : State :=
  { run1 { t with bufs := [(31, 7)] } k with buffers := [(7, b)] }

/-- A bank's largest buffer of n slots, with f filled. -/
def buf (n f : Nat) : BufRec := { pav := 0, fe := 15, base := 0, size := 65536 / n, count := n, p := f, c := 0 }

/-- Each engine instruction with its largest command address and control word. -/
theorem witness_EnginesAndBuffersDefer_engines : (([Instr.cpy .always, .cpyt .always, .kappend .always, .kmerge .always, .mscan .always,
      .ksum .always, .igather .always, .walk .always].all fun i => [2 ^ 12 - 1, 0].all fun r =>
        let s := run1 (at0 i (v (2 ^ 57 - 8)) (v r) none);
      defers s .always .both fun c => decide ((opVal c.o.r).toNat < 2 ^ 12 ∧
        ((opVal c.o.r).getLsbD 3 = true → bits (opVal c.o.r) 10 4 < (s.task c.t.task).desc.regs) ∧
        (opVal c.o.l).toNat % 8 = 0 ∧ (opVal c.o.l).toNat < 2 ^ 57)) &&
    ([(0, 2 ^ 13 - 1), (1, 2 ^ 12 - 1)].all fun x =>
      let s := run1 (at0 (.coll .always) (v 0) (v x.2) none) { placedTask with desc := { placedTask.desc with flags := x.1 } };
      defers s .always .both fun c => decide ((opVal c.o.r).toNat < (if (s.task c.t.task).determ then 2 ^ 12 else 2 ^ 13) ∧
        ((opVal c.o.r).getLsbD 3 = true → bits (opVal c.o.r) 10 4 < (s.task c.t.task).desc.regs) ∧
        (opVal c.o.l).toNat % 8 = 0 ∧ (opVal c.o.l).toNat < 2 ^ 57))) = true := by decide +kernel

/-- WSLD of the last 64 KiB of a weight store; BUFDEF of the largest slot and of no buffer; ADVP and ADVC by all that is free and filled;
SLOAD and SSTORE of a transposed tile. -/
theorem witness_EnginesAndBuffersDefer_buffers : ((let s := withBuf (buf 1 0) (at0 (.wsld .always) (v (2 ^ 31 - 65536))
        (v (2 ^ 57 + 127 * 2 ^ 50 + 31 * 2 ^ 45 + 1024)) none);
      defers s .always .both fun c => decide (bits (opVal c.o.r) 63 58 = 0 ∧ bits (opVal c.o.r) 28 11 = 0 ∧ 1 ≤ bits (opVal c.o.r) 10 0 ∧
      bits (opVal c.o.r) 10 0 ≤ 1024) && (match s.bufOf c.t (bits (opVal c.o.r) 49 45) with
        | some x => 64 * bits (opVal c.o.r) 10 0 ≤ x.2.size
        | none => false) && bits (opVal c.o.r) 56 50 < (s.task c.t.task).desc.regs &&
        (opVal c.o.l).toNat % 64 == 0 && (opVal c.o.l).toNat + 64 * bits (opVal c.o.r) 10 0 == 2 ^ 31) &&
    ([(1023 * 2 ^ 40, 31), (0, 32)].all fun x => let s := run1 (at0 (.bufdef .always) (v x.1) (v x.2) none);
      defers s .always .both fun c => decide (bits (opVal c.o.l) 24 0 = 0 ∧ (opVal c.o.r).toNat < 64 ∧
      ((opVal c.o.r).getLsbD 5 = true → opVal c.o.l = 0) ∧
      ((opVal c.o.r).getLsbD 5 = false →
        64 * bits (opVal c.o.l) 59 50 + 64 * (bits (opVal c.o.l) 49 40 + 1) * (bits (opVal c.o.l) 39 25 + 1) ≤ 65536) ∧
      bits (opVal c.o.r) 4 0 < (s.task c.t.task).desc.buffers)) &&
    ([(Instr.advp .always, 3), (.advc .always, 1)].all fun x => let s := withBuf (buf 4 1) (at0 x.1 (v 31) (v x.2) none);
      defers s .always .both fun c => (opVal c.o.l).toNat < 32 && (opVal c.o.r).toNat < 65536 && c.t.region.deferred.isEmpty &&
        (s.bufOf c.t 31).any fun b => (opVal c.o.r).toNat == if x.2 = 3 then b.2.room else b.2.filled) &&
    ([Instr.sload .always, .sstore .always].all fun i =>
      let s := withBuf (buf 4 1) (at0 i (v (4095 * 2 ^ 52 + 31 * 2 ^ 47 + 31 * 2 ^ 26 + 31 * 2 ^ 16 + 3 * 2 ^ 14 + 2 ^ 12 + 127 * 32)) (v 0) none);
      defers s .always .both fun c => (streamChecks c s (opVal c.o.l)).all fun x => !x.1)) = true := by decide +kernel
/-! ### Witnesses: tables, system registers, queries -/

/-- A task with the largest domain and indirection tables. -/
def tableTask : Task := { placedTask with mdt := 256, itb := 256 }

/-- GDEF of a mask of mode 1 with every field set; KPUT of a run and KDEL of the last key into the last domain; each MDOM operation;
ITBL of the last entry, valid and not. -/
theorem witness_TableAndSystemInstructionsDefer_tables : (([(3 * 2 ^ 62 + 5 * 2 ^ 56 + 2 ^ 50 + 2 ^ 32 - 1, 2 ^ 64 - 1), (0, 0)].all fun x =>
      let s := run1 (at0 (.gdef .always) (v x.1) (v x.2) none); defers s .always .both fun c =>
        !gdefBad (opVal c.o.l) (opVal c.o.r) && genPairs (genKind (bits (opVal c.o.l) 63 62)) (Fmt.ofTag (bits (opVal c.o.l) 61 59))) &&
    (let s := withBuf (buf 4 1) (at0 (.kput .always) (v (Fmt.tag .int8 * 2 ^ 61 + 31 * 2 ^ 56 + 64 * 2 ^ 21))
        (v (2 ^ 64 - 2 ^ 36)) none) tableTask;
      defers s .always .both fun c => !(vref (opVal c.o.l)).low && ((controlChecks c s (opVal c.o.r) false).all fun x => !x.1) &&
        (vref (opVal c.o.l)).fmt == .int8 && (s.bufOf c.t (vref (opVal c.o.l)).buf).isSome &&
        ([(vref (opVal c.o.l)).run (vref (opVal c.o.l)).len].all fun r => !runBad c s r && runReady c s r && (r.prod || !runPoisoned c s r))) &&
    (let s := run1 (at0 (.kdel .always) (v (2 ^ 40 - 1)) (v (255 * 2 ^ 56 + 2 ^ 44 - 2 ^ 36)) none) tableTask;
      defers s .always .both fun c => (opVal c.o.l).toNat < 2 ^ 40 && ((controlChecks c s (opVal c.o.r) true).all fun x => !x.1)) &&
    ([(255 * 2 ^ 52 + 4095 * 2 ^ 40 + 15 * 2 ^ 22, 0), (2 ^ 60 + 255 * 2 ^ 52 + 4095 * 2 ^ 40, 0), (2 * 2 ^ 60 + 255 * 2 ^ 52, 0),
        (3 * 2 ^ 60 + 255 * 2 ^ 52, 0), (4 * 2 ^ 60 + 255 * 2 ^ 52 + 4095 * 2 ^ 40, 0)].all fun x =>
      let s := run1 (at0 (.mdom .always) (v x.1) (v x.2) none) tableTask;
      defers s .always .both fun c => (mdomChecks c s (opVal c.o.l) (opVal c.o.r)).all fun x => !x.1) &&
    ([2 ^ 63 + 2 ^ 57 - 1, 0].all fun r => let s := run1 (at0 (.itbl .always) (v (2 ^ 18 - 1)) (v r) none) tableTask;
      defers s .always .both fun c => decide ((opVal c.o.l).toNat < 2 ^ 18 ∧ bits (opVal c.o.l) 17 10 < bits (s.task c.t.task).itb 8 0 ∧
      bits (opVal c.o.r) 62 57 = 0 ∧ ((opVal c.o.r).getLsbD 63 = false → opVal c.o.r = 0)))) = true := by decide +kernel

/-- MTSR of every register but RCNT; RESUME of a strand that has faulted, of one that has not and of none; TLBI of each kind. -/
theorem witness_TableAndSystemInstructionsDefer_system : (([1, 2, 4, 0x10, 0x11, 0x20, 0x21, 0x22, 0x30].all fun n =>
      let s := run1 (at0 (.mtsr .always n) (v (2 ^ 64 - 1)) none none);
      defers s .always .left fun c => n != 3 && (s.task c.t.task).privileged) &&
    ([(0, StrandState.faulted), (0, .ready), (5, .ready)].all fun x =>
      let s0 := run1 (at0 (.resume .always (.left 1)) (v x.1) (v (2 ^ 64 - 4)) none);
      let s := { s0 with cur := ⟨1, 0⟩, strands := { task := 0, pav := 0, state := x.2 } :: s0.strands.map fun t => { t with place := 1 } };
      issues s .always .both fun c => (opVal c.o.r).toNat % 4 == 0 && (s.task c.t.task).privileged && c.t.region.deferred.length < 32 &&
        (((s.ofHandle (opVal c.o.l)).bind s.strand).any fun t => t.resumable (opVal c.o.r)) == (x.2 == .faulted) &&
        lands (s.deferred c { kind := .resume }) c (.left 1) .none (v 1) (v 1)) &&
    ([0, 2 ^ 62 + 2 ^ 57 - 2 ^ 21, 2 * 2 ^ 62, 3 * 2 ^ 62 + 2 ^ 24 - 2 ^ 12].all fun l =>
      let s := run1 (at0 (.tlbi .always) (v l) (v (127 * 16 + 8)) none);
      defers s .always .both fun c => decide (bits (opVal c.o.l) 61 57 = 0 ∧ bits (opVal c.o.l) 11 0 = 0 ∧ (opVal c.o.r).toNat < 2 ^ 12 ∧
      (opVal c.o.r).toNat % 8 = 0 ∧ (bits (opVal c.o.l) 63 62 = 1 → bits (opVal c.o.l) 20 12 = 0) ∧
      (bits (opVal c.o.l) 63 62 = 2 → bits (opVal c.o.l) 56 12 = 0) ∧
      (bits (opVal c.o.l) 63 62 = 3 → bits (opVal c.o.l) 56 24 = 0) ∧
      ((opVal c.o.r).getLsbD 3 = true → bits (opVal c.o.r) 10 4 < (s.task c.t.task).desc.regs) ∧
      (s.task c.t.task).privileged = true))) = true := by decide +kernel

/-- A task that is not privileged. -/
def plainTask : Task := { placedTask with privileged := false }

theorem witness_PrivilegeFaults : ((issues (run1 (at0 (.mtsr .always 3) (v 0) none none)) .always .left fun c => !c.b.performed) &&
    (issues (run1 (at0 (.mtsr .always 0x30) (v 0) none none) plainTask) .always .left fun c => !c.b.performed) &&
    ([4, 0x10, 0x11, 0x30].all fun n => issues (run1 (at0 (.mfsr .always n .none) none none none) plainTask) .always .none fun c =>
      !c.b.performed) &&
    (issues (run1 (at0 (.resume .always .none) (v 1) (v 0) none) plainTask) .always .both fun c => !c.b.performed && opVal c.o.r == 0) &&
    (issues (run1 (at0 (.idle .always .none) none none none) plainTask) .always .none fun c => !c.b.performed && !isValue c.o.l)) = true := by
  decide +kernel

/-- TRAP of the largest code; a ring with one place left for a handler's strand; both predicates that do not hold. -/
theorem witness_TrapsAssert : ((issues (run1 (at0 (.trap .always 0x1FF) none none none)) .always .none fun c => !c.b.performed) &&
    (let s := run1 (at0 (.trap .always 0x1FF) none none none); s.ringRoom 0 false && Memory.wf s.mem && Memory.wf s.accW && Memory.wf s.accC &&
      (s.terrace 0).held.isEmpty && (s.strand 0).isSome) &&
    (stands (run1 (at0 (.trap .onTrue 0) none none (v 0))) 0 0 fun c => c.o.status == .idle && c.o.p == v 0) &&
    (stands (run1 (at0 (.trap .onFalse 0) none none (v 1))) 0 0 fun c => c.o.status == .idle && c.o.p == v 1)) = true := by decide +kernel

/-- The step 2 of a region whose one entry writes RINGHOLD, and the firings, privileged and not. -/
theorem witness_RingholdRegister : (bits (0xFFFFF : Word) 19 0 != 0 && bits (0xFFF00000 : Word) 19 0 == 0 &&
    (let d : Deferred := { kind := .mtsr, x := 0x30, l := 5 };
      (run1 { fires (blockOf (.stop .always) {}) with phase := .step2, pub := some { scope := 0, lines := [], deferred := [d] } }).strand 0 |>.isSome) &&
    ([placedTask, plainTask].all fun k => (issues (run1 (at0 (.mfsr .always 0x30 (.left 1)) none none none) k) .always .none fun c =>
      !c.b.performed && lands (run1 (at0 (.mfsr .always 0x30 (.left 1)) none none none) k) c (.left 1) .none (v 1) (v 1))) &&
    (defers (run1 (at0 (.mtsr .always 0x30) (v 5) none none)) .always .left fun c => c.t.region.deferred.isEmpty) &&
    (issues (run1 (at0 (.mtsr .always 0x30) (v 5) none none) plainTask) .always .left fun c => !c.b.performed)) = true := by decide +kernel

theorem witness_EccstatRegister : ((7 < State.reset.terraces.length) && decide (2 ^ 57 - 1 < 2 ^ 57)) = true := by decide +kernel

/-- MFSR of every register; PERF of a count and of both cycle counters; IDLE before and after its answer; WSREF of the window and of the
last segment. -/
theorem witness_SystemReadsComplete : (([0, 1, 2, 3, 4, 0x10, 0x11, 0x20, 0x21, 0x22, 0x30, 0x7FF].all fun n =>
      let s := run1 (at0 (.mfsr .always n (.left 1)) none none none); issues s .always .none fun c => (s.task c.t.task).privileged &&
        lands s c (.left 1) .none (v 1) (v 1)) &&
    (let s := run1 (at0 (.mfsr .always 1 (.left 1)) none none none) plainTask; issues s .always .none fun c =>
      lands s c (.left 1) .none (v 1) (v 1)) &&
    ([0, 5, 63].all fun n => let s := run1 (at0 (.perf .always n (.left 1)) none none none); issues s .always .none fun c =>
        lands s.tick c (.left 1) .none (v 1) (v 1)) &&
    ([v 3, none].all fun a => let s := run1 (at0 (.idle .always (.left 1)) a none none); issues s .always .none fun c =>
        (isValue c.o.l == a.isSome) && (s.task c.t.task).privileged && lands s c (.left 1) .none (v 1) (v 1)) &&
    ([64, 63].all fun n => let s := run1 (at0 (.wsref .always (.left 1) (.right 1)) (v n) none none); issues s .always .left fun c =>
        (opVal c.o.l).toNat == n && landsV s.tick c)) = true := by decide +kernel

/-- BUFINFO, WAITF and WAITE at the counts and one above; GSEED of the last generator; MATCH and MATCHC in the last domain; ITPERM of the
last entry. -/
theorem witness_QueriesLeaveAndComplete : (([(Instr.bufinfo .always (.left 1) (.right 1), 0)].all fun x =>
      let s := withBuf (buf 4 1) (at0 x.1 (v 31) none none); issues s .always .left fun c => (s.bufOf c.t 31).isSome && landsV s c) &&
    ([(Instr.waitf .always (.left 1) (.right 1), 1), (.waitf .always (.left 1) (.right 1), 2), (.waite .always (.left 1) (.right 1), 3)].all
      fun x => let s := withBuf (buf 4 1) (at0 x.1 (v 31) (v x.2) none); issues s .always .both fun c =>
        (s.bufOf c.t 31).any (fun b => (opVal c.o.r).toNat ≤ b.2.count && b.2.filled == 1 && b.2.room == 3) && landsV s c) &&
    (let s := run1 { at0 (.gseed .always (.left 1) (.right 1)) (v 15) none none with gens := [(15, (0, 0))] };
      issues s .always .left fun c => (opVal c.o.l).toNat < 16 && (s.gen c.t 15).isSome && landsV s c) &&
    ([Instr.matchQ (.left 1) (.right 1), .matchc (.left 1) (.right 1)].all fun i =>
      let s := withBuf (buf 4 1) (at0 i (v (Fmt.tag .int8 * 2 ^ 61 + 31 * 2 ^ 56 + 64 * 2 ^ 21)) (v (255 * 2 ^ 56 + 31 * 2 ^ 43)) (v 0)) tableTask;
      issues s .always .three fun c => !(vref (opVal c.o.l)).low && decide (bits (opVal c.o.r) 27 0 = 0 ∧
        bits (opVal c.o.r) 49 48 ≠ 3 ∧ bits (opVal c.o.r) 63 56 < bits (s.task c.t.task).mdt 8 0) &&
        (s.bufOf c.t (bits (opVal c.o.r) 47 43)).isSome && !tempBad (bits (opVal c.o.p) 63 32) && boundaryReady c s &&
        ([(vref (opVal c.o.l)).run (vref (opVal c.o.l)).len].all fun r => !runBad c s r && runReady c s r && (r.prod || !runPoisoned c s r))) &&
    (let s := run1 (at0 (.itperm .always .none .none) (v (2 ^ 18 - 1)) (v (2 ^ 57 - 2)) none) tableTask;
      issues s .always .both fun c => (opVal c.o.l).toNat < 2 ^ 18 && bits (opVal c.o.l) 17 10 < bits (s.task c.t.task).itb 8 0 &&
        (opVal c.o.r).toNat % 2 == 0 && (s.fireCheck c.t (opVal c.o.r) 2).isNone && boundaryReady c s)) = true := by decide +kernel
/-! ### Witnesses: vectors, tiles, accumulators -/

/-- A strand with a filled buffer behind descriptor 31 and an empty one behind descriptor 30; m stands in the bank of the first. -/
def withRuns (t : Strand) (m : List Byte := []) : State :=
  let s := run1 { t with bufs := [(30, 8), (31, 7)] };
  { s with buffers := [(7, { pav := 0, fe := 15, base := 0, size := 16384, count := 4, p := 4 }),
                       (8, { pav := 0, fe := 14, base := 0, size := 16384, count := 4 })],
           mem := Memory.writeN s.mem (bankKey 0 15) m }

/-- A left VREF over both buffers, and a right one. -/
def vl (f : Fmt) (len : Nat) : Option Token := v (f.tag * 2 ^ 61 + 31 * 2 ^ 56 + len * 2 ^ 21 + 30 * 2 ^ 16)
def vr (f : Fmt) (len ctl : Nat) : Option Token := v (f.tag * 2 ^ 61 + 31 * 2 ^ 56 + len * 2 ^ 21 + ctl)

/-- `RunsServed`, computed. -/
def served (c : Ctx) (s : State) (runs : List Run) : Bool := runs.all fun r => !runBad c s r && runReady c s r && (r.prod || !runPoisoned c s r)

/-- Every format that an instruction takes, with runs of no element, of equal and of different lengths, and of a whole buffer. -/
theorem witness_VectorMapsComplete_pairs : (([Fmt.int32, .fp32, .fp64, .bf16, .fp16].all fun f => [(0, 0), (3, 3), (2, 3), (65536 / (f.width / 8), 1)].all
      fun n => let s := withRuns (at0 (.vadd .always (.left 1) (.right 1)) (vl f n.1) (vr f n.2 0) none);
      issues s .always .both fun c => !(vref (opVal c.o.l)).low && (vref (opVal c.o.r)).ctl == 0 &&
        (vref (opVal c.o.l)).fmt == (vref (opVal c.o.r)).fmt && arithFmt (vref (opVal c.o.l)).fmt &&
        served c s [(vref (opVal c.o.l)).run (min n.1 n.2), (vref (opVal c.o.r)).run (min n.1 n.2),
          (vref (opVal c.o.l)).dst (runBytes f (min n.1 n.2))] && landsV s c) &&
    ([Fmt.int8, .int4, .ps8].all fun f => let s := withRuns (at0 (.vxor .always (.left 1) (.right 1)) (vl f 3) (vr f 3 0) none);
      issues s .always .both fun c => !(vref (opVal c.o.l)).low && (vref (opVal c.o.r)).ctl == 0 &&
        served c s [(vref (opVal c.o.l)).run 3, (vref (opVal c.o.r)).run 3, (vref (opVal c.o.l)).dst (runBytes f 3)] && landsV s c)) = true := by
  decide +kernel

theorem witness_VectorMapsComplete_singles : (([Fmt.int32, .fp32, .fp64, .bf16, .fp16].all fun f => [0, 3, 65536 / (f.width / 8)].all fun n =>
      let s := withRuns (at0 (.vabs .always (.left 1) (.right 1)) (vl f n) none none);
      issues s .always .left fun c => !(vref (opVal c.o.l)).low && arithFmt (vref (opVal c.o.l)).fmt && (vref (opVal c.o.l)).len == n &&
        served c s [(vref (opVal c.o.l)).run n, (vref (opVal c.o.l)).dst (runBytes f n)] && landsV s c)) = true := by decide +kernel

/-- VFMA of three lengths; VCVT to each format; VSEL; VCMP of each comparison; VSHR of each kind. -/
theorem witness_VectorOthersComplete_controls : ((let s := withRuns (at0 (.vfma (.left 1) (.right 1)) (vl .fp32 2) (vr .fp32 3 0) (vr .fp32 4 0));
      issues s .always .three fun c => !(vref (opVal c.o.l)).low && (vref (opVal c.o.r)).ctl == 0 && (vref (opVal c.o.p)).ctl == 0 &&
        served c s [(vref (opVal c.o.l)).run 2, (vref (opVal c.o.r)).run 2, (vref (opVal c.o.p)).run 2, (vref (opVal c.o.l)).dst 8] && landsV s c) &&
    ([0, 7, 8, 15].all fun r => let s := withRuns (at0 (.vcvt .always (.left 1) (.right 1)) (vl .fp32 3) (v r) none);
      issues s .always .both fun c => !(vref (opVal c.o.l)).low && (opVal c.o.r).toNat < 16 &&
        served c s [(vref (opVal c.o.l)).run 3, (vref (opVal c.o.l)).dst (runBytes (Fmt.ofTag (r % 8)) 3)] && landsV s c) &&
    (let s := withRuns (at0 (.vsel .always (.left 1) (.right 1)) (vl .int8 9) (vr .int8 9 (31 * 2 ^ 16)) none);
      issues s .always .both fun c => !(vref (opVal c.o.l)).low && !(vref (opVal c.o.r)).low &&
        served c s [(vref (opVal c.o.l)).run 9, (vref (opVal c.o.r)).run 9, ⟨(vref (opVal c.o.r)).dbuf, (vref (opVal c.o.r)).dk, 2, 2, false⟩,
          (vref (opVal c.o.l)).dst 9] && landsV s c) &&
    ([0, 1, 2, 3, 4].all fun k => let s := withRuns (at0 (.vcmp .always (.left 1) (.right 1)) (vl .int32 9) (vr .int32 9 k) none);
      issues s .always .both fun c => !(vref (opVal c.o.l)).low && (vref (opVal c.o.r)).ctl ≤ 4 && arithFmt (vref (opVal c.o.l)).fmt &&
        served c s [(vref (opVal c.o.l)).run 9, (vref (opVal c.o.r)).run 9, (vref (opVal c.o.l)).dst 2] && landsV s c) &&
    ([0, 1].all fun k => let s := withRuns (at0 (.vshr .always (.left 1) (.right 1)) (vl .int32 2) (vr .int32 3 k) none);
      issues s .always .both fun c => !(vref (opVal c.o.l)).low && (vref (opVal c.o.r)).ctl ≤ 1 &&
        served c s [(vref (opVal c.o.l)).run 2, (vref (opVal c.o.r)).run 2, (vref (opVal c.o.l)).dst 8] && landsV s c)) = true := by decide +kernel

/-- VSCAN; VPERM with an index at either end and one outside; VBCAST; VISECT of one common coordinate. -/
theorem witness_VectorOthersComplete_sequences : ((let s := withRuns (at0 (.vscan .always (.left 1) (.right 1)) (vl .fp32 3) none none);
      issues s .always .left fun c => !(vref (opVal c.o.l)).low && arithFmt (vref (opVal c.o.l)).fmt &&
        served c s [(vref (opVal c.o.l)).run 3, (vref (opVal c.o.l)).dst 12] && landsV s c) &&
    (let s := withRuns (at0 (.vperm .always (.left 1) (.right 1)) (vl .int32 3) (vr .int32 3 0) none) (toLe 4 0 ++ toLe 4 2 ++ toLe 4 (2 ^ 32 - 1));
      issues s .always .both fun c => let x := vref (opVal c.o.l); let y := vref (opVal c.o.r);
        let idx := (elems c s y 3).map (signedOf 32); idx == [0, 2, -1] && !x.low && y.ctl == 0 && y.fmt == .int32 &&
        served c s [⟨x.buf, x.k, 0, runBytes x.fmt x.len, false⟩, y.run 3, x.dst 12] &&
        ([0, 2].all fun i => runReady c s (x.run (i + 1)) && !bytesPoisoned c s x (i * 4) 4) && landsV s c) &&
    (let s := withRuns (at0 (.vbcast .always (.left 1) (.right 1)) (v (5 * 2 ^ 61 + 65536 * 2 ^ 21 % 2 ^ 41 + 30 * 2 ^ 16)) (v 7) none);
      issues s .always .both fun c => let x := vref (opVal c.o.l); !x.low && x.buf == 0 && x.k == 0 && x.len == 65536 &&
        served c s [x.dst (runBytes x.fmt x.len)] && landsV s c) &&
    (let s := withRuns (at0 (.visect .always (.left 1) (.right 1)) (vl .int32 1) (vr .int32 1 1) none) [1, 2, 3, 4, 5, 0, 0, 0];
      issues s .always .both fun c => let x := vref (opVal c.o.l); let y := vref (opVal c.o.r); !x.low && y.ctl == 1 &&
        served c s [⟨x.buf, x.k, 0, 8, false⟩, ⟨y.buf, y.k, 0, 8, false⟩] && (match isectGo c s x y (y.ctl == 0) 3 0 0 none none [] with
          | .done out _ => out.length == 1 && !runBad c s (x.dst 8) && runReady c s (x.dst 8)
          | _ => false) && landsV s c)) = true := by decide +kernel

/-- A page bound of one dimension; the best of three elements. -/
theorem witness_SelectionCompletes : ((let s := withRuns (at0 (.matchb .always (.left 1) (.right 1)) (vl .int8 64) (vr .int8 16 15) none);
      issues s .always .both fun c => let x := vref (opVal c.o.l); let y := vref (opVal c.o.r);
        !x.low && y.ctl < 512 && x.len == 2 * (2 * 16) && y.len == y.ctl % 256 + 1 && served c s [x.run 64, y.run 16, x.dst 8] && landsV s c) &&
    ([1, 256].all fun k => let s := withRuns (at0 (.topk .always (.left 1) (.right 1)) (vl .fp32 3) (v k) none);
      issues s .always .both fun c => let x := vref (opVal c.o.l);
        !x.low && (opVal c.o.r).toNat == k && served c s [x.run 3, x.dst (8 * min k 3)] && landsV s c)) = true := by decide +kernel

/-- The bytes of a result are other bytes than the one after it. -/
theorem witness_VectorResultFrame : (let s := withRuns (at0 (.vscan .always .none .none) (vl .fp32 3) none none);
    issues s .always .left fun c => match s.bufOf c.t 30 with
      | some x => (List.range 4).all fun o => bankKey 0 14 + 4 != x.2.byteKey true 0 o
      | none => false) = true := by decide +kernel
/-- The token of slot 3 behind descriptor 31, and a destination at slot 3 behind descriptor 30. -/
def tileOf (f : Fmt) (aux : Nat) : Option Token := v (f.tag * 2 ^ 61 + 31 * 2 ^ 47 + 3 * 2 ^ 32 + aux)
def dstOf (f : Fmt) (aux : Nat) (sc : Bool := false) : Option Token :=
  v (f.tag * 2 ^ 61 + (if sc then 2 ^ 58 else 0) + 30 * 2 ^ 47 + 3 * 2 ^ 32 + aux)

/-- TLD, TST and TLDT of the last filled and the last free slot: each format, swizzled, without scales and with scales at the end of the
bank. -/
theorem witness_TilesComplete_moves : (([(Fmt.int32, 1), (.fp32, 0), (.fp64, 0), (.bf16, 1), (.fp16, 0), (.int8, 2 ^ 31), (.int4, 65504), (.ps8, 0)].all fun x =>
      let s := withRuns (at0 (.tld .always (.left 1) (.right 1)) (tileOf x.1 x.2) none none); issues s .always .left fun c =>
        let t := tileTok (opVal c.o.l); (match s.bufOf c.t t.buf with
          | some (_, b) => t.slot < b.count && t.fmt.tileBytes ≤ b.size && t.slot < b.filled
          | none => false) && t.res == 0 && t.fe == 0 && !auxBad t.fmt t.pl t.aux && landsV s c) &&
    ([(Fmt.int32, 1, 0), (.fp32, 0, 1), (.fp64, 0, 0), (.int8, 2 ^ 31, 2 ^ 31), (.int4, 65504, 0), (.ps8, 0, 65504)].all fun x =>
      let s := withRuns (at0 (.tst .always (.left 1) (.right 1)) (tileOf x.1 x.2.1) (dstOf x.1 x.2.2) none); issues s .always .both fun c =>
        let t := tileTok (opVal c.o.l); let d := dstSpec (opVal c.o.r); (match s.bufOf c.t d.buf with
          | some (_, b) => d.k < b.count && d.fmt.tileBytes ≤ b.size && d.k < b.room
          | none => false) && (s.bufOf c.t t.buf).isSome && d.res == 0 && !tokBad c s t && d.fmt == t.fmt && !d.rm && !d.scauto &&
          !auxBad t.fmt t.pl t.aux && !auxBad d.fmt d.pl d.aux && !tilePoisoned c s t &&
          ((!t.fmt.isNarrow || (nosc t.aux && nosc d.aux)) != (t.fmt.isNarrow && !nosc t.aux && !nosc d.aux)) &&
          !scalesPoisoned c s t.fe t.fmt t.aux && landsV s c)) = true := by decide +kernel

/-- TCVT of a tile and of an accumulator, at given and at chosen scales; TDRAIN by the last route table entry, with and without a
release. -/
theorem witness_TilesComplete : (([(tileOf .fp32 0, dstOf .int8 0, Target.right 1), (tileOf .int8 0, dstOf .int4 65504 true, .none),
      (v (2 * 2 ^ 61 + 4 * 2 ^ 56 + 15 * 2 ^ 52 + 2 * 2 ^ 50), dstOf .bf16 1, .right 1)].all fun x =>
      let s := withRuns (at0 (.tcvt .always (.left 1) x.2.2) x.1 x.2.1 none); issues s .always .both fun c =>
        let d := dstSpec (opVal c.o.r); (match s.bufOf c.t d.buf with
          | some (_, b) => d.k < b.count && d.fmt.tileBytes ≤ b.size && d.k < b.room && (d.scauto || !scalesPoisoned c s b.fe d.fmt d.aux)
          | none => false) && (match tcvtSource c s (opVal c.o.l) with
          | .ok _ => true
          | .error _ => false) && d.res == 0 && (!d.scauto || (d.fmt.isNarrow && !nosc d.aux)) && !auxBad d.fmt d.pl d.aux &&
          lands s c (.left 1) x.2.2 (v 1) none && (x.2.2 == .none || landsV s c)) &&
    ([0, 2 ^ 63].all fun r => let b := { blockOf (.tdrain .always (.left 1) (.right 1)) { l := v (4 * 2 ^ 56 + 15 * 2 ^ 52 + 3 * 2 ^ 50), r := v r } with ext := 0xFF01 };
      let s := run1 (fires b) { placedTask with routes := List.replicate 255 0 ++ [BitVec.ofNat 64 (2 ^ 63)] };
      defers s .always .both (fun c => let t := accTok (opVal c.o.l); t.zero && !t.fmtBad && c.b.ext.toNat % 256 == 1 &&
        c.b.ext.toNat / 2 ^ 8 % 256 + bits (opVal c.o.r) 62 0 % 1 == 255 && ((s.task c.t.task).routes[255]?).any (fun e =>
          bit e 63 && bits e 62 60 == 0 && bits e 8 0 == 0) && s.stagings.length < 2 && !accOverlap c s (accIds c.t.pav t.fe t.acc false)) true)) = true := by
  decide +kernel

/-- A tile of the widest format and of the narrowest, with the largest codes, neither of them swizzled. -/
theorem witness_TileFormsRoundTrip : ([Fmt.fp64, .int4].all fun f => let rows := List.replicate 32 (List.replicate 32 (2 ^ f.width - 1));
    !swizzled f 0 && (rows[31]?).any (fun r => r[31]? == some (2 ^ f.width - 1)) && rows.length == 32 && rows.all fun r => r.length == 32 && r.all fun e => e < 2 ^ f.width) = true := by decide +kernel

/-- TZERO of the last accumulator and of the last FP64 pair; TMMA of each pair of formats at full width, of generators, with and without
accumulation, alone and where DETERM compares accumulators. -/
theorem witness_AccumulatorsComplete : (([(0, 3), (1, 3), (2, 2)].all fun x =>
      let s := run1 (at0 (.tzero .always (.left 1) .none) (v (x.1 * 2 ^ 61 + 4 * 2 ^ 56 + 15 * 2 ^ 52 + x.2 * 2 ^ 50)) none none)
        { placedTask with desc := { placedTask.desc with flags := 1 } };
      issues s .always .left fun c => let t := accTok (opVal c.o.l);
        t.zero && !t.fmtBad && !accOverlap c s (accIds c.t.pav t.fe t.acc (t.tag == 2)) && lands s c (.left 1) .none (v 1) (v 1)) &&
    ([(Fmt.fp32, Fmt.fp32, false, 0), (.fp64, .fp64, false, 2), (.bf16, .bf16, true, 0), (.int8, .int4, true, 0), (.int4, .int4, false, 1),
        (.ps8, .int8, true, 0), (.fp16, .fp16, false, 3)].all fun x =>
      let scale := x.2.2.1 && !x.1.isFloat && x.1 != .ps8;
      let ctl := 15 * 2 ^ 60 + x.2.2.2 * 2 ^ 58 + (if x.2.2.1 then 2 ^ 57 else 0) + (if scale then 2 ^ 54 else 0) + (x.1.sig - 1) * 2 ^ 47 +
        (x.2.1.sig - 1) * 2 ^ 40;
      let s := withRuns (at0 (.tmma (.left 1) (.right 1)) (tileOf x.1 0) (tileOf x.2.1 0) (v ctl));
      issues s .always .three fun c => let w := opVal c.o.p; (match mmaOperand c s (opVal c.o.l), mmaOperand c s (opVal c.o.r) with
        | .ok a, .ok b => (pairAcc a.fmt b.fmt (bit w 54)).any (fun f => let sc := f == .fp32 && !a.fmt.isFloat;
          (f != .fp64 || bits w 59 58 % 2 == 0) && !a.auxBad sc && !b.auxBad sc && !a.poisoned c s sc && !b.poisoned c s sc &&
          !accOverlap c s (accIds c.t.pav 15 (bits w 59 58) (f == .fp64))) && bits w 53 47 + 1 ≤ a.fmt.sig && bits w 46 40 + 1 ≤ b.fmt.sig
        | _, _ => false) && bits w 39 0 == 0 && landsV s c)) = true := by decide +kernel

/-- A generator stands for an operand of TMMA. -/
theorem witness_AccumulatorsComplete_generator : (let w := BitVec.ofNat 64 (15 * 2 ^ 60 + 8 * 2 ^ 56);
    let s := run1 { at0 (.tmma (.left 1) .none) (some (.value w)) (some (.value w)) (v (63 * 2 ^ 40 % 2 ^ 40)) with gens := [(15, (0, 0))] };
    issues s .always .three fun c => match mmaOperand c s (opVal c.o.l) with
      | .ok a => a.fmt == .int32 && !a.auxBad false && !a.poisoned c s false
      | .error _ => false) = true := by decide +kernel

theorem witness_AccumulatorReadsBack : (Memory.wf State.reset.accW && (List.replicate 32 (List.replicate 32 (2 ^ 32 - 1))).all (fun r =>
    r.length == 32 && r.all fun e => e < 2 ^ 32) && accId 0 15 3 != accId 0 15 2) = true := by decide +kernel
/-! ### Witnesses: strands, blocks, regions, faults -/

/-- A module whose Terrace 0 is admitted with every grove of it whole. -/
def admitted (s : State) : State := s.modTerrace 0 fun te => { te with state := 2, groveOk := 0xFFFFFFFF }

/-- A waiting strand beside fifteen resident ones: the last place of the last pavilion of its grove. -/
theorem witness_BlocksComplete_place : (let t : Strand := { task := 0, pav := 0, state := .waiting };
    let s0 := admitted (run1 t); let s := { s0 with strands := t :: (List.range 15).map fun p => { task := 0, pav := 15, place := p, state := .ready } };
    match s.strand 0 with
      | some t => t.kind == .ordinary && t.state == .waiting && s.mayPlace t 15 && s.freePlace 15 == some 15
      | none => false) = true := by decide +kernel

/-- A block of the largest count that the window holds, the first of its region, one that goes on and one that ends the region; and one
that load check 1 refuses. -/
def windowed (h : Word32) (ws : List Word32) (first : Bool) : State :=
  let s := run1 { task := 0, pav := 0, state := .ready, phase := .fetch, ip := 0x1000, region := { first := first } };
  { s with windows := [⟨0, 0, 0x1000, h, ws⟩] }

theorem witness_BlocksComplete_fetch : (([(true, [Instr.bro .always 1]), (false, [.bro .always 1]), (false, [.rgn 4 15 true true, .bro .always 1])].all fun y =>
      let x := (y.1, y.2.map fun i => (encode i).getD 0); let s := windowed (if x.2.length = 1 then 0 else 0x04000000) x.2 x.1; match s.strand 0 with
        | some t => t.kind == .ordinary && t.state == .ready && t.phase == .fetch && t.block.isNone && (s.task t.task).status == .running &&
          t.startFault.isNone && (match s.blockAt 0 t with
            | .block h ext ws => ws == x.2 && loadCheck (s.task t.task).desc.regs h ext ws == none
            | _ => false)
        | none => false) &&
    (let s := windowed 0x20 [0x1C000001#32] true; match s.strand 0 with
        | some t => (match s.blockAt 0 t with
            | .block h ext ws => (loadCheck (s.task t.task).desc.regs h ext ws).isSome && !t.region.kept
            | _ => false)
        | none => false)) = true := by decide +kernel

/-- A block that has resolved its branch and a write; the write of a live-in register. -/
def resolved (live : BitVec 128) : Strand :=
  { fires { addr := 0x1000, hdr := 0x04100000, words := [0x1C000000], slots := [{ status := .done }], branch := some (0, .goto 0),
            writes := [(0, 127, some 5)] } with liveIn := live }

theorem witness_BlocksComplete : ([0, BitVec.twoPow 128 127].all fun live => let s := run1 (resolved live); match s.strand 0 with
    | some t => (match t.block with
      | some b => t.kind == .ordinary && t.phase == .run && b.complete && !b.boundaryOut && !b.branchDue && !b.performed &&
        (b.writes.all fun w => !t.pending.getLsbD w.2.1) && b.writesInOrder == [(0, 127, some 5)] && t.liveIn == live &&
        (commitLines b t.fp t.region.store).length ≤ 64 && s.poolLines t.pav ≤ 256
      | none => false)
    | none => false) = true := by decide +kernel

theorem witness_RegionOpens : (let s := run1 { fires (blockOf (.stop .always) {}) with block := none, phase := .fetch };
    (s.strand 0).any fun t => t.pendFault.isNone && !t.yieldMark) = true := by decide +kernel

/-- A commit with one write of the last register, at each branch; a null leaves its register. -/
theorem witness_CommitTakesEffect : ([Branch.goto 8, .call 8 16, .ret 8 16, .stop].all fun br => [some (5 : Word), none].all fun x =>
    let b := { blockOf (.stop .always) {} with branch := some (0, br), writes := [(0, 127, x)] }; let s := run1 (fires b);
    (s.strand 0).isSome && (b.writes.all fun w => w.2.1 < 128) && !hTerm b.hdr && b.bfault.isNone && b.writes.length ≤ 128) = true := by
  decide +kernel

/-- A region that ends with an entry within its scope, and one whose SENDs lie outside it. -/
def closing (sc : Nat) (d : Deferred) : State :=
  run1 { task := 0, pav := 0, state := .ready, phase := .close sc, region := { deferred := [d] } }

theorem witness_PublishCompletes_regionEnd : ((let s := closing 0 { kind := .tagset }; match s.strand 0 with
      | some t => t.phase == .close 0 && t.state == .ready && t.pub.isNone && t.queue.isEmpty && !s.decisionsOut 0 && s.sideLog.isEmpty &&
        (s.checkTokens t (effScope 0 t.region.deferred) t.region.deferred).2.isNone
      | none => false) &&
    (let s := cachedPage (closing 0 { kind := .send, l := BitVec.ofNat 64 (2 ^ 57 - 4096 + 40) }); match s.strand 0 with
      | some t => t.phase == .close 0 && !t.region.kept && (match (s.checkTokens t (effScope 0 t.region.deferred) t.region.deferred).2 with
        | some (.fault _ _) => true
        | _ => false)
      | none => false)) = true := by decide +kernel

/-- A publish at its step 2 with nothing left to launch; queued publishes; a TAGSET that fits now. -/
theorem witness_PublishCompletes : ((let pb : Pub := { scope := 4, started := true, lines := [], deferred := [{ kind := .gdef }] };
      let s := run1 { task := 0, pav := 0, state := .ready, phase := .step2, pub := some pb };
      (s.strand 0).any (fun t => t.pub == some pb) && pb.started && pb.lines.isEmpty && (launchAll 0 pb pb.deferred s).2.isEmpty) &&
    (let pb : Pub := { scope := 4, lines := [], deferred := [] }; let s := run1 { task := 0, pav := 0, state := .ready, queue := [pb, pb] };
      (s.strand 0).any (fun t => t.pub.isNone && t.queue == pb :: [pb]) && s.sideLog.isEmpty) &&
    (let pb : Pub := { scope := 4, started := true, lines := [], deferred := [{ kind := .tagset, l := 7 }] };
      let s := run1 { task := 0, pav := 0, state := .ready, phase := .step2, pub := some pb, tagWait := some 7 };
      (s.strand 0).any fun t => t.tagWait == some 7 && t.active == some pb && s.tagsetFits 0 t.task 7)) = true := by decide +kernel

/-- The entries whose launch is stated, at the ends of their ranges. -/
theorem witness_LaunchesInOrder : (let s0 := run1 (fires (blockOf (.stop .always) {})); let s := { s0 with deques := [(15, {})] };
    (s.strand 0).any fun t => (2 ^ 42 - 1) / 2 ^ 42 == s.chip && (s.deques.find 15).isSome && !s.passed.contains (t.task, t.pav) &&
      t.tagWait.isNone && s.tagsetFits 0 t.task (BitVec.ofNat 64 (2 ^ 60 + 5 * 2 ^ 48)) &&
      ([1, 2048].all fun n => 0 < bits (BitVec.ofNat 64 n) 11 0 && bits (BitVec.ofNat 64 n) 11 0 ≤ 2048) &&
      0 < bits (255 : Word) 7 0 && 0 < bits (0xFFFFF : Word) 19 0) = true := by decide +kernel

/-- A strand about to take a fault: RCNT one below its limit, and the last place of the ring that it may use. -/
theorem witness_FaultsAndResume : (let s0 := run1 { fires (blockOf (.stop .always) {}) with rcnt := 254 };
    let s := s0.modTerrace 0 fun te => { te with head := 47 };
    (s.strand 0).any fun t => Memory.wf s.mem && Memory.wf s.accW && Memory.wf s.accC && s.ringRoom (t.pav / 512) (s.task t.task).faulth &&
      (s.terrace (t.pav / 512)).held.isEmpty && t.rcnt.toNat < 255 && (s.terrace (t.pav / 512)).head.toNat == 47) = true := by decide +kernel
/-! ### Witnesses: arrivals at homes -/

/-- A task with one frame pool at 0x5000. -/
def frameTask : Task := { placedTask with desc := { placedTask.desc with frame := 576, pools := 1, frbase := 0x5000 } }

/-- A SEND to a slot of the frame at 0x5028, whose last slot is n - 1, with these presence bits. -/
def sendTo (slot : Nat) : SendMsg := ⟨0, 0, 0x5028, 0x5028, slot, 9, 0, 0, 0⟩
def framed (nin n pres : Nat) : State :=
  let s := run1 (fires (blockOf (.stop .always) {})) frameTask;
  { s with mem := Memory.writeN (Memory.writeN s.mem 0x5010 (toLe 8 (launchWord nin n 0x1000).toNat)) 0x5020 (toLe 8 pres) }

/-- A slot past the last; an input that is present; a slot that is no input; one input of two; the last input of a frame. -/
theorem witness_SendsComplete_arrives : ([(1, 63, 0, 63), (2, 64, 1, 0), (1, 64, 0, 63), (2, 64, 0, 1), (15, 64, 2 ^ 14 - 1, 14)].all fun x =>
    let s := framed x.1 x.2.1 x.2.2.1; let m := sendTo x.2.2.2; let launch := BitVec.ofNat 64 (s.home 0x5010 8);
    s.frameHome m == some (0, 0, 0x5028) && s.ownerKey m.pa == 0x5028 && !s.savedAt 0 && s.homeOk 0x5028 && !s.poisoned 0x5010 24 &&
    s.heldSends.isEmpty && bits launch 63 60 == x.1 && bits launch 59 54 == x.2.1 - 1 && s.home 0x5020 8 == x.2.2.1 &&
    (bits launch 59 54 < m.slot) == (x.2.1 == 63)) = true := by decide +kernel

/-- A held SEND whose slot is free again; a child, bound by TAGWIN and not, and room for it; a line of one byte on its way. -/
theorem witness_SendsComplete : ((let s0 := framed 2 64 0; let s := { s0 with heldSends := [sendTo 0, sendTo 1] };
      s.heldSends[1]? == some (sendTo 1) && s.frameHome (sendTo 1) == some (0, 0, 0x5028) &&
        s.home (s.ownerKey 0x5028 - 8) 8 / 2 ^ 1 % 2 == 0 && ((s.heldSends.take 1).all fun x => x.slot != 1) && !s.savedAt 0) &&
    ([true, false].all fun lim => let t : Strand := { task := 0, pav := 0, state := .waiting, tag := BitVec.ofNat 64 (2 ^ 60 + 2 ^ 48) };
      let s0 := run1 (fires (blockOf (.stop .always) {})); let s := { s0 with waitKids := [(lim, t)] };
      s.waitKids[0]? == some (lim, t) && s.childFits (s.waitKids.take 0) t && (s.tryCreate t).isSome) &&
    (let l : FlightLine := { scope := 2, point := 15, strand := 0, va := 0, cells := [(2 ^ 38 - 1, 7, true)], task := 0 };
      let s0 := run1 (fires (blockOf (.stop .always) {}));
      let s := { s0 with lines := [{ l with cells := [(0, 7, true)] }, l] }; s.lines[1]? == some l &&
        ((s.lines.take 1).all fun x => x.cells.all fun c => c.1 != 2 ^ 38 - 1) && !s.frameGone (frameOf (2 ^ 38 - 1)) &&
        s.homeOk (s.ownerKey (2 ^ 38 - 1)))) = true := by decide +kernel

/-- An arrival at the last barrier of a task: the first of two, the last of two, and one of another number. -/
def arrives (nm1 : Nat) : Arrival := ⟨0, 1, 0, 255, nm1, some 0, 0, 0, none⟩
def barred (nm1 : Nat) (as : List Arrival) : State :=
  let s := run1 (sentAt0 (.gbar .always .none .none) none none none);
  { s with barriers := [{ task := 0, scope := 1, home := 0, bar := 255, gen := 65535, nm1 := nm1, arrived := as }] }

theorem witness_BarriersComplete : (([(0, [], 65535), (1, [arrives 1], 1), (0, [], 0), (1, [arrives 1], 2)].all fun x =>
      let s := barred x.1 x.2.1; match s.barriers.find? (fun b => b.isFor (arrives x.2.2)) with
        | some b => (b.arrived.isEmpty || b.nm1 == x.2.2) == (x.2.2 != 2) && (b.arrived.length < x.2.2) == (x.2.2 == 65535 || x.2.2 == 2) &&
          (s.ctxAt 0 0).any fun c => !c.b.performed
        | none => false) &&
    (let s0 := run1 (fires (blockOf (.stop .always) {})) { placedTask with groves := [255] };
      let s := { s0 with strands := [], passed := (List.range 16).map fun n => (0, 4080 + n) };
      (s.task 0).groves[0]? == some 255 && s.allPassed 0 255 && s.groveQuiet 0 255)) = true := by decide +kernel

/-- A message of n payload bytes for ring 15 of pavilion 0, of a sender that expects a ring of 2^l bytes. -/
def ringMsg (n l : Nat) : RingMsg := ⟨0, 15, 0, 0, l, List.replicate n 1, some 0, true, 127, 0, 0, 0⟩

/-- No ring; one too small; a record that fills it, one that fits after a wrap, and one that does not fit. -/
theorem witness_RingsComplete : ((let s := run1 (fires (blockOf (.stop .always) {}));
      (s.ring 0 15).isNone && (s.savedRing 0 15).isNone) &&
    ([(7, 8, 0, 0), (6, 56, 0, 0), (6, 24, 40, 1), (6, 56, 32, 2)].all fun x => let s0 : State := withRing 0 (run1 (fires (blockOf (.stop .always) {})));
      let s := { s0 with rings := s0.rings.map fun (r : Ring) => { r with tail := x.2.2.1, recs := if x.2.2.2 = 0 then [] else [(32, 8, false)] } };
      match s.ring 0 15 with
        | some r => let n := 8 + (ringMsg x.2.1 x.1).payload.length; !s.savedAt r.owner && r.log2 == 6 && r.held.isEmpty &&
          (n ≤ r.size - r.tail && n ≤ r.size - r.used) == (x.2.2.2 == 0) &&
          (r.size - r.tail < n && r.size - r.tail + n ≤ r.size - r.used) == (x.2.2.2 == 1)
        | none => false) &&
    (let s0 : State := withRing 0 (run1 (fires (blockOf (.stop .always) {}))); let s := { s0 with rings := s0.rings.map fun (r : Ring) => { r with held := [ringMsg 8 6] } };
      (s.ring 0 15).any fun r => r.held[0]? == some (ringMsg 8 6)) &&
    (let s := run1 { fires (blockOf (.stop .always) {}) with pending := BitVec.twoPow 128 127 };
      (s.strand 0).any fun t => t.state != .ended && t.pending.getLsbD 127)) = true := by decide +kernel

/-- A staged tile for the last entry of a route table: its buffer there, and not there. -/
theorem witness_HomesComplete_drains : ([0, 1].all fun n =>
    let e := BitVec.ofNat 64 (2 ^ 63 + n * 2 ^ 48 + 15 * 2 ^ 44 + 127 * 2 ^ 24 + 3 * 2 ^ 9);
    let s0 := run1 (fires (blockOf (.stop .always) {})) { placedTask with routes := List.replicate 255 0 ++ [e] };
    let d : Drain := { task := 0, srcPav := 0, srcFe := 0, idx := 255, launched := true, data := List.replicate 8192 1, strand := 0, block := 0,
                       slot := 0, tag := 0 };
    let s := { s0 with stagings := [d], buffers := [(7, { pav := 0, fe := 15, base := 0, size := 8192, count := 4, p := 65535, c := 65532 })] };
    (s.stagings[0]?).any (fun d => d.launched && ((s.task d.task).routes[d.idx]?).getD 0 == e) && (match s.routeBuf 0 e with
      | some (_, b) => n == 0 && d.data.length ≤ b.size && b.room != 0
      | none => n == 1)) = true := by decide +kernel

/-- The first and the last contribution of a collective of two, one that does not agree, and a participant that waits. -/
def collMsg (rank len : Nat) : CollMsg := ⟨⟨5, 0, 2, 0, len, 0, 0, 0⟩, rank, [1], none, 0⟩
theorem witness_HomesComplete_collectives : (([(0, []), (1, [collMsg 0 1])].all fun x =>
      let s := { State.reset with colls := if x.2.isEmpty then [] else [{ key := (collMsg 0 1).key, parts := x.2 }] }; let m := collMsg x.1 1;
      m.key.ok && m.key.rankOk m.rank m.chip && (match s.colls.find? (fun r => r.key.cid == m.key.cid) with
        | some r => r.key == m.key && (r.parts.all fun p => p.rank != m.rank) && (r.parts ++ [m]).length == m.key.parts
        | none => [m].length != m.key.parts)) &&
    (let s := { State.reset with colls := [{ key := (collMsg 0 1).key, parts := [collMsg 0 1] }] }; let m := collMsg 1 2;
      (s.colls.find? (fun r => r.key.cid == m.key.cid)).any fun r => r.key != m.key) &&
    (let e : Engine := { kind := .coll, task := 0, strand := 0, pav := 0, queue := 0, l := 0, r := 0, cv := true, creg := 0, trapErr := false,
                         state := .coll };
      let s := { State.reset with engines := [(3, e)] }; (s.engine 3).any fun e => e.kind == .coll && e.state == .coll)) = true := by
  decide +kernel

/-- ITPERM of a table of two entries that exchanges them. -/
theorem witness_HomesComplete_itperm : (let t := { tableTask with itb := BitVec.ofNat 64 (2 ^ 57 - 8192 + 1) };
    let s0 := run1 (sentAt0 (.itperm .always (.left 1) (.right 1)) (v 1) (v (2 ^ 57 - 4096 + 64)) none) t;
    let s1 := { s0 with tlb := [⟨0, 0, 2 ^ 45 - 1, 12, 0x9C00000000005000#64⟩, ⟨0, 0, 2 ^ 45 - 2, 12, 0x9C00000000004000#64⟩] };
    let s := { s1 with mem := Memory.writeN s1.mem 0x5040 [1, 0, 0, 0] }; stands s 0 0 fun c => c.o.status == .sent &&
      bits (opVal c.o.l) 9 0 + 1 == 2 && (match loadBytes c s (pageParts (opVal c.o.r) 4) with
        | .ok d => (elemsOf 2 2 d).map (·.toNat) == [1, 0]
        | .error _ => false) && (match tableKeys c s (tableVa (s.task c.t.task).itb 0) (List.range 2) with
        | .ok ks => ks == [0x4000, 0x4008]
        | .error _ => false) && landsV (s.modBlock c.k fun x => { x with performed := true }) c) = true := by decide +kernel

/-- A record held for want of room that the ring can take now. -/
theorem witness_HomesComplete : (let s0 := run1 { task := 0, pav := 0, state := .held };
    let s := s0.modTerrace 0 fun te => { te with held := [⟨{ kind := 1 }, some (0, .faulted), none⟩], head := 47 };
    (s.terrace 0).held.length == 1 && s.ringRoom 0 (s.handlerNumber 0) && (s.strand 0).any fun u => u.park.isNone && u.block.isNone) = true := by
  decide +kernel
/-! ### Witnesses: the Orangery -/

/-- A geometry of the largest dimension, an INT8 query that agrees with it, and a store of one place behind it. -/
def geom : Geom := ⟨0, 0, 128, 0, 1⟩
def query (consume : Bool) : Query :=
  { task := 0, strand := 0, slot := 0, block := 0, tag := 0, consume := consume, r := BitVec.ofNat 64 (255 * 2 ^ 56 + 31 * 2 ^ 43), third := 0,
    fmt := 5, len := 128, bytes := List.replicate 128 1 }
def theStore (cap : Nat) : Store := { task := 0, dom := 255, store := 4095, chip := 0, pav := 0, fe := 14, base := 0, cap := cap, geom := geom }
def orangery (i : Instr) (q : Query) (doms : List Domain := [{ task := 0, dom := 255, geom := geom }]) (m : List Byte := []) : State :=
  let s := withBuf (buf 4 1) (sentAt0 i none none none) tableTask;
  { s with queries := [(3, q)], domains := doms, stores := [theStore 1], mem := Memory.writeN s.mem (bankKey 0 14) m }

/-- A query of a domain with one store, of an EMPTY one, and of the wrong length; a store that answers; a MATCH with no winner; the
last decisions of a MATCHC, and ones that are not the last. -/
theorem witness_QueriesAreServed : ((let s := orangery (.matchQ .none .none) (query false); (s.queries.find 3).any fun x => !x.granted &&
        (s.queries.all fun y => 3 ≤ y.1) && (s.domain x.task (bits x.r 63 56)).any fun d => queryFault x d.geom == none) &&
    (let s := orangery (.matchQ .none .none) (query false) []; (s.queries.find 3).any fun x => !x.granted && !x.consume &&
        (s.domain x.task (bits x.r 63 56)).isNone) &&
    (let s := orangery (.matchQ .none .none) { query false with len := 127 }; (s.queries.find 3).any fun x => !x.granted &&
        (s.domain x.task (bits x.r 63 56)).any fun d => (queryFault x d.geom).isSome) &&
    (let s := orangery (.matchQ .none .none) { query false with granted := true, stores := [4095] }; (s.queries.find 3).any fun x =>
        !x.consume && x.stores.contains 4095 && x.answers.isEmpty && !s.savedAt x.task &&
        (s.store x.task (bits x.r 63 56) 4095).any fun st => st.chip == s.chip && st.blocked.isNone) &&
    (let s := orangery (.matchQ (.left 1) (.right 1)) { query false with granted := true, geom := some geom }; (s.queries.find 3).any fun x =>
        x.granted && !x.merged && x.stores.length ≤ x.answers.length && !x.consume && stands s x.strand x.slot fun c =>
          c.b.instr 0 == some (.matchQ (.left 1) (.right 1)) && (let d := resultBytes x x.merge;
            !runBad c s ⟨bits x.r 47 43, bits x.r 42 28, d.length, d.length, true⟩ &&
            runReady c s ⟨bits x.r 47 43, bits x.r 42 28, d.length, d.length, true⟩) && landsV s c) &&
    ([[4095], [4095, 0]].all fun ds => let s := orangery (.matchc .none .none) { query true with granted := true, decide := ds };
      (s.queries.find 3).any fun x => x.decide.contains 4095 && (s.store x.task (bits x.r 63 56) 4095).any fun st => st.chip == s.chip)) = true := by
  decide +kernel

/-- Candidates of a store whose one entry is live, and of one that asks for more than there are. -/
theorem witness_CandidatesAreRanked : (let s := orangery (.matchQ .none .none) (query false) [] (List.replicate 15 0 ++ [1] ++ List.replicate 16 0 ++ List.replicate 128 1);
    (s.cands (query false) (theStore 1)).length == 1 && (s.cands { query false with r := BitVec.ofNat 64 (255 * 2 ^ 56 + 63 * 2 ^ 50) } (theStore 1)).length < 64) =
    true := by decide +kernel

/-- A KPUT and a KDEL at a store, of an entry that is there and of one that is not, and with no such store. -/
theorem witness_DomainsComplete_insertions : (let m : KputMsg := ⟨0, 0, 255, 4095, 0, geom.e, [], true, 127, 0, 0, none⟩;
    let d : KdelMsg := ⟨0, 0, 255, 4095 * 2 ^ 24 + 7, true, 127, 0, 0, 0, none⟩;
    let s := orangery (.matchQ .none .none) (query false) [] (List.replicate 15 0 ++ [1, 0, 0, 7]);
    (s.store m.task m.dom m.store).any (fun st => st.chip == s.chip && st.blocked.isNone && !s.savedAt st.task &&
      (((s.scrub st).entries st).find? (fun e => e.ctr == 7)).isSome && ((s.scrub st).entries st).all fun e => e.ctr != 8) &&
    (s.store m.task m.dom (d.id / 2 ^ 24)).isSome && (s.store m.task 0 m.store).isNone) = true := by decide +kernel

/-- A record that is well formed, a counter that has run out, the lowest free place, a full store, and one whose entry has expired. -/
theorem witness_InsertionTakesPlace : (let m : KputMsg := ⟨0, 0, 255, 4095, 0, geom.e, List.replicate geom.e 0, true, 127, 0, 0, none⟩;
    let n (i k : Nat) := leNat ((m.data.drop i).take k);
    let s := orangery (.matchQ .none .none) (query false) [] (List.replicate 15 0 ++ [1]);
    m.len == geom.e && n 15 1 == 0 && n 18 14 == 0 && n 16 2 < 4096 && n 14 1 ≤ 5 && n 0 8 == 0 && geom.vkind == 0 &&
    (s.entry (theStore 2) 0).isSome && (s.entry (theStore 2) 1).isNone && ((s.entries (theStore 1)).all fun e => e.timely m.tag) &&
    (let s := orangery (.matchQ .none .none) (query false) [] (List.replicate 14 0 ++ [1, 1, 0, 8]);
      (s.entries (theStore 1)).length == 1 && (s.entries (theStore 1)).all fun e => !e.timely m.tag && e.resv == 0 && e.place == 0)) = true := by
  decide +kernel

/-- An MDOM with the geometry of `geom`, of these ATT-1 places, at FE 14 or 15 of pavilion 0. -/
def mdomMsg (fe store : Nat) : MdomMsg :=
  ⟨0, 0, BitVec.ofNat 64 (255 * 2 ^ 52 + store * 2 ^ 40 + 127 * 2 ^ 30), BitVec.ofNat 64 (fe * 2 ^ 32), 0, 0, 0, none, none⟩

/-- ATTACH refused by geometry and by location, and the first of a domain; DETACH, SERVE, REBUILD and CLEAR of the store. -/
theorem witness_DomainsComplete : ((let s := orangery (.matchQ .none .none) (query false) [{ task := 0, dom := 255, geom := { geom with dim := 1 } }];
      (s.domain 0 (mdomMsg 15 0).dom).any fun d => d.geom != (mdomMsg 15 0).geom) &&
    (let s := orangery (.matchQ .none .none) (query false); let m := mdomMsg 14 4095;
      (s.attach m.task m.dom m.store m.geom m.loc (bits m.cmd 29 22 + 1) 0).isNone) &&
    (let s := orangery (.matchQ .none .none) (query false) []; let m := mdomMsg 15 0; (s.domain m.task m.dom).isNone &&
      (s.attach m.task m.dom m.store m.geom m.loc (bits m.cmd 29 22 + 1) 0).any fun s1 =>
        (s1.store m.task m.dom m.store).any fun st => st.chip == s1.chip) &&
    (let s := orangery (.matchQ .none .none) (query false); let m := mdomMsg 14 4095; (s.domain m.task m.dom).isSome && !s.unanswered m &&
      (s.store m.task m.dom m.store).any fun st => st.chip == s.chip && st.blocked.isNone && !s.savedAt st.task && st.resv.isEmpty)) = true := by
  decide +kernel
/-! ### Witnesses: engines, resident blocks, the Grand Scheduler -/

/-- An operation of a strand of task 0, and a module with it behind the last cached page. -/
def eng (k : EngKind) (st : EngState) (cmd : List Word := []) (l : Word := BitVec.ofNat 64 (2 ^ 57 - 64)) : Engine :=
  { kind := k, task := 0, strand := 0, pav := 0, queue := 0, l := l, r := 64, cv := true, creg := 127, trapErr := false, cmd := cmd, state := st }
def working (e : Engine) : State :=
  let s := cachedPage (run1 (fires (blockOf (.stop .always) {}))); { s with engines := [(3, e)] }

/-- A command in the last page, one that no page maps, and a unit whose slot is free. -/
theorem witness_EnginesComplete_start : (([EngKind.cpy, .mscan].all fun k => [EngState.queued, .running].all fun st => let s := working (eng k st);
      (s.engine 3).any fun e => e.kind != .tlbi && (e.state == .running || !s.queueBefore 3 e fun x => x.state == .queued) &&
        e.cmd.length < e.kind.cmdWords && (match s.engineRead e e.l (8 * e.kind.cmdWords) with
          | .ok _ d => d.length == 8 * e.kind.cmdWords
          | _ => false)) &&
    (let s := working (eng .cpy .queued [] 0); (s.engine 3).any fun e => e.cmd.length < e.kind.cmdWords &&
        (match s.engineRead e e.l 32 with
          | .hold _ _ => true
          | _ => false)) &&
    (let e : Engine := { eng .wsld .slots [] (BitVec.ofNat 64 (2 ^ 31 - 64)) with r := BitVec.ofNat 64 (31 * 2 ^ 45 + 1), snap := [{ desc := 31, buf := 7, p := 0, c := 0, filled := 0 }] };
      let s0 := working e; let s := { s0 with buffers := [(7, buf 1 0)] }; (s.engine 3).any fun e => e.state == .slots &&
        (match engineUnit 3 s e with
          | .moved _ n => n == 1
          | _ => false)) &&
    (let s := working (eng .cpy (.finished 0 32)); (s.engine 3).any fun e => e.state == .finished 0 32 && !s.queueBefore 3 e fun _ => true) &&
    (let s := working (eng .tlbi .queued); (s.engine 3).any fun e => e.kind == .tlbi && e.state == .queued)) = true := by decide +kernel

/-- A collection without entries at 0x5000, with room for one side record, and its requests. -/
theorem witness_EnginesComplete_collections : ([EngKind.kappend, .kmerge, .mscan, .ksum].all fun k =>
    let base := 2 ^ 57 - 4096;
    let e := eng k .grant ((if k = .kmerge then [BitVec.ofNat 64 base, 0, 0, 0] else [BitVec.ofNat 64 base, BitVec.ofNat 64 (base + 0x200), 0, 0]) ++ if k = .mscan then [0, 0, 0, 0] else []);
    let s0 := working e;
    let s := { s0 with mem := Memory.writeN (Memory.writeN s0.mem 0x5018 (toLe 8 (base + 0x100))) 0x5036 (toLe 2 1 ++ [0, 127, 0, 6, 0, 0]) };
    (s.engine 3).any fun e => e.state == .grant && s.collFirst 3 e && !s.scanRuns e && (match s.readColl e with
      | .ok _ c => c.n == 0 && c.sidecap == 1
      | _ => false) && (if k = .kappend then (match kappendStep s e with
      | .ok _ n => n == 0
      | _ => false) else true) && (if k = .kmerge then (match kmergeStep s e with
      | .ok _ n => n == 6
      | _ => false) else true)) = true := by decide +kernel

/-- A resident block on the first page. -/
def resident : ResBlock := { addr := 0x1000, hdr := 0x06000000, ext := 0, words := [(encode (.rgn 4 15 true true)).getD 0, 0x24000000], lpav := 15, regs := Vector.replicate 128 0 }
def graphTask : Task := { placedTask with desc := { placedTask.desc with flags := 2 }, blocks := [resident], pages := [15] }
def iterating (o : Slot) : Strand :=
  { task := 0, pav := 15, kind := .iteration 0, phase := .run, state := .running,
    block := some { addr := 0x1000, hdr := 0x06000000, words := resident.words, slots := [{ status := .done }, o] } }

/-- An iteration that may start; one that is still with nothing left, and one with an operand that nobody takes. -/
theorem witness_GraphsComplete_iterations : ((let s0 := run1 (fires (blockOf (.stop .always) {})) graphTask; let s := { s0 with strands := [] };
      (s.task 0).blocks[0]? == some resident && (s.iteration 0 0 0).isNone && tagOk 0 && (s.task 0).status == .running &&
        s.physPav (s.task 0) 15 == some 15 && !s.sourceGated 0 0) &&
    ([({ status := .done }, false), ({ l := v 1 }, true)].all fun (x : Slot × Bool) => let s := run1 (iterating x.1) graphTask; (s.strand 0).any fun t =>
      t.block.any fun b => t.kind == .iteration 0 && t.phase == .run && b.still && b.stuck == x.2 && (commitLines b t.fp t.region.store).length ≤ 64)) =
    true := by decide +kernel

/-- A graph that is quiet and one that is not; a page that moves to the pavilion beside it. -/
theorem witness_GraphsComplete : ((let s := run1 (iterating {}) graphTask; (s.task 0).graph && (s.task 0).status != .ended && !s.graphQuiet 0) &&
    (let s0 := run1 (iterating {}) graphTask; let s := { s0 with strands := [] }; (s.task 0).graph && s.graphQuiet 0 &&
      (s.graphOf 0 (s.blockRegs 0)).isSome && 0 < (s.task 0).pages.length && (s.physPav (s.task 0) 14).isSome &&
      !(s.task 0).pages.contains 14 && !(s.task 0).token)) = true := by decide +kernel

/-- The last launch queue with one entry, at the last place of its ring; the entry's descriptor is sound but for its RCLIM. -/
def launching (rclim : Nat) : State :=
  let s0 := admitted (run1 (fires (blockOf (.stop .always) {})));
  { s0 with tasks := [], strands := [], queues := [(63, { cfg := 0x10010, head := 15, tail := 16, serv := none })],
            mem := Memory.writeN (Memory.writeN (Memory.writeN s0.mem 0x101E0 (toLe 8 0x8000)) 0x806F [BitVec.ofNat 8 rclim, 0, 8, 1]) 0x808C [22] }

theorem witness_SchedulerCompletes_queues : (([(16, true), (17, false)].all fun (x : Nat × Bool) => ((BitVec.ofNat 32 (2 ^ 32 - 1 + x.1) -
      ((State.reset.setQueue 63 { head := BitVec.ofNat 32 (2 ^ 32 - 1) }).queue 63).head).toNat ≤
      2 ^ (bits (State.reset.queue 63).cfg 3 0 + 4)) == x.2) &&
    ((launching 0).turn == some (63, .refuse 1)) &&
    (match (launching 1).turn with
      | some (63, .go _ gs) => gs == [0]
      | _ => false) &&
    (let s0 := launching 1; let s := s0.setQueue 63 { s0.queue 63 with serv := some {} }; Memory.wf s.mem && (s.queue 63).serv == some {} &&
      s.homeOk ((s.queue 63).entry + 16))) = true := by decide +kernel

/-- Tasks that end; a pre-emption; a task to be saved, with nothing of it left, and with a strand that stalls; a saved task that resumes. -/
theorem witness_SchedulerCompletes : ((let s0 := run1 (fires (blockOf (.stop .always) {})); let s := { s0 with strands := [] };
      0 < s.tasks.length && (s.task 0).status == .running && s.taskDone 0) &&
    ((launching 1).preemption 63).isEmpty &&
    (let s0 := run1 (fires (blockOf (.stop .always) {})) { placedTask with status := .stopping .drain false }; let s := { s0 with strands := [] };
      (s.task 0).status == .stopping .drain false && (s.stalledOf 0).isEmpty && s.saveReady 0 && !s.iterating 0) &&
    (let b := { blockOf (.waitf .always .none .none) { status := .waiting, l := v 1, r := v 1 } with words := [(encode (.waitf .always .none .none)).getD 0], slots := [{ status := .waiting, l := v 1, r := v 1 }] };
      let s := run1 { fires b with state := .blocked } { placedTask with status := .stopping .drain false }; !(s.stalledOf 0).isEmpty) &&
    (let s0 := admitted (run1 (fires (blockOf (.stop .always) {})) { placedTask with status := .saved .drain, groves := [noGrove], homes := [0] });
      let s := { s0 with strands := [] }; s.resumeTurn 0 && !s.areaHeld (s.task 0).desc.save ((s.task 0).desc.saveMb * 2 ^ 20) && (s.newGroves 0).isSome)) = true := by decide +kernel
/-! ### Witnesses: the Lodge, page moves, the module -/

/-- An answer to a number that names no record, and to the record of a miss of a task. -/
theorem witness_LodgeCompletes_answers : ((7 < State.reset.terraces.length && ((State.reset.terrace 7).answered.find (2 ^ 32 - 1)).isNone) &&
    (let s0 := run1 (fires (blockOf (.stop .always) {})); let s := s0.modTerrace 7 fun te => { te with answered := [(2 ^ 32 - 1, (true, 5, 0))] };
      (s.terrace 7).answered.find (BitVec.ofNat 32 (2 ^ 32 - 1)).toNat == some (true, 5, 0) &&
        s.tasks.findIdx? (fun x => x.number == 0 && x.status != .ended) == some 0)) = true := by decide +kernel

/-- The last segment's window; the last byte of a weight store; an IDLE that waits. -/
theorem witness_LodgeCompletes_times : ((let s := (admitted State.reset).modTerrace 0 fun te => { te with seg := 63 };
      (s.terrace 0).state == 2 && (s.terrace 0).seg == 63) &&
    (Memory.wf State.reset.mem && 2 ^ 31 - 1 + [(1 : Byte)].length ≤ 2 ^ 31 && !State.reset.terraceHeld 7) &&
    (stands (run1 (sentAt0 (.idle .always .none) none none none)) 0 0 fun c => c.b.instr 0 == some (.idle .always .none) && c.o.status == .sent)) =
    true := by decide +kernel

/-- The ends of the ranges that the registers take. -/
theorem witness_LodgeCompletes : ((7 < State.reset.terraces.length) && (1 : Word).getLsbD 0 && !(2 : Word).getLsbD 0 &&
    256 < bits (257 : Word) 8 0 && bits (256 : Word) 8 0 ≤ 256 && !State.reset.queriesOut 0 &&
    ([1, 2048].all fun n => bits (BitVec.ofNat 64 n) 11 0 != 0 && bits (BitVec.ofNat 64 n) 11 0 ≤ 2048) &&
    ([0, 2049].all fun n => bits (BitVec.ofNat 64 n) 11 0 == 0 || 2048 < bits (BitVec.ofNat 64 n) 11 0) &&
    bits (255 : Word) 7 0 != 0 && bits (0xFFFFF : Word) 19 0 != 0 && (State.reset.queue 63).head == (State.reset.queue 63).tail &&
    ((launching 1).queue 63).head != ((launching 1).queue 63).tail && !State.reset.anyHeld && State.reset.chip == 0 && !(0 : Word).getLsbD 1 &&
    ([1800, 3600].all fun n => 1800 ≤ bits (BitVec.ofNat 64 n) 15 0 && bits (BitVec.ofNat 64 n) 15 0 ≤ 3600) &&
    bits (1 : Word) 63 32 == 0 && bits (1 : Word) 31 0 != 0 && !(State.reset.mig 7).busy) = true := by decide +kernel

/-- A GO of a page that is not here, of one behind two moves, and of the last page of the module to a peer in its domain. -/
def mover (behind : Nat) : State :=
  { State.reset with croute := [(4607, BitVec.ofNat 64 (2 ^ 63))], owned := [{ frame := 2 ^ 20 - 1, behind := behind }],
                     migs := [(7, { dst := BitVec.ofNat 64 (4607 * 2 ^ 42) })] }

theorem witness_MovesComplete_starts : ((let s := mover 0; let v : Word := BitVec.ofNat 64 (2 ^ 63 + (2 ^ 20 - 1) * 2 ^ 21);
      let m := { s.mig 7 with src := v &&& 0x007FFFFFFFE00000 };
      !s.frameHere (2 ^ 17) && v.getLsbD 63 && !(s.mig 7).busy && s.frameHere m.srcFrame && !s.inFrameRange m.srcFrame &&
        frameChip m.dstFrame == 4607 && s.inDomain 4607 && (s.stub m.srcFrame).isNone && (s.migs.all fun x => x.1 == 7) &&
        (s.ownedOf m.srcFrame).behind != 2 && s.stubs.length < 4096) &&
    ((mover 2).ownedOf (2 ^ 20 - 1)).behind == 2) = true := by decide +kernel

/-- The states of a move's source and destination. -/
theorem witness_MovesComplete : (let at1 (m : MigSlot) : State := { State.reset with migs := [(7, m)] };
    (at1 { state := .waitChain }).mig 7 == { state := .waitChain } &&
    ((at1 { state := .precopy, pass := 2, last := 2, dirty := [511] }).mig 7).dirty.length < 2 &&
    3 ≤ ((at1 { state := .precopy, pass := 3, last := 2 }).mig 7).pass &&
    (let s := at1 { state := .final, dirty := [511] }; (s.mig 7).state == .final && !s.frameBusy (s.mig 7).srcFrame) &&
    ((at1 { state := .commit }).mig 7).state == .commit &&
    (let s := State.reset; s.frameHere 0 && (s.stub 0).isNone && s.incoming.isEmpty && !s.frameHere (2 ^ 17)) &&
    (let s := { State.reset with incoming := [{ dst := 5, src := 6, chip := 1, slot := 7 }] };
      (s.incoming.find? (fun x => x.dst == 5)).isSome && s.incoming.any fun x => x.dst == 5) &&
    (let s := { State.reset with stubs := [{ old := 0, fwd := 5, live := true, holders := 1 }] }; match s.stub 0 with
      | some x => x.live && !s.allAcked x && s.allAcked { x with holders := 0 }
      | none => false) &&
    State.reset.tasks.isEmpty && (State.reset.stub 7).isNone &&
    ({ State.reset with owned := [{ frame := 7 }] } : State).owned.any fun x => x.frame == 7) = true := by decide +kernel

/-- A flow of the last class with one place left; one packet and the last port; a strand whose read fails; words and registers that are
not poisoned yet. -/
theorem witness_ModuleCompletes_links : ((2 ^ 26 - 1) % 4 != 0 && (2 ^ 26 - 1) / 2 ^ 14 < 4096 &&
    (let s := { State.reset with flows := [(2 ^ 26 - 2, { escaped := 63 })] }; s.escapePlaces (2 ^ 26 / 4 % 4096 + 4095) < 64 &&
      !(s.flow (2 ^ 26 - 1)).diverted && (s.flow (2 ^ 26 - 2)).escaped == 62 + 1) &&
    (23 < 24) && (let s := admitted State.reset; (s.terrace 0).state == 2 && !s.terraceHeld 0) &&
    ({ State.reset with cports := [(23, { training := true })] }.port 23).training &&
    ((run1 (fires (blockOf (.stop .always) {}))).strand 0).any (fun t => t.canDiscard) && !State.reset.poison.contains ((2 ^ 57 - 1) / 8) &&
    !State.reset.accPoison.contains (2 ^ 18 - 1)) = true := by decide +kernel

/-- A module in a stage of bring-up. -/
def staged (g : Stage) : State := { State.reset with boot := { State.reset.boot with stage := g } }

/-- The stages of bring-up, and the services of a module that runs. -/
theorem witness_ModuleCompletes : (((staged .off).boot.stage == .off && (staged .off).boot.flash.isEmpty && 4095 < 4096) && (staged .safe).boot.stage == .safe &&
    (staged .stage1).boot.stage == .stage1 &&
    ([1, 3, 4].all fun n => (([Stage.run, .stage2].map staged).all fun s => ((s.modTerrace 6 fun te => { te with state := n }).terrace 6).state == n &&
      s.tasks.isEmpty && !s.terraceHeld 6)) &&
    (let b := { State.reset.boot with quotes := [List.replicate 32 0], block := some 1, quoteUsed := 2 ^ 28 - 1 };
      (b.quotes[0]?).any (fun n => n.length == 32) && b.nextIndex == some (2 ^ 28 - 1)) &&
    (staged .run).boot.stage != .off && (staged .run).homeOk ((staged .run).ownerKey (2 ^ 38 - 1)) &&
    (bits (staged .run).boot.pwrlim 15 0 < 3601) && (staged .run).boot.guardState.toNat < 3) = true := by decide +kernel

/-- An image that the ROM accepts and a root port that translates are premises on what the model leaves open: each is met or its
opposite is. -/
theorem witness_ModuleCompletes_open (image : List Byte) (port pa : Nat) :
    (Config.romAccepts image = false ∨ Config.romAccepts image = true) ∧ (Config.ioTranslates port pa = false ∨ Config.ioTranslates port pa = true) :=
  ⟨by cases Config.romAccepts image <;> simp, by cases Config.ioTranslates port pa <;> simp⟩

/-! ### Witnesses: steps, encodings, memory -/

/-- A slot that is ready; a word to place. -/
theorem witness_StepsComplete : (((run1 (at0 (.add .always (.left 1) .none) (v 1) (v 2) none)).readyOffers.length == 1) &&
    (match decode 0x24000000 with
      | .ok _ => true
      | .error _ => false)) = true := by decide +kernel

/-- Nothing happens when no slot is ready, nothing is in flight or held, and neither an event, a slot that waits nor time brings one. -/
theorem pick_rest (s : State) (hw : s.waiting = []) (ha : s.agenda = []) (e1 : s.issueReady s.rot = none)
    (e2 : ∀ b, s.occurs b = none) : s.pick = none := by
  unfold State.pick State.pickEvent State.arrival
  simp [e1, hw, ha, heldFirst, e2]

/-- Nothing can happen in a module without supply, and in one that stands in SAFE. -/
theorem witness_StepsComplete_rest (g : Stage) (h : g = .off ∨ g = .safe) : (staged g).pick = none := by
  refine pick_rest _ rfl rfl ?_ ?_ <;> rcases h with rfl | rfl <;> decide +kernel

/-- What is asked for a step runs: the instruction of the placed word is done after it. -/
theorem test_step_runs : nextIs (step (State.reset.withFetchWord 32 0x24000000)) (fun s => (s.strand 0).any fun t => t.block.any fun b =>
    (b.slots[0]?).any fun o => o.status == .done) = true := by decide +kernel

/-- A well-formed instruction with a word, and a word that decodes (EncodingRoundTrip, DecodingRoundTrip). -/
theorem witness_RoundTrips : ((Instr.rgn 4 15 true true).ill == none && (encode (.rgn 4 15 true true)).isSome && (match decode 0x24000000 with
    | .ok _ => true
    | .error _ => false)) = true := by decide +kernel

/-- The invariant holds at reset and where an instruction steps. -/
theorem witness_MachineInvariant : State.reset.Inv ∧ (State.reset.withFetchWord 32 0x24000000).Inv ∧
    ∃ s', step (State.reset.withFetchWord 32 0x24000000) = .next s' := by
  refine ⟨State.inv_reset, ⟨?_, ?_, ?_, ?_, ?_, ?_⟩, ?_⟩
  · exact State.inv_reset.memory
  · exact State.inv_reset.terraces
  · exact State.inv_reset.ringHold
  · exact State.inv_reset.escTime
  · exact State.inv_reset.pwrlim
  · intro t ht
    obtain rfl := List.mem_singleton.1 ht
    exact ⟨by decide, by decide, by decide, by decide⟩
  · have h := test_step_runs
    unfold nextIs at h
    split at h
    · exact ⟨_, by assumption⟩
    · exact absurd h (by simp)

/-- A memory with bytes at both ends, and the last byte of the keys of physical memory. -/
theorem witness_MemoryHolds : (Memory.wf (Memory.write (Memory.write [] (2 ^ 55 - 1) 1) 0 1) && Memory.wf State.reset.mem && Memory.wf State.reset.accW &&
    Memory.wf State.reset.accC) = true := by decide +kernel
/-! ### Witnesses: what is asked of homes, peers and slots beside the above -/

/-- `PerformedAt`, computed. -/
def performs (s : State) (named n : Nat) : Bool :=
  !s.frameHeld (frameOf (s.ownerKey named)) && !s.redirHeld (frameOf (s.ownerKey named)) && s.homeOk (s.ownerKey named) &&
    (n == 0 || !s.poisoned (s.ownerKey named) n)

/-- A chip that a route and a port reach. -/
def withPeer (c : Nat) (s : State) : State :=
  { s with croute := [(c, BitVec.ofNat 64 (2 ^ 63 + 1))], cports := [(0, { up := true, peer := BitVec.ofNat 13 c })] }

/-- Loads of a bank and of a cached page are performed; one finds its line pinned. -/
theorem witness_LoadsComplete_homes : (([lastBank, 2 ^ 57 - 8].all fun a => [false, true].all fun pinned =>
    let t0 := sentAt0 (.ldd .always 1 0 (.left 1)) (v a) none none;
    let line := if a = lastBank then bankKey 0 15 + 65472 else 0x5FC0;
    let t : Strand := if pinned then { t0 with region := { t0.region with pins := [{ key := line, va := lineOf (BitVec.ofNat 64 a), bytes := List.replicate 64 7 }] } } else t0;
    let s := cachedPage (run1 t scratchTask); stands s 0 0 fun c =>
      (match s.access c.t (accessAddr (opVal c.o.l) 0 8) 8 .load with
        | .ok key => performs s key 8 && key / 64 * 64 == line && (c.t.region.pins.isEmpty != pinned) &&
          landsV (if a = lastBank then s else s.cache 0 0 (2 ^ 57 - 8)) c
        | _ => false)) &&
    (let s := run1 (sentAt0 (.aadd .always false (.left 1) (.right 1)) (v lastBank) (v 1) none) scratchTask; stands s 0 0 fun c =>
      match s.access c.t (opVal c.o.l) 8 .atomic with
        | .ok key => performs s key 8
        | _ => false) &&
    performs (framed 2 64 0) 0x5010 24 && performs (cachedPage State.reset) 0x5FF8 4) = true := by decide +kernel

/-- The last visible entry of a deque of the own pavilion: it is asked for by this strand and another, the owner's turn and the thief's. -/
def tied (i j : Instr) (thief : Bool) (last : Option Nat) : State :=
  let s := run1 (at0 i (v 15) none none);
  { s with strands := s.strands ++ [{ at0 j (v 15) none none with pav := 1 }],
           deques := [(15, { entries := [(0, 9, .visible)], nextId := 1, thief := thief, last := last })] }

theorem witness_DequesComplete_ties : (
    let pop := Instr.dqpop .always (.left 1) (.right 1); let steal := Instr.dqsteal .always (.left 1) (.right 1);
    ([true, false].all fun th => let s := tied pop steal th none; s.dequeTie 0 15 && (s.deque 0 15).thief == th &&
      s.thiefTurn 0 15 == some 1 && issues s .always .left fun c => c.t.pav == 0 && landsV s c) &&
    ([none, some 0].all fun l => let s := tied steal steal false l; !s.dequeTie 0 15 &&
      s.thiefTurn 0 15 == (if l.isSome then some 1 else some 0)) &&
    ([true, false].all fun th => let s0 := tied steal pop th none;
      let s := { s0 with strands := s0.strands.map fun (t : Strand) => { t with pav := 0 } };
      s.dequeTie 0 15 && s.thiefTurn 0 15 == some 0 && (s.deque 0 15).thief == th)) = true := by decide +kernel

/-- The tokens of a firing find their places in the block of its slot. -/
def firesAt (c : Ctx) (ta tb : Target) (x y : Option Token) : Bool := (c.b.fired c.j ta tb x y).isSome

/-- GBARX; MRING of a ring that is there and that is not; MSEND; MWAIT with a record: what their completion asks for. -/
theorem witness_BarrierAndRingInstructionsComplete : (
    (issues (run1 (withList 31 (at0 (.gbarx .always) none none none))) .always .none fun c =>
      c.t.region.deferred.length == 31 && firesAt c .none .none none none) &&
    ([(15 * 2 ^ 48 + 6 * 2 ^ 16 + 65472, false), (15 * 2 ^ 48 + 65535, true)].all fun x =>
      let s0 := run1 (at0 (.mring .always (.left 1) (.right 1)) (v x.1) none none); let s := if x.2 then withRing 0 s0 else s0;
      issues s .always .left fun c => bits (opVal c.o.l) 63 52 == 0 && bits (opVal c.o.l) 43 21 == 0 &&
        (s.ring c.t.pav 15).isSome == x.2 && !regionDefines c 15 && firesAt c (.left 1) (.right 1) (v 1) (v 1)) &&
    (issues (run1 (at0 (.msend .always) (v (16 * 2 ^ 24)) (v (2 ^ 57 + 127 * 2 ^ 50 + 511 * 2 ^ 41 + 61448)) none)) .always .both fun c =>
      8 * (bits (opVal c.o.r) 49 41 + 1) ≤ 2 ^ bits (opVal c.o.l) 28 24 && firesAt c .none .none none none) &&
    (let s := withRing 1 (run1 (at0 (.mwait .always (.left 1) (.right 1)) (v (15 * 2 ^ 32 + 6 * 2 ^ 24)) none none));
      issues s .always .left fun c => (s.ring c.t.pav 15).any (fun r => r.dataRecs[0]? == some (0, 64)) && c.t.region.deferred.isEmpty &&
        firesAt c (.left 1) (.right 1) (v 1) (v 2))) = true := by decide +kernel

/-- GBAR at a barrier of a peer that is reached; GBAR of a strand that comes back with its generation. -/
theorem witness_BarrierAndRingInstructionsComplete_gbar : (
    (let s := withPeer 4607 (run1 (at0 (.gbar .always (.left 1) (.right 1)) (v (4607 * 2 ^ 48 + 65535 * 2 ^ 16 + 4 * 256 + 255)) none none));
      issues s .always .left fun c => bits (opVal c.o.l) 10 8 == 4 && bits (opVal c.o.l) 60 48 == 4607 && s.chip == 0 && s.reached 4607 &&
        bits (opVal c.o.l) 7 0 < (s.task c.t.task).desc.barriers && boundaryReady c s && c.t.barrier.isNone) &&
    (let w : Await := ⟨1, 0, 255, 65535, 65535, 0, true⟩;
      let s := run1 { at0 (.gbar .always (.left 1) (.right 1)) (v (65535 * 2 ^ 16 + 256 + 255)) none none with barrier := some w };
      issues s .always .left fun c => boundaryReady c s && arrived c.t 1 (barrierHome c.t 1 0) 255 == some w && w.done &&
        (({ c.b with performed := true } : BlockRun).fired c.j (.left 1) (.right 1) (v 65535) (v 65535)).isSome)) = true := by decide +kernel

/-- The task registers that a region took at its start are those its instructions use. -/
theorem witness_regionRegisters : (let t := at0 (.itperm .always .none .none) (v (2 ^ 18 - 1)) (v (2 ^ 57 - 2)) none;
    let s := run1 { t with region := { t.region with entered := true, sys := { (run1 t tableTask).sysNow 0 with } } };
    issues s .always .both fun c => bits (opVal c.o.l) 17 10 < bits (s.sysFor c.t).itb 8 0 && bits (s.sysFor c.t).mdt 8 0 == 256 &&
      bits (s.task 0).itb 8 0 == 0) = true := by decide +kernel

/-- A route table entry of the region's registers; a staged tile whose buffer is too small, and whose record is not kept. -/
theorem witness_TilesComplete_drains : (
    let e := BitVec.ofNat 64 (2 ^ 63 + 15 * 2 ^ 44 + 3 * 2 ^ 9);
    let d : Drain := { task := 0, srcPav := 0, srcFe := 0, idx := 255, entry := e, launched := true, data := List.replicate 8192 1, strand := 0,
                       block := 0, slot := 0, tag := 0 };
    let s0 := run1 (fires (blockOf (.stop .always) {})) { placedTask with routes := List.replicate 255 0 ++ [e] };
    ([(4096, 63), (8192, 127)].all fun (n, z) => let d := { d with entry := e + BitVec.ofNat 64 (z * 2 ^ 24) }
      let s := { s0 with stagings := [d], buffers := [(7, { pav := 0, fe := 15, base := 0, size := n, count := 4 })] };
      (s.routeBuf 0 d.entry).any (fun x => (x.2.size < d.data.length) == (n == 4096) && x.2.room != 0) && !s.recordKept 0 0 10) &&
    (s0.routeBuf 0 e).isNone && (s0.strand 0).any fun t => (s0.sysFor t).routes[255]? == some e) = true := by decide +kernel

/-- The last place of a ring and its index line are different lines of physical memory. -/
theorem witness_FaultsAndResume_places : (let s := (run1 (fires (blockOf (.stop .always) {}))).modTerrace 0 fun te => { te with head := 47 };
    let te := s.terrace 0; let place := s.ringKey (ringBase te.fring + 64 + 64 * (te.head.toNat % ringSize te.fring));
    s.ringKey (ringBase te.fring) < 2 ^ 55 && place / 64 != s.ringKey (ringBase te.fring) / 64 && s.stores.isEmpty &&
      ({ code := .trap } : FaultInfo).cites == none) = true := by decide +kernel

/-- A block that opens its region, and a boundary block that waits for its strand's publish. -/
theorem witness_BlocksComplete_opens : (([(0#32, [{ scope := 0, lines := [], deferred := [] }], true), (0x80000#32, [], true), (0x80000#32, [{ scope := 0, lines := [], deferred := [] }], false)].all
      fun (x : Word32 × List Pub × Bool) => let s := run1 { task := 0, pav := 0, state := .ready, phase := .fetch, ip := 0x1000, queue := x.2.1 };
        (s.strand 0).any fun t => bits t.ip 1 0 == 0 && s.mayOpen 0 t x.1 == x.2.2) &&
    (rgnOf [(encode (.rgn 4 15 true true)).getD 0]).isSome && (rgnOf [(encode (.bro .always 1)).getD 0]).isNone &&
    ([true, false].all fun e => let s := run1 { task := 0, pav := 0, state := .ready, region := { entered := e } };
      (s.strand 0).any fun t => t.owed.isNone && t.pendFault.isNone && !t.yieldMark && t.region.entered == e)) = true := by decide +kernel

/-- SENDs to a frame in a frame range, to one of this chip's memory, and to one of a peer; a frame of a saved task; no record that the
Terrace keeps. -/
theorem witness_SendsComplete_homes : ((let s := framed 2 64 0; ((s.task 0).frameGrove 0x5028).isSome && !s.dropKept (sendTo 63) 0 &&
      ((s.task 0).frameGrove 0).isNone && s.homeChip (2 ^ 42 - 1) == s.chip && s.homeChip (2 ^ 42) != s.chip && !s.savedAt 0) &&
    (let s0 := framed 2 64 0; let s := s0.modTask 0 fun t => { t with status := .saved .drain, groves := [noGrove], homes := [0] };
      s.savedAt 0 && (s.frameHome (sendTo 0)).any fun x => x.1 == 0)) = true := by decide +kernel

/-- A line at a grove's point, and one in the egress queue of the peer that homes it. -/
theorem witness_SendsComplete_lines : ([(2, 15, 2 ^ 38 - 1), (3, 1, 2 ^ 42 + 2 ^ 38 - 1)].all fun x =>
    let l : FlightLine := { scope := x.1, point := x.2.1, strand := 0, va := 0, cells := [(x.2.2, 7, true)], task := 0 };
    let s0 := withPeer 1 (run1 (fires (blockOf (.stop .always) {}))); let s := { s0 with lines := [l] };
    Memory.wf s.mem && s.lines[0]? == some l && l.scope < 4 && (l.cells.all fun c => c.1 / 64 == l.key / 64) &&
      (l.scope != 3 || s.homeChip x.2.2 == l.point) && !s.frameGone (frameOf l.key) && s.homeOk (s.ownerKey l.key)) = true := by decide +kernel

/-- A peer's arrival at a barrier here; a generation that a peer's barrier has completed. -/
theorem witness_BarriersComplete_peers : (
    (let m : Arrival := ⟨0, 4, 0, 255, 1, none, 3, 5, none⟩; let s := withPeer 5 State.reset;
      (s.barriers.find? fun b => b.isFor m).isNone && ([] : List Arrival).length < m.nm1 && s.reached 5) &&
    (let w : Await := ⟨4, 5, 255, 1, 0, 0, false⟩;
      let m : Arrival := ⟨0, 4, 5, 255, 1, some 0, 0, 0, some (.complete 7)⟩;
      let s := run1 { sentAt0 (.gbar .always (.left 1) (.right 1)) (v 0) none none with barrier := some w, state := .blocked };
      stands s 0 0 fun c => c.t.barrier == some w && w.scope == 4 && w.home == m.home && w.bar == m.bar && c.o.status == .sent &&
        gbarTargets c.b 0 == some (.left 1, .right 1) && landsV (s.modStrand 0 fun t => { t with barrier := none }) c)) = true := by decide +kernel

/-- A ring of a saved task; a collective of two on this chip. -/
theorem witness_RingsComplete_saved : ((let s0 := withRing 0 (run1 (fires (blockOf (.stop .always) {}))); let s := s0.modTask 0 fun t => { t with status := .saved .drain };
      (s.ring 0 15).any fun r => s.savedAt r.owner) &&
    State.reset.collOk (collMsg 0 1).key && (collMsg 0 1).vals.length == (collMsg 0 1).key.len) = true := by decide +kernel

/-- A store of a peer's task here, on a pavilion that a task of this chip holds; its query, its insertion and its removal. -/
def peerStore : Store := { theStore 1 with owner := some 5, host := some 0 }
def peerQuery : PeerQuery :=
  { chip := 5, number := 9, task := 0, dom := 255, tag := 0, consume := false, r := (query false).r, third := 0, bytes := List.replicate 128 1 }

theorem witness_QueriesAreServed_peers : (let s0 := orangery (.matchQ .none .none) (query false); let s := withPeer 5 { s0 with stores := [peerStore] };
    s.storeOf (some peerQuery.chip) peerQuery.task peerQuery.dom 4095 == some peerStore && !peerQuery.consume && peerStore.blocked.isNone &&
      !s.storeSaved peerStore && !s.storeBusy peerStore && peerStore.chip == s.chip && (s.storeOf none 0 255 4095).isNone &&
      (s.storeOf (some 4) 0 255 4095).isNone && stands s0 (query false).strand (query false).slot fun c => !c.b.performed) = true := by
  decide +kernel

/-- ATTACH of a store of this chip's task on a peer that takes it or refuses it (both are free), and of a peer's store here. -/
theorem witness_DomainsComplete_peers : (
    (let s0 := orangery (.matchQ .none .none) (query false) []; let s := { s0 with stores := [{ theStore 1 with chip := 5 }] };
      (s.store 0 255 4095).any fun st => st.chip != s.chip && !s.storeBusy st && st.resv.isEmpty) &&
    (let m : MdomMsg := { mdomMsg 15 0 with owner := some 5 }; let s0 := orangery (.matchQ .none .none) (query false) [];
      let s := withPeer 5 { s0 with stores := [] };
      bits m.cmd 63 60 == 0 && (s.storeOf (some 5) m.task m.dom m.store).isNone && s.usable (bits m.loc 47 36) &&
        (s.takeStore { task := m.task, dom := m.dom, store := m.store, chip := s.chip, pav := 0, fe := 15, base := 0, cap := 1, geom := m.geom,
                       owner := some 5, host := s.holder 0 }).isSome)) = true := by decide +kernel

/-- An operation whose destinations DETERM compares, and one that it does not; no record is kept. -/
theorem witness_EnginesComplete_determ : ([0, 1].all fun n => let s0 := working (eng .cpy .queued);
    let s := s0.modTask 0 fun t => { t with desc := { t.desc with flags := n } };
    (s.engine 3).any fun e => !s.enginesKept e && (s.task e.task).determ == (n == 1) && e.cmd.isEmpty && e.dst.isEmpty &&
      (match s.engineRead e e.l (8 * e.kind.cmdWords) with
        | .ok s1 _ => (s1.task e.task).determ == (n == 1)
        | _ => false)) = true := by decide +kernel

/-- A page that leaves a harvested pavilion, and one that moves toward the lowest. -/
theorem witness_GraphsComplete_pages : ([0, 2 ^ 15].all fun h => let s0 := run1 (iterating {}) { graphTask with compact := true };
    let s := { s0 with strands := [], harv := [(0, BitVec.ofNat 16 h)] };
    s.mayMovePage (s.task 0) 0 14 && !(s.task 0).status.gone && s.graphQuiet 0) = true := by decide +kernel

/-- A task whose end has begun, and a query of it that is still to be decided. -/
theorem witness_SchedulerCompletes_ending : (let s := run1 (fires (blockOf (.stop .always) {})) { placedTask with status := .ending false };
    (s.task 0).status == .ending false && !s.queriesOut 0 && (s.retireStores 0).engines.isEmpty &&
      ((s.retireStores 0).terraces.all fun te => te.held.isEmpty) &&
      (let s := orangery (.matchc .none .none) { query true with granted := true }; s.queriesOut 0)) = true := by decide +kernel

/-- A move refused for each reason, one that waits for a stub; relays at a stub, at an incoming page and at the owner; a retired frame that
lines still name; STUB_GONE behind a COMMIT. -/
theorem witness_MovesComplete_refused : (
    (let s := { mover 0 with stubs := [{ old := 2 ^ 20 - 1, fwd := 5, live := true }] }; (s.stub (2 ^ 20 - 1)).any (·.live)) &&
    (({ State.reset with stubs := List.replicate 4096 { old := 3, fwd := 5 } } : State).stubs.length == 4096) &&
    (let s := { State.reset with incoming := [{ dst := 0, src := 6, chip := 1, slot := 7 }] }; s.incoming.any fun x => x.dst == 0) &&
    (let s := { State.reset with stubs := [{ old := 0, fwd := 5, live := true, holders := 1 }] }; (s.stub 0).any fun x =>
      x.live && x.holders.getLsbD 0 && !x.holders.getLsbD 1) &&
    (let s := State.reset; s.homeOk (2 ^ 21 - 1) && frameChip 0 == s.chip && !s.frameHeld 0 && s.tasks.isEmpty && !s.frameBusy 0 &&
      s.ownerFrame 7 == 7 && !s.inEgress 7 && frameChip (2 ^ 21) != s.chip) &&
    (let l : FlightLine := { scope := 3, point := 0, strand := 0, va := 0, cells := [(7 * 2 ^ 21, 7, true)], task := 0 };
      let s := { State.reset with lines := [l] }; s.frameBusy 7 && s.inEgress 7) &&
    (let s := { State.reset with migs := [(7, { state := .commit, src := BitVec.ofNat 64 (7 * 2 ^ 21) })] };
      (s.migs.find? fun m => m.2.state == .commit && m.2.srcFrame == 7).isSome && (s.stub 7).isNone)) = true := by decide +kernel

/-- Soft errors: before the boundary instruction is performed, after it, and while the strand publishes. -/
theorem witness_ModuleCompletes_errors : (
    (let s := run1 (fires { blockOf (.add .always .none .none) {} with performed := true });
      (s.strand 0).any fun t => t.phase == .run && t.block.any fun b => b.performed && b.slots[1]? == some ({ } : Slot)) &&
    (let s := run1 { fires (blockOf (.stop .always) {}) with pub := some { scope := 0, lines := [], deferred := [] } };
      (s.strand 0).any fun t => t.pub.isSome && t.block.all fun b => !b.performed)) = true := by decide +kernel

/-! ### Witnesses: lists that are full, joined waits, launches, engines at work -/

/-- A word of a pinned line that was poisoned when the line was pinned. -/
theorem witness_LoadsComplete_pinned : (let t0 := sentAt0 (.ldd .always 1 0 (.left 1)) (v lastBank) none none;
    let pin : Pin := ⟨bankKey 0 15 + 65472, lineOf (BitVec.ofNat 64 lastBank), List.replicate 64 7, [7]⟩;
    let s := run1 { t0 with region := { t0.region with pins := [pin] } };
    stands s 0 0 fun c => bits (accessAddr (opVal c.o.l) 0 8) 5 0 / 8 == 7 && !c.b.performed && c.t.region.pins.length == 1) = true := by decide +kernel

/-- A 33rd entry of each kind. -/
theorem witness_StrandInstructionsComplete_full : (
    ([(Instr.fork .always, 4095), (.forkn .always, 2 ^ 24 + 4095)].all fun x => issues (run1 (withList 32 (at0 x.1 (v (2 ^ 57 - 4)) (v x.2) none))) .always .both
      fun c => (opVal c.o.l).toNat % 4 == 0 && (opVal c.o.l).toNat < 2 ^ 57 && tagDepth c.t.region.tag != 5 && (opVal c.o.r).toNat < 2 ^ 25 &&
        c.t.region.deferred.length == 32 && !c.b.performed) &&
    (let s := run1 (withList 32 (at0 (.send .always) (v (2 ^ 57 - 8)) (v 1) none)) frameTask; issues s .always .both fun c =>
      (opVal c.o.l).toNat / 2 ^ 57 < frameSlots (s.task c.t.task).desc.frame && c.t.region.deferred.length == 32 && !c.b.performed) &&
    (let s0 := cachedPage (run1 (withList 32 { at0 (.fralloc .always (.left 1) (.right 1)) (v (2 ^ 57 - 8)) (v 0) none with poolPtr := 0x1000, poolEnd := 0x1040 }));
      let s := { s0 with mem := Memory.writeN s0.mem 0x5FF8 (toLe 4 0x05100000) }; issues s .always .both fun c =>
        c.t.region.deferred.length == 32 && !c.b.performed && match s.flat c.t.pav c.t.task ((opVal c.o.l).toNat % 2 ^ 57) .fetch with
          | .ok key => s.keyOk key && !s.frameHeld (frameOf (s.ownerKey key)) && !s.redirHeld (frameOf (s.ownerKey key)) && !s.poisoned (s.ownerKey key) 4 &&
            leNat (s.viewN c.k c.t.pav (s.ownerKey key) 4) == 0x05100000
          | _ => false) &&
    (let s := run1 (withList 32 { at0 (.frfree .always) (v (2 ^ 57 - 24)) none none with frames := [⟨BitVec.ofNat 64 (2 ^ 57 - 64), 64, true, 0⟩] });
      issues s .always .left fun c => (c.t.frames.any fun f => f.live && f.base + 40 == opVal c.o.l) &&
        ((c.t.region.deferred ++ c.t.queue.flatMap (·.deferred)).all fun d => d.kind != .frfree) && c.t.region.deferred.length == 32)) = true := by
  decide +kernel

/-- GBAR at a boundary that is not ready, and of a strand whose save kept its arrival; a second MWAIT on the last ring. -/
theorem witness_BarrierAndRingInstructionsComplete_waits : (
    (let s := run1 { at0 (.gbar .always (.left 1) (.right 1)) (v (65535 * 2 ^ 16 + 256 + 255)) none none with
        queue := [{ scope := 0, lines := [], deferred := [] }] };
      issues s .always .left fun c => bits (opVal c.o.l) 10 8 == 1 && !boundaryReady c s) &&
    (let w : Await := ⟨1, 0, 255, 65535, 65535, 0, false⟩;
      let s := run1 { at0 (.gbar .always (.left 1) (.right 1)) (v (65535 * 2 ^ 16 + 256 + 255)) none none with barrier := some w };
      issues s .always .left fun c => boundaryReady c s && arrived c.t 1 (barrierHome c.t 1 0) 255 == some w && !w.done) &&
    (let t := at0 (.mwait .always (.left 1) (.right 1)) (v (15 * 2 ^ 32 + 6 * 2 ^ 24)) none none;
      let s := withRing 1 (run1 { t with region := { t.region with deferred := [{ kind := .mwait, x := 0, y := 15 }] } });
      issues s .always .left fun c => (s.ring c.t.pav 15).any (fun r => r.dataRecs[(c.t.region.waits.find 15).getD 0 + queuedWaits c.t 15]? == some (0, 64)) &&
        (c.t.region.deferred.any fun d => d.kind == .mwait && d.y == 15) && firesAt c (.left 1) (.right 1) (v 1) (v 2))) = true := by decide +kernel

/-- A publish at step 2 in the last cached page: children at every scope; FRALLOC and FRFREE; both advances, whole and cut; a buffer that is
joined, refused, opened and left. -/
theorem witness_LaunchesInOrder_frames : (
    let t := fires (blockOf (.stop .always) {}); let s := cachedPage (run1 t);
    ([0, 1, 2, 3, 4].all fun n => effScope n [{ kind := .tagset }] == n) && effScope 0 [{ kind := .fork }] == 1 &&
    (let m := s.lineMeets t (BitVec.ofNat 64 (2 ^ 57 - 64)); !isWindow (BitVec.ofNat 64 (2 ^ 57 - 24) - 40) &&
      lineOf (BitVec.ofNat 64 (2 ^ 57 - 24) - 8) == BitVec.ofNat 64 (2 ^ 57 - 64) && match m with
      | .key k => k == 0x5FC0
      | _ => false) &&
    (let s := { s with migs := [(0, { state := .final, src := 0 })] }; match s.lineMeets t (BitVec.ofNat 64 (2 ^ 57 - 64)) with
      | .wait => true
      | _ => false) &&
    (let s := withBuf (buf 4 1) t; (s.buffers.find 7).any fun b => b.room == 3 && b.filled == 1 && !s.recordKept 0 0 9 && !s.recordKept 0 0 8 &&
      s.strand 0 == some { t with bufs := [(31, 7)] }) &&
    (let s0 := withBuf (buf 4 1) t; let s := s0.modTerrace 0 fun te => { te with held := [⟨{ s0.strandRec t 9 with kind := 9 }, none, none⟩] };
      s.recordKept 0 0 9) &&
    (let fs : List FrameRec := [⟨64, 64, true, 0⟩, ⟨128, 64, true, 0⟩]; fs == [⟨64, 64, true, 0⟩] ++ [⟨128, 64, true, 0⟩] ++ [] &&
      fs == [] ++ [⟨64, 64, true, 0⟩] ++ [⟨128, 64, true, 0⟩])) = true := by decide +kernel

/-- Messages as step 2 sends them: the last ring's definition and its end, MSEND to this chip, to a peer and to no one, MWAIT's release,
store messages with the launch's last register, MDOM, ITBL in the last page, RESUME; an entry whose register is pending. -/
theorem witness_LaunchesInOrder_messages : (
    let t := fires (blockOf (.stop .always) {}); let s := withPeer 5 (cachedPage (run1 t));
    let l := BitVec.ofNat 64 (15 * 2 ^ 48 + 15 * 2 ^ 44 + 6 * 2 ^ 16 + 65472); let r := BitVec.ofNat 64 (2 ^ 57 + 127 * 2 ^ 50 + 2 ^ 41);
    bits l 20 16 == 6 && bits l 51 48 == 15 && (s.ring 0 15).isNone && ((withRing 0 s).ring 0 15).isSome && !s.recordKept 0 0 5 &&
    !s.recordKept 0 0 11 && !s.recordKept 0 0 12 && bit r 57 && bits r 56 50 == 127 && !s.isPending 0 127 &&
    (s.setPending 0 127).isPending 0 127 && !s.poisoned (bankKey 0 0) 8 &&
    ({ s with poison := [bankKey 0 0 / 8] } : State).poisoned (bankKey 0 0) 8 && bits (BitVec.ofNat 64 (5 * 2 ^ 48)) 60 48 == 5 &&
    s.chip != 5 && s.reached 5 && !s.reached 6 && !s.kputLost { kind := .kput } &&
    ({ s with poison := [bankKey 0 0 / 8] } : State).kputLost
      { kind := .kput, l := BitVec.ofNat 64 (5 * 2 ^ 61 + 127 * 2 ^ 21), buf := some { pav := 0, fe := 0, base := 0, size := 128, count := 1 } } &&
    (s.mdom { task := 0, strand := 0, cmd := BitVec.ofNat 64 (2 ^ 61), loc := 0, block := 0, slot := 0, tag := 0 }).isSome &&
    (let a := tableVa (BitVec.ofNat 64 (2 ^ 57 - 8192)) 0 + BitVec.ofNat 64 (8 * 1023); !isWindow (lineOf a) && match s.lineMeets t (lineOf a) with
      | .key k => k == 0x5FC0
      | _ => false) &&
    (s.ofHandle (s.handle t)).any fun j => (s.strand j).isSome) = true := by decide +kernel

/-- An operation that is launched with its last register free and pending, and under DETERM one that meets another queue's; an out port's
entry. -/
theorem witness_LaunchesInOrder_engines : (
    let t := fires (blockOf (.stop .always) {});
    let d : Deferred := { kind := .cpy, l := BitVec.ofNat 64 (2 ^ 57 - 64), r := BitVec.ofNat 64 (127 * 16 + 8 + 1) };
    let s := working { eng .cpy .queued with dst := [(2 ^ 57 - 4096, 64)] };
    ((s.portEntry 0 d).1.engine 0 t).any (fun e => e.cv && !s.isPending 0 e.creg && (s.setPending 0 127).isPending 0 e.creg) &&
    !s.dstOverlap { eng .cpy .queued with queue := 1 } [] && s.dstOverlap { eng .cpy .queued with queue := 1 } [(2 ^ 57 - 4033, 1)] &&
    (let s := s.modTask 0 fun t => { t with ports := [(65535, { out := true, tensor := 0, stream := 0 })] };
      (s.portEntry 0 { kind := .sstore, x := 65536, r := 7 }).1.r == 0)) = true := by decide +kernel

/-- The last page, with what a test puts behind its last kilobyte; a buffer whose slot is free at launch. -/
def lastPage : Nat := 2 ^ 57 - 4096
def moving (e : Engine) (m : List Byte) (b : BufRec := buf 4 0) : State :=
  let s := working { e with snap := [{ desc := 31, buf := 7, p := b.p, c := b.c, filled := b.filled }] };
  { s with strands := [{ fires (blockOf (.stop .always) {}) with bufs := [(31, 7)] }], buffers := [(7, b)], mem := Memory.writeN s.mem 0x5C00 m }
def word (n : Nat) : Word := BitVec.ofNat 64 n

/-- CPY from memory and from a bank, a unit and its end; CPYT's last byte of a row; WSLD of the last 64 bytes, and one in its segment's
window. -/
theorem witness_EnginesComplete_copies : (
    ([0, 64].all fun n => [lastPage, 0xFF000000000FFFC0].all fun src =>
      let s := moving { eng .cpy .running [word src, word (lastPage + 2048), 64, 0] with done := n } [];
      (s.engine 3).any fun e => !s.enginesKept e && e.kind.cmdWords ≤ e.cmd.length && e.addr 0 == word src && !isWindow (e.addr 8) && e.f 16 4 == 64 &&
        e.f 20 12 == 0 && (isWindow (e.addr 0) || !rangesMeet (src, 64) (lastPage + 2048, 64)) &&
        (!isWindow (e.addr 0) || (match s.bankWindow e.task e.pav (e.addr 0) with
          | some (p, fe, off) => off + 64 ≤ 65536 && s.purposed e.task p fe off 64
          | none => true)) && (n == 64 || match s.engineRead e (e.addr 0) 64 with
          | .ok s1 d => (match s1.engineWrite e (e.addr 8) d with
            | .ok _ _ => true
            | _ => false)
          | _ => false)) &&
    ([0, 2047, 2048].all fun n => let s := moving { eng .cpyt .running [word lastPage, word (64 + 63 * 2 ^ 32 + 31 * 2 ^ 48 + 31 * 2 ^ 56), 3, 0] with done := n } [];
      (s.engine 3).any fun e => (s.snapBuf e (e.f 15 1)).any fun x => e.f 12 2 + 1 == 64 && e.f 14 1 + 1 == 32 && e.f 18 14 == 0 && 2048 ≤ x.2.size &&
        e.f 16 2 < x.2.count && x.1.free x.2 3 && (n == 2048 || match s.engineRead e (e.addr 0 + word (n / 64 * e.f 8 4 + n % 64)) (64 - n % 64) with
          | .ok _ _ => true
          | _ => false)) &&
    ([0, 63].all fun seg => let s0 := moving { eng .wsld .running [] (word (2 ^ 31 - 64)) with r := word (31 * 2 ^ 45 + 1) } [];
      let s := s0.modTerrace 0 fun te => { te with seg := seg };
      (s.engine 3).any fun e => (s.snapBuf e (bits e.r 49 45)).any fun x => bits e.r 44 30 < x.2.count && x.1.free x.2 0 && e.done != bits e.r 10 0 &&
        ((e.l.toNat + 64 * e.done) / 2 ^ 25 == (s.terrace 0).seg) == (seg == 63) && !s.poisoned (2 ^ 57 + e.l.toNat) 64)) = true := by decide +kernel

/-- IGATHER with its table in the last page: its entries still to be read, valid and not, then a piece; WALK's piece and its end. -/
theorem witness_EnginesComplete_gathers : (
    ([0, 2 ^ 63].all fun ent => [4, 5].all fun cl => [0, 64].all fun done =>
      let e := { eng .igather .running ([word (1023 * 2 ^ 16), word lastPage, word (64 + 31 * 2 ^ 32), 0] ++ List.replicate (cl - 4) (word (2 ^ 63))) with
        aux := (lastPage - 4096) + 1, done := done };
      let s := moving e (List.replicate 1016 0 ++ toLe 8 ent);
      (s.engine 3).any fun e => let itb := BitVec.ofNat 64 e.aux; e.f 16 4 == 64 && (s.snapBuf e (e.f 20 1)).any fun x => e.f 4 2 + 1 == 1 && e.f 0 1 < bits itb 8 0 &&
        e.f 1 1 == 0 && e.f 2 2 + 1 ≤ 1024 && e.f 6 2 == 0 && e.f 21 1 == 0 && e.f 24 8 == 0 && e.f 22 2 + (64 + x.2.size - 1) / x.2.size ≤ x.2.count &&
        (cl == 5 || match s.engineRead e (BitVec.ofNat 64 (bits itb 56 13 * 8192 + 8192 * e.f 0 1 + 8 * e.f 2 2)) 8 with
          | .ok _ d => (toWords 1 d).all fun w => w.getLsbD 63 == (ent != 0)
          | _ => false) && (cl == 4 || (let src := ((e.cmd[4]?).getD 0 &&& 0x01FFFFFFFFFFFFFF) + e.addr 8; !isWindow src && x.1.free x.2 0 &&
            match s.engineRead e src 64 with
              | .ok _ _ => true
              | _ => false))) &&
    ([0, 64].all fun done => let e := { eng .walk .running [word lastPage, word lastPage, word (64 + 31 * 2 ^ 56), 0] with done := done };
      let s := moving e [];
      (s.engine 3).any fun e => e.f 16 4 == 64 && (s.snapBuf e (e.f 23 1)).any fun x => e.f 20 2 + 1 == 1 && e.f 22 1 ≤ 1 && e.f 26 6 == 0 &&
        e.f 24 2 + (64 + x.2.size - 1) / x.2.size ≤ x.2.count && !isWindow (e.addr 8) && !isWindow (e.addr 0) && x.1.free x.2 0 &&
        (match s.engineRead e (e.addr 0) 4 with
          | .ok s0 ix => (match s0.engineRead e (e.addr 8 + BitVec.ofNat 64 (leNat ix * 64)) 64 with
            | .ok _ _ => true
            | _ => false)
          | _ => false))) = true := by decide +kernel

/-- A module with an INT8 tensor of one row of 64 elements, whose one tile stands behind the last cached page. -/
def streaming (e : Engine) (b : BufRec) (fmt : Nat) : State :=
  let s := (moving e [] b).modTask 0 fun t => { t with desc := { t.desc with tdir := 0x200 } };
  { s with mem := Memory.writeN (Memory.writeN (Memory.writeN s.mem 0 ([2, BitVec.ofNat 8 fmt] ++ toLe 2 1 ++ toLe 4 4095 ++ toLe 4 63))
      (0x200 + 16 * 4095) (toLe 8 0x400 ++ toLe 4 1 ++ toLe 2 0)) 0x400 (toLe 8 (3 * 2 ^ 62 + 0x5000)) }

/-- A stream's piece into a free slot, and out of a filled one; elements inside the tensor, of a byte and of half a byte, and outside. -/
theorem witness_EnginesComplete_streams : ([EngKind.sload, .sstore].all fun k => [5, 6].all fun fmt =>
    let e := eng k .running [] (word (4095 * 2 ^ 52 + 31 * 2 ^ 47 + 63 * 2 ^ 16)); let s := streaming { e with r := 0 } (buf 4 (if k = .sload then 0 else 1)) fmt;
    (s.engine 3).any fun e => !s.enginesKept e && !s.tensorLost 0 4095 && (s.tensor 0 4095).any fun inf => (s.snapBuf e (bits e.l 51 47)).any fun x =>
      let b := streamBox inf e; b.cols == 64 && b.tcols == 64 && b.fmt.width == (if fmt = 5 then 8 else 4) && !b.tile && b.k + b.slots x.2.size ≤ x.2.count &&
      (match s.tensorDir 0 b.tensor with
        | .ok s1 dir => dir.2.1 == 1 && (if k = .sload then x.1.freeNow x.2 b.k && (match Got.each (loadElem e b) [(0, 0), (0, 63), (1, 0), (0, 64)] s1 with
            | .ok _ vs => vs.length == 4
            | _ => false)
          else x.1.full x.2 b.k && !s1.poisoned (x.2.slotKey 0) 64 && (match Got.each (storeElem e b) [(0, 0), (0, 63), (1, 0)] s1 with
            | .ok _ ks => ks.length == 3
            | _ => false))
        | _ => false)) = true := by decide +kernel

/-- A collection in the last page with a side record: INSERT, DELETE; what its operations read and write is there. -/
def collecting (k : EngKind) (st : EngState) (op : Nat) : State :=
  let a (n : Nat) := toLe 8 (lastPage + n);
  let e := { eng k st ([word lastPage, word (lastPage + 0x200), if k = .mscan then 0 else 1, 0] ++ if k = .mscan then [0, word ((lastPage + 0xF00) % 2 ^ 32 * 2 ^ 32), word ((lastPage + 0xF00) / 2 ^ 32), 0] else []) with
    done := if k = .mscan ∨ k = .ksum then 1 else 0, aux2 := 1 };
  let e := if k = .ksum then { e with cmd := [word lastPage, word (2 ^ 32), 0, 0] } else e;
  let s := moving e [];
  { s with mem := Memory.writeN (Memory.writeN s.mem 0x5000 (a 0x400 ++ a 0x800 ++ a 0x900 ++ a 0x300 ++ a 0xA00 ++ a 0xB00 ++ toLe 4 0 ++ toLe 2 1 ++ toLe 2 2
      ++ [0, 127, 0, 6, 0, 0])) 0x5310 [BitVec.ofNat 8 op] }

theorem witness_EnginesComplete_steps : (
    ([0, 1].all fun op => (let s := collecting .kappend .grant op; (s.engine 3).any fun e => match s.readColl e with
        | .ok s1 c => c.n == 0 && c.sidelen == 1 && c.sidecap == 2 && (match s1.engineRead e (e.addr 8) 32 with
          | .ok _ h => leNat ((h.drop 16).take 1) == 0
          | _ => false)
        | _ => false) &&
      (let s := collecting .kmerge .grant op; (s.engine 3).any fun e => match s.readColl e with
        | .ok s1 c => (match Got.each (c.mergeOne e) (List.range 1) s1 with
          | .ok _ ns => ns == [if op = 0 then c.geom.kb + 12 else 2]
          | _ => false)
        | _ => false)) &&
    (let s := collecting .mscan .running 0; (s.engine 3).any fun e => e.done == 1 && match mscanBytes s e with
      | .ok s1 d => (match s1.engineWrite e (e.addr 44) d with
        | .ok _ _ => d.length == 64
        | _ => false)
      | _ => false) &&
    (let s := collecting .ksum .running 0; (s.engine 3).any fun e => e.f 12 4 == 1 && e.f 16 16 == 0 && e.done != e.f 12 4 + 1 && match s.readColl e with
      | .ok _ c => c.geom.kfmt != 2
      | _ => false)) = true := by decide +kernel

/-- Under DETERM an operation that has still to be compared: the command just read tells where it writes, and meets another or not. -/
theorem witness_EnginesComplete_untold : ([64, 65].all fun n =>
    let s0 := moving { eng .cpy .queued [] (word lastPage) with untold := true } [];
    let s1 := { s0 with mem := Memory.writeN s0.mem 0x5000 (toLe 8 lastPage ++ toLe 8 (lastPage + 2048) ++ toLe 4 n),
                        engines := s0.engines ++ [(4, { eng .cpy .running with queue := 1, dst := [(lastPage + 2112, 1)] })] };
    (s1.engine 3).any fun e => e.untold && match s1.engineRead e e.l 32 with
      | .ok s d => (match s.engineDst { e with cmd := toWords 4 d, state := .running } with
        | some dst => s.dstOverlap e dst == (n == 65)
        | none => false)
      | _ => false) = true := by decide +kernel

/-! ### Witnesses: homes, moves and the module beside the above -/

/-- A module that operates: each register, doorbell and service. A failed collective, a barrier's answers, a held read of a domain. -/
theorem witness_operates : (let s := staged .run; !s.dark && s.boot.stage != .off && 63 < 64 && 23 < 24 && 7 < s.terraces.length && !s.terraceHeld 7 &&
    !(s.mig 7).busy && !s.poison.contains ((2 ^ 57 - 1) / 8) && s.keyOk (2 ^ 38 - 1) && !s.frameHeld (frameOf (s.ownerKey (2 ^ 38 - 1))) &&
    (2 ^ 38 - 1) / 2 ^ 21 == (2 ^ 38 - 1 + [(1 : Byte)].length - 1) / 2 ^ 21 && !s.poisoned (s.ownerKey (2 ^ 38 - 1)) 1 && 8191 < 8192 &&
    (4096 ≤ 2 ^ 20 - 8 && 2 ^ 20 - 8 + 8 ≤ 2 ^ 20) && (16 ≤ 4095 && 4095 < 4096) && 2 ^ 20 < 2 ^ 20 - 7 + 8 &&
    (let s := run1 (fires (blockOf (.stop .always) {})); !s.dark && (s.strand 0).isSome)) = true := by decide +kernel

/-- Arrivals at a barrier of this chip: none of the strand stands there, one with another count, and a peer's answers. -/
theorem witness_BarriersComplete_answers : (let t := sentAt0 (.gbar .always (.left 1) (.right 1)) (v 0) none none; let s := run1 t;
    (stands s 0 0 fun c => gbarTargets c.b 0 == some (.left 1, .right 1) && !c.b.performed && c.o.status == .sent) &&
    ([{ arrives 1 with strand := some 1 }].all fun a => a.strand != some 0) &&
    (let b : BarRec := { task := 0, scope := 1, home := 0, bar := 255, nm1 := 2, arrived := [{ arrives 2 with strand := some 1 }] };
      ({ s with barriers := [b] } : State).barriers.find? (fun b => b.isFor (arrives 1)) == some b && b.nm1 != (arrives 1).nm1) &&
    ({ arrives 1 with answer := some (.counted 7) } : Arrival).answer == some (.counted 7) &&
    ({ arrives 1 with answer := some .refused } : Arrival).answer == some .refused) = true := by decide +kernel

/-- A collective whose record has failed, and one that another rank fails. -/
theorem witness_HomesComplete_failed : ([true, false].all fun f => let m := collMsg 1 1;
    let s : State := { State.reset with colls := [{ key := m.key, parts := [m], failed := f }] };
    (s.colls.find? fun r => r.key.cid == m.key.cid).any fun r => r.failed == f && (r.parts.any fun p => p.rank == m.rank) &&
      r.parts.length + 1 ≤ r.key.parts) = true := by decide +kernel

/-- A read of the domains that the Lodge has still to answer: queries and store messages of the domain wait. -/
theorem witness_QueriesAreServed_held : (let s0 := orangery (.matchQ .none .none) (query false) [];
    let s := { s0 with engines := [(3, { eng .table (.held 0 false) with aux := 255, done := 1 })] };
    (s.queries.find 3).any fun x => s.tableHeld x.task (bits x.r 63 56) && !s0.tableHeld x.task (bits x.r 63 56)) = true := by decide +kernel

/-- A region that opens where YIELD has sent its strand back, with a place free and with none wanted. -/
theorem witness_BlocksComplete_yield : (([[], [{ task := 0, pav := 0, state := .waiting }]] : List (List Strand)).all fun w => [[], [({ scope := 1, point := 0, strand := 0, va := 0, cells := [(64, 7, true)], task := 0 } : FlightLine)]].all fun l =>
    let t : Strand := { task := 0, pav := 0, state := .ready, yieldMark := true }; let s0 := admitted (run1 t);
    let s := { s0 with strands := t :: w ++ (List.range 15).map fun p => ({ task := 0, pav := 0, place := p + 1, state := .ready } : Strand), lines := l }; t.yieldMark && (s.placeWanted 0 == !w.isEmpty) && ((s.narrower 0 3).isEmpty == l.isEmpty)) = true := by decide +kernel

/-- A flow that a second router diverts in turn, that goes on, that is full; places to reserve; its last packets. -/
theorem witness_ModuleCompletes_flows : (let s : State := { State.reset with flows := [(5, { diverted := true, normal := 1 }), (9, { diverted := true, queued := 192, escaped := 64 }),
      (13, { diverted := true, queued := 3, escaped := 1 }), (17, { diverted := true, escaped := 1 })] };
    (s.flow 5).diverted && 0 < (s.flow 5).normal && !(s.flow 1).diverted && (s.flow 9).normal == 0 && 256 ≤ (s.flow 9).queued + (s.flow 9).escaped &&
      (s.flow 13).queued + (s.flow 13).escaped < 256 && (s.flow 17).escaped == 1 && (s.flow 17).queued == 0 && min (s.flow 13).queued (64 - s.escapePlaces 3) == 3) = true := by
  decide +kernel

/-- Which router diverts a flow is open: it is one that has diverted it already, or not. -/
theorem witness_ModuleCompletes_router (n : Nat) : ∃ l : List Nat, Config.freeChoice n % 4096 ∈ l ∧ ∃ l : List Nat, Config.freeChoice n % 4096 ∉ l :=
  ⟨[_], List.mem_singleton.2 rfl, [], List.not_mem_nil⟩

/-- A relayed read, atomic and reduction at their owner; RETIRE of a frame that a live stub here leads to. -/
theorem witness_MovesComplete_relays : ((let s := staged .run; let pa := 2 ^ 38 - 8;
      s.incoming.isEmpty && (s.stub (frameOf pa)).isNone && !s.frameHeld (frameOf pa) && s.homeOk pa && frameChip (frameOf pa) == s.chip && !s.poisoned pa 8) &&
    (let s := { staged .run with stubs := [{ old := 3, fwd := 5, live := true }], moved := [(5, 6)] };
      !s.frameBusy 5 && !s.redirHeld 6 && s.hop 5 != 5 && (s.stubs.any fun x => x.live && x.fwd == 5) && s.tasks.isEmpty)) = true := by decide +kernel

/-- A page that leaves the upper pavilion of a compacted task, and one whose pavilion is harvested. -/
theorem witness_GraphsComplete_moves : (let t := { graphTask with compact := true }; let s := run1 (iterating {}) t;
    s.physPav t 15 == some 15 && s.physPav t 14 == some 14 && s.mayMovePage t 0 14 &&
      (({ s with harv := [(0, 2 ^ 15)] } : State).physPav t 15).isNone) = true := by decide +kernel

/-- A task's save area that nothing holds, before and after its counters are written back. -/
theorem witness_SchedulerCompletes_save : (let s := run1 (fires (blockOf (.stop .always) {})) { placedTask with status := .stopping .drain false };
    let s := { s with strands := [] }; !s.areaHeld (s.task 0).desc.save ((s.task 0).desc.saveMb * 2 ^ 20) && (s.task 0).tallied != some (s.tally 0) && s.saveReady 0 &&
      (s.writeCounters 0).taskQuiet 0 &&
      !({ s with lines := [{ scope := 1, point := 0, strand := 0, va := 0, cells := [(64, 7, true)], task := 0 }] } : State).taskQuiet 0) = true := by decide +kernel

/-- TLDT of narrow tiles one of which has scales. -/
theorem witness_TilesComplete_scales : (let s := run1 (at0 (.tldt .always (.left 1) (.right 1)) (tileOf .int8 1) (dstOf .int8 0 true) none) scratchTask;
    issues s .always .both fun c => !c.b.performed && c.t.kind == .ordinary) = true := by decide +kernel

/-- CALL, CALLI and RET to an address above the flat window, to a misaligned one, and with frame pointers that are refused. -/
theorem witness_BranchFaults_calls : ([Instr.call .always, .calli .always, .ret .always].all fun i =>
    ([(0, 1), (0, 2 ^ 57), (2 ^ 57 - 1, 0)].all fun (x : Nat × Nat) => let s := run1 (at0 i (v x.1) (v x.2) none);
      issues s .always .both fun c => !c.b.performed && bits (opVal c.o.l) 63 57 == 0) &&
    (let s := run1 (at0 i (v (2 ^ 57)) (v 0) none); issues s .always .both fun c => !c.b.performed)) = true := by decide +kernel

/-- TLBI of each kind in a task that is not privileged. -/
theorem witness_PrivilegeFaults_tlbi : ([0, 2 ^ 62 + 2 ^ 57 - 2 ^ 21, 2 * 2 ^ 62, 3 * 2 ^ 62 + 2 ^ 24 - 2 ^ 12].all fun l =>
    let s := run1 (at0 (.tlbi .always) (v l) (v (127 * 16 + 8)) none) plainTask;
    issues s .always .both fun c => !c.b.performed && (opVal c.o.l).toNat / 2 ^ 57 % 32 == 0 && (opVal c.o.l).toNat % 4096 == 0 &&
      (opVal c.o.r).toNat / 16 % 128 < (s.task c.t.task).desc.regs && !(s.task c.t.task).privileged) = true := by decide +kernel

/-- A byte of a bank window that has no purpose, at an address that is aligned and at one that is not. -/
theorem witness_StoresComplete_purpose : ([0, 1].all fun n => let a := 0xFF * 2 ^ 56 + 15 * 2 ^ 16 + 1024 + n;
    let s := run1 (at0 (.ldd .always 0 0 (.left 1)) (v a) none none);
    issues s .always .left fun c => !c.b.performed && s.fireCheck c.t (BitVec.ofNat 64 a) 8 == some .resource) = true := by decide +kernel

/-- A staged drain behind one of another strand, a table's write-back that is held and one that is not, and a SEND to an address that no
home has. -/
theorem witness_LaunchesInOrder_system : (let d : Drain := { task := 0, srcPav := 0, srcFe := 0, idx := 255, kept := true, data := [1], strand := 0, block := 0, slot := 0, tag := 0 };
    let s0 := run1 (fires (blockOf (.stop .always) {})) { placedTask with status := .running };
    let s := { s0 with stagings := [{ d with strand := 1 }, d], engines := [(3, { eng .table (.held 0 false) with task := 0 })] };
    s.stagings == [{ d with strand := 1 }] ++ d :: [] && !({ d with strand := 1 }.strand == 0 && d.kept && !d.launched) &&
      !s.queriesOut 0 && ((s.retireStores 0).engines.any fun x => x.2.kind == .table && x.2.task == 0 && x.2.done == 0) &&
      !((s0.retireStores 0).engines.any fun x => x.2.kind == .table && x.2.task == 0 && x.2.done == 0) &&
      !s0.keyOk (4608 * 2 ^ 42) && !s0.recordKept 0 0 3 &&
      (let s1 := s0.reachArea 4096 (64 + 64 * 2 ^ 6); !s1.poisoned (s1.ringKey 4096) 4)) = true := by decide +kernel

/-- A module in SAFE. -/
theorem witness_ModuleCompletes_dark : ((staged .safe).dark && (staged .off).dark && !(staged .run).dark) = true := by decide +kernel

/-- A GO to a module of the domain to which no link leads; a HOLD behind a COMMIT; a line that names a frame whose page has moved on. -/
theorem witness_MovesComplete_links : ((let s : State := { mover 0 with croute := [] }; !s.reached 4607) &&
    (let s := { staged .run with migs := [(3, { state := .commit, src := BitVec.ofNat 64 (2 ^ 21), dst := BitVec.ofNat 64 (5 * 2 ^ 42) })] };
      frameChip 1 == s.chip && (s.stub 1).isNone && (s.migs.find? fun m => m.2.state == .commit && m.2.srcFrame == 1).isSome) &&
    (let s := { staged .run with lines := [{ scope := 1, point := 0, strand := 0, va := 0, cells := [(64, 7, true)], task := 0, named := [3] }] };
      !s.frameBusy 3 && (s.lines.any fun l => l.named.contains 3))) = true := by decide +kernel

/-- A grove that stays held at its task's end, before and after its record is granted. -/
theorem witness_SchedulerCompletes_held : (let s0 := run1 (fires (blockOf (.stop .always) {})) { placedTask with status := .ending false };
    let s := { s0 with passed := [(0, 0)] }; let g := (s.task 0).groves;
    (s.task 0).homes.isEmpty && !g.isEmpty && g.filter (s.groveStays 0) == g && (s.task 0).stayed.isEmpty && !s.groveKept 0 0 &&
      (let s := holdGroves 0 g s; (g.all fun n => (s.task 0).stayed.contains n) && (s.task 0).stayed.length == g.length)) = true := by decide +kernel

/-- A logical pavilion that leaves a harvested one, and one of a compacted task that moves down. -/
theorem witness_GraphsComplete_swap : ([0, 2 ^ 15].all fun h => let s0 := run1 (iterating {}) { graphTask with compact := true };
    let s := { s0 with strands := [], harv := [(0, BitVec.ofNat 16 h)] }; let t := s.task 0;
    t.pages[0]? == some 15 && s.mayMovePage t 0 14 && !t.pages.contains 14 && !t.token && s.graphQuiet 0 && s.taskQuiet 0 && t.place 15 == some 15 &&
      t.place 14 == some 14 && s.pavFree 0 15 && s.pavFree 0 14 && s.physPav t 14 == some 14 && s.usable 15 == (h == 0)) = true := by decide +kernel

/-- A scan that waits for its domain's table. -/
theorem witness_EnginesComplete_table : (let s0 := orangery (.matchQ .none .none) (query false) [];
    let e := { eng .mscan .queued with l := BitVec.ofNat 64 (2 ^ 57 - 64), cmd := [BitVec.ofNat 64 0] };
    let s := { s0 with engines := [(3, { eng .table (.held 0 false) with aux := 255, done := 1 }), (4, e)] };
    s.tableHeld 0 255 && !s0.tableHeld 0 255) = true := by decide +kernel
end Sys2Proof.Tests
end

section
/-! PROOF. Memory gives back what was written (R84, R277): two memories in canonical form that read alike are one, and a write at
home is a run of bytes, read back little-endian. -/

namespace Sys2Proof.Machine

/-! ### One form for each memory -/

theorem Memory.read_head (k : Nat) (v : Byte) (t : List Host.Cell) : Memory.read ((k, v) :: t) k = v := if_pos rfl

theorem Memory.read_tail {k j : Nat} (v : Byte) (t : List Host.Cell) (h : k ≠ j) : Memory.read ((k, v) :: t) j = Memory.read t j :=
  if_neg h

/-- Below its first cell a memory reads zero. -/
theorem Memory.read_below {k j : Nat} {v : Byte} {t : List Host.Cell} (hw : Memory.wf ((k, v) :: t)) (h : j < k) :
    Memory.read ((k, v) :: t) j = 0 := by
  obtain ⟨-, -, hk⟩ := Memory.wf_cons.1 hw
  refine Memory.read_absent fun c hc => ?_
  rcases List.mem_cons.1 hc with rfl | hc
  · exact Nat.ne_of_lt h
  · exact Nat.ne_of_lt (Nat.lt_trans h (hk c hc))

/-- Where two memories read alike, the first cell of one does not lie below that of the other. -/
theorem Memory.head_le {k k' : Nat} {v v' : Byte} {t t' : List Host.Cell} (hw : Memory.wf ((k, v) :: t))
    (hw' : Memory.wf ((k', v') :: t')) (h : ∀ j, Memory.read ((k, v) :: t) j = Memory.read ((k', v') :: t') j) : k' ≤ k := by
  obtain ⟨hv, -, -⟩ := Memory.wf_cons.1 hw
  refine Nat.le_of_not_lt fun hlt => hv ?_
  rw [← Memory.read_head k v t, h, Memory.read_below hw' hlt]

/-- The canonical form is unique: memories that read alike are equal. -/
theorem Memory.ext_read {m m' : List Host.Cell} (hw : Memory.wf m) (hw' : Memory.wf m')
    (h : ∀ j, Memory.read m j = Memory.read m' j) : m = m' := by
  induction m generalizing m' with
  | nil =>
    match m' with
    | [] => rfl
    | (k, v) :: t => exact absurd ((h k).trans (Memory.read_head k v t)).symm (Memory.wf_cons.1 hw').1
  | cons c t ih =>
    obtain ⟨k, v⟩ := c
    obtain ⟨hv, ht, hk⟩ := Memory.wf_cons.1 hw
    match m' with
    | [] => exact absurd ((Memory.read_head k v t).symm.trans (h k)) hv
    | (k', v') :: t' =>
      obtain ⟨-, ht', hk'⟩ := Memory.wf_cons.1 hw'
      obtain rfl : k = k' := Nat.le_antisymm (Memory.head_le hw' hw fun j => (h j).symm) (Memory.head_le hw hw' h)
      obtain rfl : v = v' := by simpa only [Memory.read_head] using h k
      rw [ih ht ht' fun j => ?_]
      by_cases hj : k = j
      · subst hj
        rw [Memory.read_absent fun c hc => Nat.ne_of_lt (hk c hc),
           Memory.read_absent fun c hc => Nat.ne_of_lt (hk' c hc)]
      · simpa only [Memory.read_tail _ _ hj] using h j

theorem memoryReadsBack : Parts.MemoryReadsBack := by
  intro m k b hw
  refine ⟨Memory.wf_write k b hw, ?_, fun j hj => ?_, fun m' hw' h => Memory.ext_read hw hw' h⟩
  · rw [Memory.read_write hw, if_pos rfl]
  · rw [Memory.read_write hw, if_neg hj]

/-! ### Little-endian bytes -/

theorem length_toLe (n v : Nat) : (toLe n v).length = n := by
  induction n generalizing v with
  | zero => rfl
  | succ n ih => rw [toLe, List.length_cons, ih]

/-- Bytes of a number, read back: the number modulo 256^n (R84). -/
theorem leNat_toLe (n v : Nat) : leNat (toLe n v) = v % 256 ^ n := by
  induction n generalizing v with
  | zero => simp [toLe, leNat, Nat.mod_one]
  | succ n ih => rw [toLe, leNat, ih, BitVec.toNat_ofNat, (Nat.pow_succ' : 256 ^ (n + 1) = _), Nat.mod_mul]

/-! ### Writes at home -/

/-- The cells of a write at home, written one after the other, are a run of bytes. -/
theorem Memory.writeCells_run (m : List Host.Cell) (key : Nat) (d : List Byte) :
    Memory.writeCells m (((List.range d.length).zip d).map fun c => (key + c.1, c.2)) = Memory.writeN m key d := by
  induction d generalizing m key with
  | nil => rfl
  | cons b t ih =>
    rw [Memory.writeN, ← ih]
    simp [Memory.writeCells, List.range_succ_eq_map, List.zip_map_left, Function.comp_def, Nat.add_assoc, Nat.add_comm 1]

theorem State.writeHome_mem (s : State) (key : Nat) (d : List Byte) : (s.writeHome key d).mem = Memory.writeN s.mem key d :=
  Memory.writeCells_run s.mem key d

/-- The bytes of a run, read back from where it was written. -/
theorem Memory.readN_writeN {m : List Host.Cell} (h : Memory.wf m) (key : Nat) (d : List Byte) :
    Memory.readN (Memory.writeN m key d) key d.length = d := by
  refine List.ext_getElem (by simp [Memory.readN]) fun i h1 h2 => ?_
  simp [Memory.readN, Memory.read_writeN h, h2]

theorem homeWriteFrame : Parts.HomeWriteFrame := by
  intro s key d ok
  obtain ⟨hm, hw, hc⟩ := ok
  refine ⟨⟨s.writeHome_wf key d hm, hw, hc⟩, fun i hi => ?_, fun a ha => s.writeHome_read key d ha, rfl, fun v => ?_⟩
  · rw [State.writeHome_mem, Memory.read_writeN hm, if_pos (by omega), Nat.add_sub_cancel_left]
  · have h := Memory.readN_writeN hm key (toLe 8 v)
    rw [length_toLe] at h
    rw [State.home, State.writeHome_mem, h]
    exact leNat_toLe 8 v

/-- Settles O58: the canonical form is unique and reads back what was written, and a write at home is a run of bytes. -/
theorem memoryHolds : Obligations.MemoryHolds := ⟨memoryReadsBack, homeWriteFrame⟩

end Sys2Proof.Machine
end

section
/-! PROOF. Candidates in rank order (R108, R251): `firstK` keeps the best K of a list in any strict order, and `rankBefore`
is one: lexicographic in the class of a number, its value in a common unit, and the index. -/

namespace Sys2Proof.Machine

/-- Induction on a list by its last element, as a fold over it goes. -/
theorem concat_induction {α : Type} {motive : List α → Prop} (nil : motive [])
    (concat : ∀ l x, motive l → motive (l ++ [x])) (l : List α) : motive l := by
  rw [← l.reverse_reverse]
  induction l.reverse with
  | nil => exact nil
  | cons x t ih =>
    rw [List.reverse_cons]
    exact concat _ x ih

/-! ### What `insertBy` and `firstK` keep of a list -/

theorem length_insertBy {α : Type} (before : α → α → Bool) (x : α) (l : List α) :
    (insertBy before x l).length = l.length + 1 := by
  induction l with
  | nil => rfl
  | cons y t ih =>
    rw [insertBy]
    split
    · rfl
    · simp [ih]

theorem mem_insertBy {α : Type} {before : α → α → Bool} {x y : α} {l : List α} :
    y ∈ insertBy before x l ↔ y = x ∨ y ∈ l := by
  induction l with
  | nil => simp [insertBy]
  | cons z t ih =>
    rw [insertBy]
    split
    · simp
    · rw [List.mem_cons, ih, List.mem_cons]
      exact or_left_comm

theorem firstK_concat {α : Type} (before : α → α → Bool) (k : Nat) (l : List α) (x : α) :
    firstK before k (l ++ [x]) = (insertBy before x (firstK before k l)).take k := by
  simp [firstK]

theorem length_firstK {α : Type} (before : α → α → Bool) (k : Nat) (l : List α) : (firstK before k l).length = min k l.length := by
  induction l using concat_induction with
  | nil => simp [firstK]
  | concat l x ih =>
    rw [firstK_concat, List.length_take, length_insertBy, ih, List.length_append, List.length_singleton]
    omega

theorem mem_of_mem_firstK {α : Type} {before : α → α → Bool} {k : Nat} {l : List α} {y : α} (h : y ∈ firstK before k l) : y ∈ l := by
  induction l using concat_induction with
  | nil => exact h
  | concat l x ih =>
    rw [firstK_concat] at h
    rcases mem_insertBy.1 (List.mem_of_mem_take h) with rfl | h
    · simp
    · exact List.mem_append_left _ (ih h)

/-- While the list is no longer than K, `firstK` leaves nothing out. -/
theorem mem_firstK_of_short {α : Type} {before : α → α → Bool} {k : Nat} {l : List α} (hk : l.length ≤ k) {y : α} (h : y ∈ l) :
    y ∈ firstK before k l := by
  induction l using concat_induction with
  | nil => exact absurd h (by simp)
  | concat l x ih =>
    simp only [List.length_append, List.length_singleton] at hk
    rw [firstK_concat, List.take_of_length_le (by rw [length_insertBy, length_firstK]; omega)]
    rcases List.mem_append.1 h with h | h
    · exact mem_insertBy.2 (.inr (ih (by omega) h))
    · exact mem_insertBy.2 (.inl (List.mem_singleton.1 h))

section
variable {α : Type} {before : α → α → Bool}

/-- An insertion keeps a list in order: no later element goes before an earlier one. -/
theorem pairwise_insertBy (asymm : ∀ a b, before a b = true → before b a = false)
    (trans : ∀ a b c, before a b = true → before b c = true → before a c = true) (x : α) {l : List α}
    (h : l.Pairwise fun a b => before b a = false) : (insertBy before x l).Pairwise fun a b => before b a = false := by
  induction l with
  | nil => exact List.pairwise_singleton ..
  | cons y t ih =>
    obtain ⟨hy, ht⟩ := List.pairwise_cons.1 h
    rw [insertBy]
    split
    · have hx : before x y = true := ‹_›
      refine List.pairwise_cons.2 ⟨fun z hz => ?_, h⟩
      rcases List.mem_cons.1 hz with rfl | hz
      · exact asymm _ _ hx
      · refine Bool.eq_false_iff.2 fun hzx => ?_
        exact Bool.false_ne_true ((hy z hz).symm.trans (trans z x y hzx hx))
    · have hx : before x y = false := Bool.eq_false_iff.2 ‹_›
      refine List.pairwise_cons.2 ⟨fun z hz => ?_, ih ht⟩
      rcases mem_insertBy.1 hz with rfl | hz
      · exact hx
      · exact hy z hz

/-- `firstK` answers in order. -/
theorem pairwise_firstK (asymm : ∀ a b, before a b = true → before b a = false)
    (trans : ∀ a b c, before a b = true → before b c = true → before a c = true) (k : Nat) (l : List α) :
    (firstK before k l).Pairwise fun a b => before b a = false := by
  induction l using concat_induction with
  | nil => exact List.Pairwise.nil
  | concat l x ih =>
    rw [firstK_concat]
    exact (pairwise_insertBy asymm trans x ih).sublist (List.take_sublist _ _)

end

/-! ### The order of a rank (R108) -/

/-- The exponent of a finite number; any unit serves the others. -/
def Num.exponent : Num → Int
  | .fin _ _ e => e
  | _ => 0

/-- Numbers in the order of their values, by class: a NaN lies below them all, then the lower infinity, the finite numbers and the upper
infinity. -/
def Num.rankClass : Num → Int
  | .nan => -2
  | .inf s => if s then -1 else 1
  | .fin .. => 0

/-- The value within the class, in units of 2^u. -/
def Num.rankValue (u : Int) : Num → Int
  | .fin s m e => inUnits s m e u
  | _ => 0

theorem Num.rankClass_of_isNan {x : Num} (h : x.isNan = true) : x.rankClass = -2 := by
  match x with
  | .nan => rfl
  | .inf _ | .fin .. => cases h

theorem Num.rankClass_of_number {x : Num} (h : x.isNan = false) : -1 ≤ x.rankClass := by
  match x with
  | .nan => cases h
  | .inf true | .inf false => decide
  | .fin .. => exact (by decide : (-1 : Int) ≤ 0)

/-- A smaller unit multiplies the integer of a finite number. -/
theorem inUnits_smaller (s : Bool) (m : Nat) {e u v : Int} (hu : u ≤ v) (hv : v ≤ e) :
    inUnits s m e u = inUnits s m e v * (2 ^ (v - u).toNat : Nat) := by
  have he : (e - u).toNat = (e - v).toNat + (v - u).toNat := by omega
  cases s <;> simp only [inUnits, he, Nat.shiftLeft_eq, Nat.pow_add, ← Nat.mul_assoc, Int.natCast_mul, Int.neg_mul, if_true, if_false,
    Bool.false_eq_true]

/-- A comparison of finite numbers comes out the same in every unit that serves both. -/
theorem inUnits_lt {s t : Bool} {m n : Nat} {e k u : Int} (he : u ≤ e) (hk : u ≤ k) :
    inUnits s m e (min e k) < inUnits t n k (min e k) ↔ inUnits s m e u < inUnits t n k u := by
  have pos : (0 : Int) < (2 ^ (min e k - u).toNat : Nat) := Int.natCast_pos.2 (Nat.two_pow_pos _)
  rw [inUnits_smaller s m (u := u) (v := min e k) (by omega) (by omega), inUnits_smaller t n (u := u) (v := min e k) (by omega) (by omega),
    Int.mul_lt_mul_right pos]

theorem Num.lt_iff_rank {x y : Num} {u : Int} (hx : x.isNan = false) (hy : y.isNan = false) (ux : u ≤ x.exponent) (uy : u ≤ y.exponent) :
    x.lt y = true ↔ x.rankClass < y.rankClass ∨ (x.rankClass = y.rankClass ∧ x.rankValue u < y.rankValue u) := by
  match x, y with
  | .nan, _ => cases hx
  | _, .nan => cases hy
  | .inf a, .inf b => cases a <;> cases b <;> simp [Num.lt, Num.rankClass, Num.rankValue]
  | .inf a, .fin .. => cases a <;> simp [Num.lt, Num.rankClass]
  | .fin .., .inf b => cases b <;> simp [Num.lt, Num.rankClass]
  | .fin s m e, .fin t n k =>
    refine decide_eq_true_iff.trans ((inUnits_lt (e := e) (k := k) ux uy).trans ?_)
    simp only [Num.rankClass, Num.rankValue, Int.lt_irrefl, false_or, true_and]

theorem Num.eq_of_numbers {x y : Num} (hx : x.isNan = false) (hy : y.isNan = false) : x.eq y = (!x.lt y && !y.lt x) := by
  match x, y with
  | .nan, _ => cases hx
  | _, .nan => cases hy
  | .inf _, .inf _ | .inf _, .fin .. | .fin .., .inf _ | .fin .., .fin .. => rfl

theorem Num.eq_iff_rank {x y : Num} {u : Int} (hx : x.isNan = false) (hy : y.isNan = false) (ux : u ≤ x.exponent) (uy : u ≤ y.exponent) :
    x.eq y = true ↔ x.rankClass = y.rankClass ∧ x.rankValue u = y.rankValue u := by
  rw [Num.eq_of_numbers hx hy, Bool.and_eq_true, Bool.not_eq_true', Bool.not_eq_true', ← Bool.not_eq_true, ← Bool.not_eq_true,
    Num.lt_iff_rank hx hy ux uy, Num.lt_iff_rank hy hx uy ux]
  omega

theorem Num.rankValue_of_isNan {x : Num} (h : x.isNan = true) (u : Int) : x.rankValue u = 0 := by
  match x with
  | .nan => rfl
  | .inf _ | .fin .. => cases h

/-- rank_before (R108) is lexicographic: the class and the value falling, then the index rising. -/
theorem rankBefore_iff {a b : Num} {i j : Nat} {u : Int} (ua : u ≤ a.exponent) (ub : u ≤ b.exponent) :
    rankBefore a i b j = true ↔ b.rankClass < a.rankClass ∨ (b.rankClass = a.rankClass ∧
      (b.rankValue u < a.rankValue u ∨ (b.rankValue u = a.rankValue u ∧ i < j))) := by
  cases ha : a.isNan <;> cases hb : b.isNan <;> simp only [rankBefore, ha, hb]
  · rw [Bool.or_eq_true, Bool.and_eq_true, decide_eq_true_iff, Num.lt_iff_rank hb ha ub ua, Num.eq_iff_rank ha hb ua ub]
    omega
  · have := Num.rankClass_of_number ha
    have := Num.rankClass_of_isNan hb
    simp only [true_iff]
    omega
  · have := Num.rankClass_of_number hb
    have := Num.rankClass_of_isNan ha
    simp only [Bool.false_eq_true, false_iff]
    omega
  · rw [decide_eq_true_iff, Num.rankClass_of_isNan ha, Num.rankClass_of_isNan hb, Num.rankValue_of_isNan ha, Num.rankValue_of_isNan hb]
    omega

theorem rankBefore_asymm {a b : Num} {i j : Nat} (h : rankBefore a i b j = true) : rankBefore b j a i = false := by
  have ua : min a.exponent b.exponent ≤ a.exponent := by omega
  have ub : min a.exponent b.exponent ≤ b.exponent := by omega
  rw [← Bool.not_eq_true, rankBefore_iff ub ua]
  have := (rankBefore_iff ua ub).1 h
  omega

theorem rankBefore_trans {a b c : Num} {i j k : Nat} (h : rankBefore a i b j = true) (h' : rankBefore b j c k = true) :
    rankBefore a i c k = true := by
  have ua : min a.exponent (min b.exponent c.exponent) ≤ a.exponent := by omega
  have ub : min a.exponent (min b.exponent c.exponent) ≤ b.exponent := by omega
  have uc : min a.exponent (min b.exponent c.exponent) ≤ c.exponent := by omega
  have := (rankBefore_iff ua ub).1 h
  have := (rankBefore_iff ub uc).1 h'
  rw [rankBefore_iff ua uc]
  omega

/-- The order of candidates is that of their scores and ids. -/
theorem Cand.before_asymm (g : Geom) (a b : Cand) : Cand.before g a b = true → Cand.before g b a = false := rankBefore_asymm

theorem Cand.before_trans (g : Geom) (a b c : Cand) : Cand.before g a b = true → Cand.before g b c = true → Cand.before g a c = true :=
  rankBefore_trans

/-- What a live entry that reaches THRESH answers to a query; none of another entry (R251). -/
def Query.candOf (q : Query) (st : Store) (e : Entry) : Option Cand :=
  if e.live q.tag && st.geom.passes (st.geom.score q.bytes e.key) (bits q.third 31 0) then
    some { score := st.geom.score q.bytes e.key, store := st.store, ctr := e.ctr, val := e.val, attr := e.attr, life := e.life != 0,
           vec := if bits q.r 49 48 == 2 then e.vec else [] }
  else none

theorem State.cands_eq (s : State) (q : Query) (st : Store) :
    s.cands q st = firstK (Cand.before st.geom) q.km ((s.entries st).filterMap (q.candOf st)) := rfl

/-- Settles O43: `firstK` by the order of the rank, over the entries that are live and reach the threshold. -/
theorem candidatesAreRanked : Obligations.CandidatesAreRanked := by
  intro s q st
  rw [State.cands_eq]
  refine ⟨?_, pairwise_firstK (Cand.before_asymm st.geom) (Cand.before_trans st.geom) _ _, fun c hc => ?_,
    fun hl e he live passes => ?_⟩
  · rw [length_firstK]
    exact Nat.min_le_left ..
  · obtain ⟨e, he, h⟩ := List.mem_filterMap.1 (mem_of_mem_firstK hc)
    simp only [Query.candOf, Option.ite_none_right_eq_some, Bool.and_eq_true, Option.some.injEq] at h
    obtain ⟨⟨live, passes⟩, rfl⟩ := h
    exact ⟨e, he, live, rfl, rfl, rfl, passes⟩
  · rw [length_firstK] at hl
    refine ⟨_, mem_firstK_of_short (by omega) (List.mem_filterMap.2 ⟨e, he, if_pos ?_⟩), rfl⟩
    rw [live, passes]
    rfl

end Sys2Proof.Machine
end

section
/-! PROOF. A tile's bytes hold its codes (R95, R96, R224). A list that is made of chunks of one length gives each chunk back where it
stands: bytes of elements, words of rows, planes of bits. -/

namespace Sys2Proof.Machine

/-! ### Lists made of chunks of one length -/

/-- The chunk of b elements that stands at place i. -/
def chunk {α : Type} (b i : Nat) (d : List α) : List α := (d.drop (b * i)).take b

theorem length_chunk {α : Type} {b i n : Nat} {d : List α} (h : d.length = b * n) (hi : i < n) : (chunk b i d).length = b := by
  have : b * i + b ≤ b * n := by rw [← Nat.mul_succ]; exact Nat.mul_le_mul_left b hi
  rw [chunk, List.length_take, List.length_drop]
  omega

theorem getElem?_of_chunk {α : Type} {b i n : Nat} (d : List α) (hn : n < b) : (chunk b i d)[n]? = d[b * i + n]? := by
  rw [chunk, List.getElem?_take_of_lt hn, List.getElem?_drop]

/-- A chunk of a chunk. -/
theorem chunk_chunk {α : Type} {a b i j : Nat} (d : List α) (h : a * j + a ≤ b) :
    chunk a j (chunk b i d) = (d.drop (b * i + a * j)).take a := by
  rw [chunk, chunk, List.drop_take, List.take_take, List.drop_drop, Nat.min_eq_left (by omega)]

section
variable {α β : Type} {b : Nat} {g : β → List α}

theorem length_flatMap_const {l : List β} (h : ∀ x ∈ l, (g x).length = b) : (l.flatMap g).length = b * l.length := by
  induction l with
  | nil => rfl
  | cons x t ih =>
    rw [List.flatMap_cons, List.length_append, h x (by simp), ih fun y hy => h y (List.mem_cons_of_mem _ hy), List.length_cons,
      Nat.mul_succ, Nat.add_comm]

theorem chunk_flatMap {l : List β} (h : ∀ x ∈ l, (g x).length = b) {i : Nat} {x : β} (hx : l[i]? = some x) :
    chunk b i (l.flatMap g) = g x := by
  induction l generalizing i with
  | nil => cases hx
  | cons y t ih =>
    have hy := h y (by simp)
    cases i with
    | zero =>
      obtain rfl : y = x := by simpa using hx
      simp [chunk, ← hy]
    | succ i =>
      rw [chunk, List.flatMap_cons, Nat.mul_succ, Nat.add_comm, ← List.drop_drop, List.drop_left' hy]
      exact ih (fun z hz => h z (List.mem_cons_of_mem _ hz)) hx

theorem chunk_flatMap_range {g : Nat → List α} {n i : Nat} (h : ∀ i < n, (g i).length = b) (hi : i < n) :
    chunk b i ((List.range n).flatMap g) = g i :=
  chunk_flatMap (fun x hx => h x (List.mem_range.1 hx)) (by simp [hi])

end

theorem flatMap_congr_mem {α β : Type} {f g : β → List α} {l : List β} (h : ∀ x ∈ l, f x = g x) : l.flatMap f = l.flatMap g := by
  rw [List.flatMap_def, List.flatMap_def, List.map_congr_left h]

theorem foldl_congr_mem {α β : Type} {f g : α → β → α} {l : List β} (a : α) (h : ∀ a, ∀ x ∈ l, f a x = g a x) :
    l.foldl f a = l.foldl g a := by
  induction l generalizing a with
  | nil => rfl
  | cons x t ih =>
    rw [List.foldl_cons, List.foldl_cons, h a x (List.mem_cons_self ..)]
    exact ih _ fun a y hy => h a y (List.mem_cons_of_mem _ hy)

/-- A list is made of its chunks. -/
theorem flatMap_chunk {α : Type} {b n : Nat} {d : List α} (h : d.length = b * n) : (List.range n).flatMap (fun i => chunk b i d) = d := by
  induction n generalizing d with
  | zero => exact (List.length_eq_zero_iff.1 h).symm
  | succ n ih =>
    have := ih (d := d.drop b) (by rw [List.length_drop, h, Nat.mul_succ, Nat.add_sub_cancel])
    rw [List.range_succ_eq_map, List.flatMap_cons, List.flatMap_map]
    conv => rhs; rw [← List.take_append_drop b d, ← this]
    simp [chunk, List.drop_drop, Nat.mul_succ, Nat.add_comm b]

/-- Rows of 32 put one after the other and cut again. -/
theorem toRows_flatten {rows : List (List Nat)} (h : rows.length = 32) (hr : ∀ r ∈ rows, r.length = 32) : toRows rows.flatten = rows := by
  refine List.ext_getElem (by simp [toRows, h]) fun i h1 h2 => ?_
  have := chunk_flatMap (g := id) hr (List.getElem?_eq_getElem h2)
  rw [List.flatMap_id] at this
  simpa [toRows, chunk] using this

theorem length_flatten_rows {rows : List (List Nat)} (h : rows.length = 32) (hr : ∀ r ∈ rows, r.length = 32) :
    rows.flatten.length = 1024 := by
  have := length_flatMap_const (g := id) hr
  rwa [List.flatMap_id, h] at this

theorem getElem?_flatten_rows {rows : List (List Nat)} (hr : ∀ r ∈ rows, r.length = 32) {i j v : Nat} {r : List Nat}
    (hi : rows[i]? = some r) (hj : r[j]? = some v) : rows.flatten[32 * i + j]? = some v := by
  have hlt : j < 32 := hr r (List.mem_of_getElem? hi) ▸ (List.getElem?_eq_some_iff.1 hj).1
  have := chunk_flatMap (g := id) hr hi
  rw [List.flatMap_id] at this
  rw [← getElem?_of_chunk _ hlt, this]
  exact hj

/-! ### Element form (R95) -/

theorem getElem?_toLe {n i : Nat} (v : Nat) (h : i < n) : (toLe n v)[i]? = some (BitVec.ofNat 8 (v / 2 ^ (8 * i))) := by
  induction n generalizing i v with
  | zero => cases h
  | succ n ih =>
    cases i with
    | zero => simp [toLe]
    | succ i => rw [toLe, List.getElem?_cons_succ, ih _ (by omega), Nat.div_div_eq_div_mul, Nat.mul_succ, Nat.add_comm, Nat.pow_add]

/-- INT4 codes stand two to a byte, the even one in the low nibble (R84, R95). -/
theorem packNibbles_getElem? {l : List Nat} {e v : Nat} (h : l[e]? = some v) :
    ∃ x, (packNibbles l)[e / 2]? = some x ∧ x.toNat / 16 ^ (e % 2) % 16 = v % 16 := by
  induction l using packNibbles.induct generalizing e with
  | case1 a b t ih =>
    match e with
    | 0 =>
      obtain rfl : a = v := by simpa using h
      exact ⟨_, rfl, by simp⟩
    | 1 =>
      obtain rfl : b = v := by simpa using h
      exact ⟨_, rfl, by simp; omega⟩
    | e + 2 =>
      obtain ⟨x, hx, hv⟩ := ih (e := e) h
      exact ⟨x, by rw [packNibbles, Nat.add_div_right _ (by omega), List.getElem?_cons_succ, hx], by rwa [Nat.add_mod_right]⟩
  | case2 a =>
    obtain ⟨rfl, rfl⟩ : e = 0 ∧ a = v := by
      obtain ⟨he, hv⟩ := List.getElem?_eq_some_iff.1 h
      obtain rfl : e = 0 := by simpa using he
      exact ⟨rfl, hv⟩
    exact ⟨_, rfl, by simp⟩
  | case3 => cases h

theorem Fmt.width_bytes (f : Fmt) (h : f.width ≠ 4) : 8 * (f.width / 8) = f.width := by
  cases f
  case int4 => exact absurd rfl h
  all_goals rfl

theorem Fmt.width_ne_four {f : Fmt} (h : f.isNarrow = false) : f.width ≠ 4 := by
  cases f
  case int8 | int4 | ps8 => cases h
  all_goals decide

theorem pack_bytes {f : Fmt} (h : f.width ≠ 4) (l : List Nat) : pack f l = l.flatMap fun v => toLe (f.width / 8) v := if_neg h

theorem pack_nibbles {f : Fmt} (h : f.width = 4) (l : List Nat) : pack f l = packNibbles l := if_pos h

/-- Codes packed and read again (R84, R95). -/
theorem unpack_pack {f : Fmt} {l : List Nat} (h : ∀ v ∈ l, v < 2 ^ f.width) : unpack f l.length (pack f l) = l := by
  refine List.ext_getElem (by rw [unpack]; split <;> simp) fun e h1 h2 => ?_
  have hv := h _ (List.getElem_mem h2)
  by_cases hw : f.width = 4
  · obtain ⟨x, hx, hxv⟩ := packNibbles_getElem? (List.getElem?_eq_getElem h2)
    rw [hw] at hv
    simp only [unpack, hw, if_true, pack_nibbles, List.getElem_map, List.getElem_range, hx, Option.getD_some, hxv]
    exact Nat.mod_eq_of_lt hv
  · have := chunk_flatMap (fun v _ => length_toLe (f.width / 8) v) (List.getElem?_eq_getElem h2)
    rw [chunk, Nat.mul_comm, ← pack_bytes hw] at this
    simp only [unpack, hw, if_false, List.getElem_map, List.getElem_range, this, leNat_toLe]
    rw [show (256 : Nat) = 2 ^ 8 from rfl, ← Nat.pow_mul, Fmt.width_bytes f hw, Nat.mod_eq_of_lt hv]

/-! ### The swizzled layout (R224) -/

/-- A format that is not narrow has 16, 32 or 64 words to a row, so the exchange stays within the row. -/
theorem Fmt.xor_lt_width {f : Fmt} (h : f.isNarrow = false) (i : Nat) {u : Nat} (hu : u < f.width) :
    u ^^^ (i % Nat.min 16 f.width) < f.width := by
  have hm (n : Nat) : i % 16 < 2 ^ 4 * 2 ^ n := Nat.lt_of_lt_of_le (Nat.mod_lt i (by decide)) (Nat.le_mul_of_pos_right _ (Nat.two_pow_pos n))
  cases f
  case int32 | fp32 => exact Nat.xor_lt_two_pow (n := 5) hu (hm 1)
  case fp64 => exact Nat.xor_lt_two_pow (n := 6) hu (hm 2)
  case bf16 | fp16 => exact Nat.xor_lt_two_pow (n := 4) hu (hm 0)
  case int8 | int4 | ps8 => cases h

/-- The row of a swizzled tile. -/
def swizzleRow (f : Fmt) (i : Nat) (row : List Byte) : List Byte :=
  (List.range f.width).flatMap fun u => chunk 4 (u ^^^ (i % Nat.min 16 f.width)) row

theorem swizzle_eq (f : Fmt) (d : List Byte) : swizzle f d = (List.range 32).flatMap fun i => swizzleRow f i (chunk (4 * f.width) i d) :=
  rfl

section
variable {f : Fmt} (hf : f.isNarrow = false) {row : List Byte} (hrow : row.length = 4 * f.width)
include hf hrow

theorem length_swizzle_word (i : Nat) {u : Nat} (hu : u < f.width) : (chunk 4 (u ^^^ (i % Nat.min 16 f.width)) row).length = 4 :=
  length_chunk hrow (Fmt.xor_lt_width hf i hu)

theorem length_swizzleRow (i : Nat) : (swizzleRow f i row).length = 4 * f.width := by
  have := length_flatMap_const fun u hu => length_swizzle_word hf hrow i (List.mem_range.1 hu)
  rwa [List.length_range] at this

theorem swizzleRow_swizzleRow (i : Nat) : swizzleRow f i (swizzleRow f i row) = row := by
  conv => rhs; rw [← flatMap_chunk hrow]
  refine flatMap_congr_mem fun u hu => ?_
  rw [swizzleRow, chunk_flatMap_range (fun u hu => length_swizzle_word hf hrow i hu) (Fmt.xor_lt_width hf i (List.mem_range.1 hu)),
    Nat.xor_assoc, Nat.xor_self, Nat.xor_zero]

end

/-- The swizzle is its own inverse (R224). -/
theorem swizzle_swizzle {f : Fmt} (hf : f.isNarrow = false) {d : List Byte} (hd : d.length = 4 * f.width * 32) :
    swizzle f (swizzle f d) = d := by
  conv => rhs; rw [← flatMap_chunk hd]
  rw [swizzle_eq, swizzle_eq]
  refine flatMap_congr_mem fun i hi => ?_
  rw [chunk_flatMap_range (fun i hi => length_swizzleRow hf (length_chunk hd hi) i) (List.mem_range.1 hi),
    swizzleRow_swizzleRow hf (length_chunk hd (List.mem_range.1 hi))]

/-! ### Plane form (R96) -/

/-- The bit of a code that stands in plane p, the most significant one first (R96). -/
def planeBit (f : Fmt) (p j : Nat) (row : List Nat) : Nat := (row[j]?).getD 0 / 2 ^ (f.width - 1 - p) % 2

/-- The number of a list of bits, the least significant one first. -/
def bitsNat : List Nat → Nat
  | [] => 0
  | b :: t => b + 2 * bitsNat t

theorem bitsNat_concat (l : List Nat) (b : Nat) : bitsNat (l ++ [b]) = bitsNat l + b * 2 ^ l.length := by
  induction l with
  | nil => simp [bitsNat]
  | cons c t ih =>
    rw [List.cons_append, bitsNat, bitsNat, ih, List.length_cons, Nat.pow_succ, ← Nat.mul_assoc, Nat.mul_add, Nat.mul_comm _ 2,
      Nat.add_assoc]

theorem bitsNat_lt {l : List Nat} (h : ∀ b ∈ l, b < 2) : bitsNat l < 2 ^ l.length := by
  induction l with
  | nil => exact Nat.one_pos
  | cons b t ih =>
    have hb := h b (List.mem_cons_self ..)
    have ht := ih fun c hc => h c (List.mem_cons_of_mem _ hc)
    rw [bitsNat, List.length_cons, Nat.pow_succ]
    omega

theorem bitsNat_bit {l : List Nat} (h : ∀ b ∈ l, b < 2) {i b : Nat} (hi : l[i]? = some b) : bitsNat l / 2 ^ i % 2 = b := by
  induction l generalizing i with
  | nil => cases hi
  | cons c t ih =>
    have hc := h c (List.mem_cons_self ..)
    cases i with
    | zero =>
      obtain rfl : c = b := Option.some.inj hi
      rw [bitsNat, Nat.pow_zero, Nat.div_one]
      omega
    | succ i =>
      have half : (c + 2 * bitsNat t) / 2 = bitsNat t := by omega
      rw [bitsNat, Nat.pow_succ', ← Nat.div_div_eq_div_mul, half]
      exact ih (fun d hd => h d (List.mem_cons_of_mem _ hd)) hi

/-- The 32-bit word of a plane and a column: bit i is of row i. -/
def planeWord (f : Fmt) (rows : List (List Nat)) (p j : Nat) : Nat := bitsNat (rows.map (planeBit f p j))

theorem foldl_zip_range (g : List Nat → Nat) (rows : List (List Nat)) :
    ((List.range rows.length).zip rows).foldl (fun v r => v + g r.2 * 2 ^ r.1) 0 = bitsNat (rows.map g) := by
  induction rows using concat_induction with
  | nil => rfl
  | concat rows r ih =>
    rw [List.length_append, List.length_singleton, List.range_succ, List.zip_append List.length_range, List.foldl_append, ih,
      List.map_append, List.map_singleton, bitsNat_concat, List.length_map]
    rfl

theorem planeBit_lt {f : Fmt} {p j : Nat} {rows : List (List Nat)} : ∀ b ∈ rows.map (planeBit f p j), b < 2 := by
  intro b hb
  obtain ⟨r, -, rfl⟩ := List.mem_map.1 hb
  exact Nat.mod_lt _ (by omega)

theorem planeWord_lt (f : Fmt) (rows : List (List Nat)) (p j : Nat) : planeWord f rows p j < 2 ^ rows.length := by
  have := bitsNat_lt (planeBit_lt (f := f) (p := p) (j := j) (rows := rows))
  rwa [List.length_map] at this

theorem planeWord_bit {f : Fmt} {rows : List (List Nat)} {i : Nat} {r : List Nat} (p j : Nat) (h : rows[i]? = some r) :
    planeWord f rows p j / 2 ^ i % 2 = planeBit f p j r :=
  bitsNat_bit planeBit_lt (by rw [List.getElem?_map, h, Option.map_some])

theorem elemsToPlanes_eq (f : Fmt) {rows : List (List Nat)} (h : rows.length = 32) :
    elemsToPlanes f rows = (List.range f.width).flatMap fun p => (List.range 32).flatMap fun j => toLe 4 (planeWord f rows p j) := by
  have (p j : Nat) := foldl_zip_range (planeBit f p j) rows
  simp only [h] at this
  simp only [elemsToPlanes, planeWord, ← this]
  rfl

theorem word_elemsToPlanes (f : Fmt) {rows : List (List Nat)} (h : rows.length = 32) {p j : Nat} (hp : p < f.width) (hj : j < 32) :
    leNat (((elemsToPlanes f rows).drop (128 * p + 4 * j)).take 4) = planeWord f rows p j := by
  rw [← chunk_chunk (b := 128) _ (by omega), elemsToPlanes_eq f h, chunk_flatMap_range (fun p _ => ?_) hp,
    chunk_flatMap_range (fun j _ => length_toLe 4 _) hj, leNat_toLe]
  · have := planeWord_lt f rows p j
    rw [h] at this
    exact Nat.mod_eq_of_lt this
  · rw [length_flatMap_const fun j _ => length_toLe 4 _, List.length_range]

/-- The leading n bits of a code of w bits, put together from the most significant one on. -/
theorem foldl_bits (v : Nat) {w n : Nat} (h : n ≤ w) :
    (List.range n).foldl (fun a p => 2 * a + v / 2 ^ (w - 1 - p) % 2) 0 = v / 2 ^ (w - n) % 2 ^ n := by
  induction n with
  | zero => simp [Nat.mod_one]
  | succ n ih =>
    have e : w - n = w - 1 - n + 1 := by omega
    have e' : w - (n + 1) = w - 1 - n := by omega
    rw [List.range_succ, List.foldl_append, ih (by omega), List.foldl_cons, List.foldl_nil, e, e',
      Nat.pow_succ, ← Nat.div_div_eq_div_mul, Nat.pow_succ', Nat.mod_mul, Nat.add_comm]

/-- A code read from the planes: its bits, the most significant one first. -/
theorem planesToElems_elemsToPlanes (f : Fmt) {rows : List (List Nat)} (h : rows.length = 32) :
    planesToElems f (elemsToPlanes f rows) = (List.range 32).flatMap fun i => (List.range 32).map fun j =>
      (List.range f.width).foldl (fun v p => 2 * v + planeWord f rows p j / 2 ^ i % 2) 0 := by
  refine flatMap_congr_mem fun i _ => List.map_congr_left fun j hj => ?_
  have hj := List.mem_range.1 hj
  rw [List.foldl_map]
  refine foldl_congr_mem 0 fun v p hp => ?_
  simp only [List.getElem?_map, List.getElem?_range hj, Option.map_some, Option.getD_some, word_elemsToPlanes f h (List.mem_range.1 hp) hj]

/-- A code is the number of its bits in the planes (R96). -/
theorem foldl_planeWord {f : Fmt} {rows : List (List Nat)} {i j v : Nat} {r : List Nat} (hi : rows[i]? = some r) (hj : r[j]? = some v)
    (hv : v < 2 ^ f.width) : (List.range f.width).foldl (fun v p => 2 * v + planeWord f rows p j / 2 ^ i % 2) 0 = v := by
  simp only [planeWord_bit _ j hi, planeBit, hj, Option.getD_some]
  rw [foldl_bits _ (Nat.le_refl _), Nat.sub_self, Nat.pow_zero, Nat.div_one, Nat.mod_eq_of_lt hv]

/-! ### The forms of a tile -/

section
variable {f : Fmt} {rows : List (List Nat)} (h : rows.length = 32) (hr : ∀ r ∈ rows, r.length = 32 ∧ ∀ v ∈ r, v < 2 ^ f.width)
include hr

theorem codes_lt : ∀ v ∈ rows.flatten, v < 2 ^ f.width := by
  intro v hv
  obtain ⟨r, hmem, hv⟩ := List.mem_flatten.1 hv
  exact (hr r hmem).2 v hv

/-- The byte of an element that takes whole bytes (R95). -/
theorem pack_rows_byte (hw : 8 ≤ f.width) {i j v n : Nat} {r : List Nat} (hi : rows[i]? = some r) (hj : r[j]? = some v)
    (hn : n < f.width / 8) :
    (pack f rows.flatten)[(32 * i + j) * f.width / 8 + n]? = some (BitVec.ofNat 8 (v / 2 ^ (8 * n))) := by
  have hw' : f.width ≠ 4 := by omega
  have place : (32 * i + j) * f.width / 8 = f.width / 8 * (32 * i + j) := by
    conv => lhs; rw [← Fmt.width_bytes f hw', Nat.mul_left_comm, Nat.mul_div_cancel_left _ (by omega), Nat.mul_comm]
  rw [place, ← getElem?_of_chunk _ hn, pack_bytes hw',
    chunk_flatMap (fun v _ => length_toLe _ v) (getElem?_flatten_rows (fun r hmem => (hr r hmem).1) hi hj), getElem?_toLe v hn]

/-- The byte and the nibble of an INT4 element (R95). -/
theorem pack_rows_nibble (hw : f.width = 4) {i j v : Nat} {r : List Nat} (hi : rows[i]? = some r) (hj : r[j]? = some v) :
    ∃ x, (pack f rows.flatten)[16 * i + j / 2]? = some x ∧ x.toNat / 16 ^ (j % 2) % 16 = v := by
  have he := getElem?_flatten_rows (fun r hmem => (hr r hmem).1) hi hj
  obtain ⟨x, hx, hv⟩ := packNibbles_getElem? he
  have lt : v < 16 := by simpa [hw] using codes_lt hr v (List.mem_of_getElem? he)
  rw [show (32 * i + j) / 2 = 16 * i + j / 2 by omega] at hx
  rw [show (32 * i + j) % 2 = j % 2 by omega, Nat.mod_eq_of_lt lt] at hv
  exact ⟨x, by rwa [pack_nibbles hw], hv⟩

include h

theorem readPlanes_writePlanes : toRows (planesToElems f (elemsToPlanes f rows)) = rows := by
  rw [planesToElems_elemsToPlanes f h]
  refine List.ext_getElem (by simp [toRows, h]) fun i h1 h2 => ?_
  obtain ⟨hlen, hv⟩ := hr _ (List.getElem_mem h2)
  have row := chunk_flatMap_range (i := i) (g := fun i => (List.range 32).map fun j =>
    (List.range f.width).foldl (fun v p => 2 * v + planeWord f rows p j / 2 ^ i % 2) 0) (b := 32) (by simp) (h ▸ h2)
  simp only [toRows, List.getElem_map, List.getElem_range]
  refine Eq.trans row (List.ext_getElem (by simp [hlen]) fun j h3 h4 => ?_)
  rw [List.getElem_map, List.getElem_range]
  exact foldl_planeWord (List.getElem?_eq_getElem h2) (List.getElem?_eq_getElem h4) (hv _ (List.getElem_mem h4))

theorem unpack_pack_rows : toRows (unpack f 1024 (pack f rows.flatten)) = rows := by
  have len := fun r hmem => (hr r hmem).1
  rw [← length_flatten_rows h len, unpack_pack (codes_lt hr), toRows_flatten h len]

theorem length_pack_rows (hf : f.isNarrow = false) : (pack f rows.flatten).length = 4 * f.width * 32 := by
  have hw := Fmt.width_ne_four hf
  have := Fmt.width_bytes f hw
  rw [pack_bytes hw, length_flatMap_const fun v _ => length_toLe _ v, length_flatten_rows h fun r hmem => (hr r hmem).1]
  omega

theorem readTile_writeTile (pl : Bool) (aux : Word32) : readTile f pl aux (writeTile f pl aux rows) = rows := by
  cases pl
  · cases hs : swizzled f aux
    · simpa [readTile, writeTile, hs] using unpack_pack_rows h hr
    · have hf : f.isNarrow = false := by
        simp only [swizzled, Bool.and_eq_true, Bool.not_eq_true'] at hs
        exact hs.1
      simpa [readTile, writeTile, hs, swizzle_swizzle hf (length_pack_rows h hr hf)] using unpack_pack_rows h hr
  · exact readPlanes_writePlanes h hr

end

/-- Settles O29: codes packed and unpacked, the swizzle twice, and the bits of each plane; chunks of one length say where a byte is. -/
theorem tileFormsRoundTrip : Obligations.TileFormsRoundTrip := by
  intro f pl aux rows h hr
  refine ⟨readTile_writeTile h hr pl aux, fun straight i j r v hi hj => ?_⟩
  have bytes : writeTile f false aux rows = pack f rows.flatten := by simp [writeTile, straight]
  rw [bytes]
  exact ⟨fun hw n hn => pack_rows_byte hr hw hi hj hn, fun hw => pack_rows_nibble hr hw hi hj⟩

end Sys2Proof.Machine
end

section
/-! PROOF. The vector instructions that map or fold their elements (R215, R217, R219): what `vec2`, `vec1` and `vred` complete
with, said once for each shape. -/

namespace Sys2Proof.Machine

/-- With its format accepted and its runs served, a vector instruction has its effect (R204, R427). -/
theorem vecEff_served {c : Ctx} {s : State} {ill fmtBad : Bool} {runs : List Run} (e : Unit → Eff) (hi : ill = false)
    (hf : fmtBad = false) (h : RunsServed c s runs) : vecEff c s ill fmtBad runs e = e () := by
  have bad : runs.any (runBad c s) = false := List.any_eq_false.2 fun r hr => by simp [(h r hr).1]
  have ready : runs.all (runReady c s) = true := List.all_eq_true.2 fun r hr => (h r hr).2.1
  have poison : (runs.any fun r => !r.prod && runPoisoned c s r) = false := List.any_eq_false.2 fun r hr => by
    obtain ⟨-, -, clean⟩ := h r hr
    revert clean
    cases r.prod <;> cases runPoisoned c s r <;> decide
  simp [vecEff, hi, hf, bad, ready, poison]

section
variable {i : Instr} {p : Pred} {a b : Target} {ok ok' : Fmt → Bool}

theorem vecMaps2_of_vec2 {g g' : Fmt → Nat → Nat → Nat} (he : ∀ s, exec i s = vec2 p a b ok g s) (hg : ∀ f u v, g f u v = g' f u v) :
    VecMaps2 i p a b ok g' := by
  obtain rfl : g = g' := funext fun f => funext fun u => funext fun v => hg f u v
  rintro s c x y n h rfl rfl rfl hlow hctl hfmt hok served
  refine completes_of_fire (he s) h nofun ?_
  rw [vecEff_served _ (by simp [hlow, hctl]) (by simp [hok, ← hfmt]) served]
  have lenmis : decide ((vref (opVal c.o.l)).len ≠ (vref (opVal c.o.r)).len) = ((vref (opVal c.o.l)).len != (vref (opVal c.o.r)).len) :=
    Bool.eq_iff_iff.2 (by simp)
  rw [lenmis]
  rfl

theorem vecMaps1_of_vec1 {g g' : Fmt → Nat → Nat} (he : ∀ s, exec i s = vec1 p a b ok g s) (hg : ∀ f u, g f u = g' f u) :
    VecMaps1 i p a b ok g' := by
  obtain rfl : g = g' := funext fun f => funext fun u => hg f u
  rintro s c x h rfl hlow hok served
  refine completes_of_fire (he s) h nofun ?_
  rw [vecEff_served _ hlow (by simp [hok]) served]
  rfl

theorem vecFolds_of_vred {g : Fmt → List Nat → Nat} {g' : Fmt → List Nat → Word} (he : ∀ s, exec i s = vred p a b g s)
    (hg : ∀ f l, placeElem f (g f l) = g' f l) : VecFolds i p a b g' := by
  rintro s c x h rfl hlow hok served
  refine completes_of_fire (he s) h nofun ?_
  rw [vecEff_served _ hlow (by simp [hok]) served, hg]
  rfl

end

theorem imin_eq_min (x y : Int) : imin x y = min x y := by
  rw [imin, Int.min_def]
  split <;> split <;> omega

theorem imax_eq_max (x y : Int) : imax x y = max x y := by
  rw [imax, Int.max_def]
  split <;> split <;> omega

theorem vectorPairsComplete : Parts.VectorPairsComplete := fun p a b =>
  ⟨vecMaps2_of_vec2 (fun s => (rfl : _ = execVadd p a b s)) fun _ _ _ => rfl,
    vecMaps2_of_vec2 (fun s => (rfl : _ = execVsub p a b s)) fun _ _ _ => rfl,
    vecMaps2_of_vec2 (fun s => (rfl : _ = execVmul p a b s)) fun _ _ _ => rfl,
    vecMaps2_of_vec2 (fun s => (rfl : _ = execVmin p a b s)) fun _ _ _ => by rw [elem2, imin_eq_min],
    vecMaps2_of_vec2 (fun s => (rfl : _ = execVmax p a b s)) fun _ _ _ => by rw [elem2, imax_eq_max],
    vecMaps2_of_vec2 (fun s => (rfl : _ = execVand p a b s)) fun _ _ _ => rfl,
    vecMaps2_of_vec2 (fun s => (rfl : _ = execVor p a b s)) fun _ _ _ => rfl,
    vecMaps2_of_vec2 (fun s => (rfl : _ = execVxor p a b s)) fun _ _ _ => rfl,
    vecMaps2_of_vec2 (fun s => (rfl : _ = execVshl p a b s)) fun _ _ _ => by rw [Nat.shiftLeft_eq]⟩

theorem vectorSingleMapsComplete : Parts.VectorSingleMapsComplete := fun p a b =>
  ⟨vecMaps1_of_vec1 (fun s => (rfl : _ = execVabs p a b s)) fun _ _ => rfl,
    vecMaps1_of_vec1 (fun s => (rfl : _ = execVneg p a b s)) fun _ _ => rfl,
    vecMaps1_of_vec1 (fun s => (rfl : _ = execVexp2 p a b s)) fun _ _ => rfl,
    vecMaps1_of_vec1 (fun s => (rfl : _ = execVrcp p a b s)) fun _ _ => rfl,
    vecMaps1_of_vec1 (fun s => (rfl : _ = execVrsq p a b s)) fun _ _ => rfl⟩

theorem vectorFoldsComplete : Parts.VectorFoldsComplete := fun p a b =>
  ⟨vecFolds_of_vred (fun s => (rfl : _ = execVredsum p a b s)) fun _ _ => by rw [List.sum_eq_foldl],
    vecFolds_of_vred (fun s => (rfl : _ = execVredmax p a b s)) fun _ _ => by simp only [imax_eq_max]; rfl,
    vecFolds_of_vred (fun s => (rfl : _ = execVredmin p a b s)) fun _ _ => by simp only [imin_eq_min]; rfl⟩

/-- Settles O25: each instruction is `vec2`, `vec1` or `vred` of its operation on elements. -/
theorem vectorMapsComplete : Obligations.VectorMapsComplete :=
  ⟨vectorPairsComplete, vectorSingleMapsComplete, vectorFoldsComplete⟩

end Sys2Proof.Machine
end

section
/-! PROOF. A query granted, answered, merged and decided (R250 to R253, R372, R374). -/

namespace Sys2Proof.Machine

/-- A module that is not dark acts on its events (R410). -/
theorem State.powered_lit {s : State} (h : s.dark = false) (r : State) : s.powered r = .next r := by
  simp [State.powered, h]

theorem State.modQuery_some {s : State} {q : Nat} {x : Query} (f : Query → Query) (h : s.queries.find q = some x) :
    s.modQuery q f = { s with queries := s.queries.put q (f x) } := by
  simp [State.modQuery, h]

/-- A fault raised while the boundary instruction of the block has not been performed is taken (R44). -/
theorem applyEff_fault {c : Ctx} (a b : Target) (res : Resolve) {info : FaultInfo} (s : State) (h : c.b.performed = false) :
    applyEff c a b res (.fault info) s = s.takeFault c.k ⟨info, c.b.addr, c.j⟩ := by
  simp [applyEff, h]

theorem domainGrants : Parts.DomainGrants := by
  intro s q x lit found ungranted first
  have earlier : (s.queries.any fun y => y.1 < q && y.2.strand == x.strand) = false :=
    List.any_eq_false.2 fun y hy => by simpa using first y hy
  have grant : exec (.domainGrant q) s = execDomainGrant q s := rfl
  rw [grant, execDomainGrant, State.powered_lit lit]
  simp only [found, ungranted, earlier, Bool.false_or, Bool.false_eq_true, if_false]
  refine ⟨fun held => by rw [if_pos held], fun free => ?_⟩
  simp only [free, Bool.false_eq_true, if_false]
  refine ⟨fun d mem hd ok hm => ?_, fun hd keep => ?_, fun d f c hd bad hc np => ?_⟩
  · subst hm
    simp only [hd, ok]
    rfl
  · simp only [hd, keep, Bool.false_eq_true, if_false, State.modQuery_some _ found]
  · simp only [hd, bad, hc, applyEff_fault _ _ _ _ np]

/-- A MATCH is granted at a store at once: it reserves nothing (R251). -/
theorem State.grantAt_match {s : State} {st : Store} {key : ResvKey} {a : Asked} (h : a.consume = false) :
    s.grantAt st key a = some ((s.scrub st).candsOf a st, (s.scrub st).addPerf st.pav 7 1) := by
  simp [State.grantAt, h]

/-- A query waits at no store that is not blocked and whose task is not saved (R372, R376). -/
theorem State.queryWaits_free {s : State} {st : Store} (key : ResvKey) (hb : st.blocked = none) (hs : s.storeSaved st = false) :
    s.queryWaits st key = false := by
  simp [State.queryWaits, hb, hs]

theorem storeAnswersQuery : Parts.StoreAnswersQuery := by
  constructor
  · rintro s q store x st _ lit found isMatch member new hst here free awake whole rfl
    have grant : exec (.storeQueryGrant (.own q) store) s = s.powered (s.ownQuery q store) := rfl
    have asked : (!x.stores.contains store || x.answers.any fun a => a.1 == store) = false := by
      simpa [member] using new
    rw [grant, State.powered_lit lit, State.ownQuery]
    simp only [found, asked, hst, here, State.queryWaits_free _ free awake, whole, State.grantAt_match (a := x.asked) isMatch, ne_eq,
      not_true_eq_false, Bool.false_eq_true, if_false]
    rfl
  · rintro s m store st _ lit hst isMatch free awake whole rfl
    have grant : exec (.storeQueryGrant (.peer m) store) s = s.powered (s.peerQuery m store) := rfl
    rw [grant, State.powered_lit lit, State.peerQuery]
    simp only [hst, State.queryWaits_free _ free awake, whole, State.grantAt_match (a := peerAsked m) isMatch, Bool.false_eq_true, if_false]

/-- A result whose run is usable and free is delivered, with the count and the best score, and whether there is a winner (R252). -/
theorem deliverQuery_free {c : Ctx} {s : State} {x : Query} {w : List Cand} {d : List Byte} (hd : d = resultBytes x w)
    (ok : runBad c s ⟨bits x.r 47 43, bits x.r 42 28, d.length, d.length, true⟩ = false)
    (free : runReady c s ⟨bits x.r 47 43, bits x.r 42 28, d.length, d.length, true⟩ = true) :
    deliverQuery c s x w = .ok (writeRun c s (bits x.r 47 43) (bits x.r 42 28) d)
      (some (.value (BitVec.ofNat 64 (w.length * 2 ^ 32 + ((w[0]?).map (·.score)).getD 0))))
      (some (.value (if w = [] then 0 else 1))) := by
  subst hd
  have winner : boolWord (!w.isEmpty) = if w = [] then 0 else 1 := by cases w <;> rfl
  simp only [deliverQuery, ok, free, winner, Bool.not_true, Bool.false_eq_true, if_false]
  rfl

theorem matchMerges : Parts.MatchMerges := by
  rintro s q x c d p1 p2 lit found granted unmerged answered isMatch hc hi hd ok free _ t1 b1 b2 rfl ht hb hf
  have merge : exec (.matchMerge q) s = execMatchMerge q s := rfl
  obtain ⟨-, hj, -⟩ := State.ctxAt_some hc
  have targets : queryTargets c.b x.slot = (p1, p2) := by simp [queryTargets, hi]
  rw [merge, execMatchMerge, State.powered_lit lit]
  simp only [found, granted, unmerged, Nat.not_lt.2 answered, hc, deliverQuery_free hd ok free, targets]
  rw [applyEff_ok noResolve s ht hb hf]
  simp [State.afterMerge, isMatch]

/-- Where every entry can be read, no decision is lost (R425). -/
theorem State.decisionLost_whole {s : State} {st : Store} (key : ResvKey) (h : s.entriesLost st = false) :
    s.decisionLost st key = false := by
  simp [State.decisionLost, h]

/-- The store that is found for a task's domain has their numbers (R369). -/
theorem State.store_some {s : State} {task dom store : Nat} {st : Store} (h : s.store task dom store = some st) (f : Store → Store)
    (s' : State) : s'.setStore st f = s'.modStore task dom store f := by
  have h := List.find?_some h
  simp only [Store.isOf, Bool.and_eq_true, beq_iff_eq] at h
  obtain ⟨⟨⟨ho, ht⟩, hd⟩, hs⟩ := h
  rw [State.setStore, State.modStore, ho, ht, hd, hs]

theorem Query.contains_winnersAt (x : Query) (store ctr : Nat) :
    (x.winnersAt store).contains ctr = x.winners.any fun w => w.store == store && w.life && w.ctr == ctr := by
  rw [Bool.eq_iff_iff]
  simp [Query.winnersAt, and_assoc]

theorem storeDecides : Parts.StoreDecides := by
  constructor
  · rintro s q store x st s1 lit found member hst here whole hs1
    have decisions : exec (.storeDecisions (.own q) store) s = s.powered (s.ownDecisions q store) := rfl
    have decided : s.decideAt st (.own q) (x.winnersAt store).contains = s1 := by
      simp only [hs1, State.decideAt, Query.contains_winnersAt, State.store_some hst]
    have own : s.ownDecisions q store = if x.decide.length ≤ 1 then { s1 with queries := s1.queries.drop q }
        else s1.modQuery q fun x => { x with decide := x.decide.filter (· != store) } := by
      simp [State.ownDecisions, found, member, hst, here, State.decisionLost_whole _ whole, decided]
    rw [decisions, State.powered_lit lit, own]
    exact ⟨fun last => by rw [if_pos last], fun more => by rw [if_neg (by omega)]⟩
  · rintro s m store st lit hst whole
    have decisions : exec (.storeDecisions (.peer m) store) s = s.powered (s.peerDecisions m store) := rfl
    rw [decisions, State.powered_lit lit, State.peerDecisions]
    simp only [hst, State.decisionLost_whole _ whole, Bool.false_eq_true, if_false]

/-- Settles O44: each event of a query by the branch that its premises choose. -/
theorem queriesAreServed : Obligations.QueriesAreServed := ⟨domainGrants, storeAnswersQuery, matchMerges, storeDecides⟩

end Sys2Proof.Machine
end

section
/-! PROOF. The fields of a word, and what its load checks come to, format by format (R117 to R126, R131). -/

namespace Sys2Proof

open BitVec (extractLsb'_append_eq_of_le extractLsb'_append_eq_left extractLsb'_append_eq_right
  extractLsb'_append_extractLsb'_eq_extractLsb' extractLsb'_eq_self)

/-! ### Fields of the words laid out (R117) -/

section
variable (op xop : BitVec 6) (p : BitVec 2) (imm : BitVec 15) (a b : BitVec 9) (r : BitVec 7) (off : BitVec 24)

@[simp] theorem fOp_encT2 : fOp (encT2 op p xop b a) = op := by
  show BitVec.extractLsb' 26 6 (op ++ p ++ xop ++ b ++ a) = op
  rw [extractLsb'_append_eq_of_le (by decide), extractLsb'_append_eq_of_le (by decide), extractLsb'_append_eq_of_le (by decide),
    extractLsb'_append_eq_left]
@[simp] theorem fPr_encT2 : fPr (encT2 op p xop b a) = p := by
  show BitVec.extractLsb' 24 2 (op ++ p ++ xop ++ b ++ a) = p
  rw [extractLsb'_append_eq_of_le (by decide), extractLsb'_append_eq_of_le (by decide), extractLsb'_append_eq_of_le (by decide),
    extractLsb'_append_eq_right]
@[simp] theorem fXop_encT2 : fXop (encT2 op p xop b a) = xop := by
  show BitVec.extractLsb' 18 6 (op ++ p ++ xop ++ b ++ a) = xop
  rw [extractLsb'_append_eq_of_le (by decide), extractLsb'_append_eq_of_le (by decide), extractLsb'_append_eq_right]
@[simp] theorem fTb_encT2 : fTb (encT2 op p xop b a) = b := by
  show BitVec.extractLsb' 9 9 (op ++ p ++ xop ++ b ++ a) = b
  rw [extractLsb'_append_eq_of_le (by decide), extractLsb'_append_eq_right]
@[simp] theorem fTa_encT2 : fTa (encT2 op p xop b a) = a := by
  show BitVec.extractLsb' 0 9 (op ++ p ++ xop ++ b ++ a) = a
  rw [extractLsb'_append_eq_right]

@[simp] theorem fOp_encT1I : fOp (encT1I op p imm a) = op := by
  show BitVec.extractLsb' 26 6 (op ++ p ++ imm ++ a) = op
  rw [extractLsb'_append_eq_of_le (by decide), extractLsb'_append_eq_of_le (by decide), extractLsb'_append_eq_left]
@[simp] theorem fPr_encT1I : fPr (encT1I op p imm a) = p := by
  show BitVec.extractLsb' 24 2 (op ++ p ++ imm ++ a) = p
  rw [extractLsb'_append_eq_of_le (by decide), extractLsb'_append_eq_of_le (by decide), extractLsb'_append_eq_right]
@[simp] theorem fImm15_encT1I : fImm15 (encT1I op p imm a) = imm := by
  show BitVec.extractLsb' 9 15 (op ++ p ++ imm ++ a) = imm
  rw [extractLsb'_append_eq_of_le (by decide), extractLsb'_append_eq_right]
@[simp] theorem fTa_encT1I : fTa (encT1I op p imm a) = a := by
  show BitVec.extractLsb' 0 9 (op ++ p ++ imm ++ a) = a
  rw [extractLsb'_append_eq_right]

@[simp] theorem fOp_encRD : fOp (encRD op r b a) = op := by
  show BitVec.extractLsb' 26 6 (op ++ (0 : BitVec 1) ++ r ++ b ++ a) = op
  rw [extractLsb'_append_eq_of_le (by decide), extractLsb'_append_eq_of_le (by decide), extractLsb'_append_eq_of_le (by decide),
    extractLsb'_append_eq_left]
@[simp] theorem fRdZero_encRD : fRdZero (encRD op r b a) = 0 := by
  show BitVec.extractLsb' 25 1 (op ++ (0 : BitVec 1) ++ r ++ b ++ a) = 0
  rw [extractLsb'_append_eq_of_le (by decide), extractLsb'_append_eq_of_le (by decide), extractLsb'_append_eq_of_le (by decide),
    extractLsb'_append_eq_right]
@[simp] theorem fReg_encRD : fReg (encRD op r b a) = r := by
  show BitVec.extractLsb' 18 7 (op ++ (0 : BitVec 1) ++ r ++ b ++ a) = r
  rw [extractLsb'_append_eq_of_le (by decide), extractLsb'_append_eq_of_le (by decide), extractLsb'_append_eq_right]
@[simp] theorem fTb_encRD : fTb (encRD op r b a) = b := by
  show BitVec.extractLsb' 9 9 (op ++ (0 : BitVec 1) ++ r ++ b ++ a) = b
  rw [extractLsb'_append_eq_of_le (by decide), extractLsb'_append_eq_right]
@[simp] theorem fTa_encRD : fTa (encRD op r b a) = a := by
  show BitVec.extractLsb' 0 9 (op ++ (0 : BitVec 1) ++ r ++ b ++ a) = a
  rw [extractLsb'_append_eq_right]

@[simp] theorem fOp_encB : fOp (encB p off) = 0x07 := by
  show BitVec.extractLsb' 26 6 ((0x07 : BitVec 6) ++ p ++ off) = 0x07
  rw [extractLsb'_append_eq_of_le (by decide), extractLsb'_append_eq_left]
@[simp] theorem fPr_encB : fPr (encB p off) = p := by
  show BitVec.extractLsb' 24 2 ((0x07 : BitVec 6) ++ p ++ off) = p
  rw [extractLsb'_append_eq_of_le (by decide), extractLsb'_append_eq_right]
@[simp] theorem fOff24_encB : fOff24 (encB p off) = off := by
  show BitVec.extractLsb' 0 24 ((0x07 : BitVec 6) ++ p ++ off) = off
  rw [extractLsb'_append_eq_right]

/-- An M word has its LSID and its offset where a T2 word has XOP and TB (R117). -/
theorem encM_eq_encT2 : encM op p xop b a = encT2 op p xop b a := rfl

end

/-- A word is its fields laid out again, in each format. -/
theorem encT2_fields (w : Word32) : encT2 (fOp w) (fPr w) (fXop w) (fTb w) (fTa w) = w := by
  simp only [encT2, fOp, fPr, fXop, fTb, fTa, extractLsb'_append_extractLsb'_eq_extractLsb']
  exact extractLsb'_eq_self

theorem encT1I_fields (w : Word32) : encT1I (fOp w) (fPr w) (fImm15 w) (fTa w) = w := by
  simp only [encT1I, fOp, fPr, fImm15, fTa, extractLsb'_append_extractLsb'_eq_extractLsb']
  exact extractLsb'_eq_self

theorem encRD_fields {w : Word32} (h : fRdZero w = 0) : encRD (fOp w) (fReg w) (fTb w) (fTa w) = w := by
  rw [encRD, ← h]
  simp only [fOp, fRdZero, fReg, fTb, fTa, extractLsb'_append_extractLsb'_eq_extractLsb']
  exact extractLsb'_eq_self

theorem encB_fields {w : Word32} (h : fOp w = 0x07) : encB (fPr w) (fOff24 w) = w := by
  rw [encB, ← h]
  simp only [fOp, fPr, fOff24, extractLsb'_append_extractLsb'_eq_extractLsb']
  exact extractLsb'_eq_self

/-! ### Predicates and targets (R118, R119) -/

@[simp] theorem Pred.parse_bits (p : Pred) : Pred.parse p.bits = some p := by cases p <;> rfl

theorem Pred.bits_of_parse {v : BitVec 2} {p : Pred} (h : Pred.parse v = some p) : p.bits = v := by
  grind [Pred.parse, Pred.bits]

@[simp] theorem Pred.bits_ne_three (p : Pred) : p.bits ≠ 3#2 := by cases p <;> decide

@[simp] theorem Pred.bits_eq_zero (p : Pred) : p.bits = 0#2 ↔ p = .always := by cases p <;> decide

@[simp] theorem Target.parse_bits (t : Target) : Target.parse t.bits = some t := by
  have kind (k : BitVec 3) (s : BitVec 6) : (k ++ s : BitVec 9).extractLsb' 6 3 = k := extractLsb'_append_eq_left
  have slot (k : BitVec 3) (s : BitVec 6) : (k ++ s : BitVec 9).extractLsb' 0 6 = s := extractLsb'_append_eq_right
  cases t with
  | none => rfl
  | left s | right s | pred s => simp [Target.parse, Target.bits, kind, slot]

theorem Target.bits_of_parse {v : BitVec 9} {t : Target} (h : Target.parse v = some t) : t.bits = v := by
  have whole : v.extractLsb' 6 3 ++ v.extractLsb' 0 6 = v :=
    (extractLsb'_append_extractLsb'_eq_extractLsb' rfl).trans extractLsb'_eq_self
  simp only [Target.parse] at h
  rw [← whole]
  split at h
  · split at h <;> cases h
    simp only [*]; rfl
  · grind [Target.bits]

@[simp] theorem Target.bits_eq_zero (t : Target) : t.bits = 0#9 ↔ t = .none := by
  refine ⟨fun h => ?_, fun h => h ▸ rfl⟩
  have := Target.parse_bits t
  rw [h] at this
  exact (Option.some.inj this).symm

/-! ### The load checks (R131) -/

/-- A word that passes the load checks LC3 to LC8 and LC16. -/
structure PassesChecks (w : Word32) : Prop where
  allocatedOp : lc3 w = false
  allocatedField : lc4 w = false
  zeros : lc5 w = false
  knownPred : lc6 w = false
  predicable : lc7 w = false
  targets : lc8 w = false
  evenRegister : lc16 w = false

/-- A word decodes to what its fields build, where it passes the load checks. -/
theorem decode_eq_ok {w : Word32} {i : Instr} : decode w = .ok i ↔ PassesChecks w ∧ build w = some i := by
  constructor
  · intro h
    unfold decode at h
    grind [PassesChecks]
  · rintro ⟨⟨h3, h4, h5, h6, h7, h8, h16⟩, h⟩
    simp [decode, h3, h4, h5, h6, h7, h8, h16, h]

end Sys2Proof
end

section
/-! PROOF. T2 words (R121): a T2 word decodes to its group's row exactly where its XOP is allocated and its operands fit the row, and
`encode` lays that row out again. -/

namespace Sys2Proof

/-- `build`'s groups of T2 rows, by OP. -/
def t2Group (op : Nat) : Option (Nat → Pred → Target → Target → Option Instr) :=
  match op with
  | 0x04 => some build04 | 0x08 => some build08 | 0x09 => some build09 | 0x0A => some build0A | 0x0B => some build0B
  | 0x15 => some build15 | 0x16 => some build16 | 0x17 => some build17 | 0x18 => some build18 | 0x19 => some build19
  | 0x1B => some build1B | 0x2C => some build2C | 0x2D => some build2D | 0x2E => some build2E | 0x30 => some build30
  | 0x31 => some build31 | 0x32 => some build32 | 0x33 => some build33 | 0x34 => some build34 | 0x35 => some build35
  | 0x36 => some build36 | 0x37 => some build37 | 0x38 => some build38 | 0x39 => some build39 | 0x3A => some build3A
  | _ => none

theorem t2Group_of_format {op : Nat} (h : formatOf op = some .t2) : ∃ g, t2Group op = some g := by
  unfold formatOf at h
  split at h <;> cases h <;> exact ⟨_, rfl⟩

theorem format_of_t2Group {op : Nat} {g : Nat → Pred → Target → Target → Option Instr} (h : t2Group op = some g) :
    formatOf op = some .t2 := by
  unfold t2Group at h
  split at h <;> cases h <;> rfl

theorem build_of_t2Group {w : Word32} {g : Nat → Pred → Target → Target → Option Instr} (h : t2Group (fOp w).toNat = some g) :
    build w = withT2 w g := by
  unfold t2Group at h
  unfold build
  split at h <;> cases h <;> simp only [*]

section
variable {op xop : BitVec 6} {p : Pred} {a b : Target} {g : Nat → Pred → Target → Target → Option Instr}

theorem passesChecks_encT2 (h : formatOf op.toNat = some .t2) :
    PassesChecks (encT2 op p.bits xop b.bits a.bits) ↔ xopAllocated op.toNat xop.toNat = true ∧
      (noResult op.toNat xop.toNat = true → a = .none ∧ b = .none) ∧ (notPredicable op.toNat xop.toNat = true → p = .always) := by
  have h3 : op ≠ 3#6 := by rintro rfl; cases h
  have h5 : op.toNat ≠ 0x05 := fun e => by rw [e] at h; cases h
  have hA : op.toNat ≠ 0x1A := fun e => by rw [e] at h; cases h
  constructor
  · intro checks
    have h7 : p ≠ .always → notPredicable op.toNat xop.toNat = false := by simpa [lc7, hasPr, h, h5, hA] using checks.predicable
    exact ⟨by simpa [lc4, h] using checks.allocatedField, by simpa [lc5, h] using checks.zeros, by grind⟩
  · intro ⟨h4, z, h7⟩
    constructor <;> simp [lc3, lc4, lc5, lc6, lc7, lc8, lc16, hasPr, targetBits, h, h5, hA]
    · exact h4
    · exact z
    · grind
    · exact fun e => absurd e h3

theorem decode_encT2 {i : Instr} (h : t2Group op.toNat = some g) : decode (encT2 op p.bits xop b.bits a.bits) = .ok i ↔
    (xopAllocated op.toNat xop.toNat = true ∧ (noResult op.toNat xop.toNat = true → a = .none ∧ b = .none) ∧
      (notPredicable op.toNat xop.toNat = true → p = .always)) ∧ g xop.toNat p a b = some i := by
  rw [decode_eq_ok, passesChecks_encT2 (format_of_t2Group h), build_of_t2Group (g := g) (by rwa [fOp_encT2])]
  simp [withT2]

/-- The word that `encode` lays out for a row of a T2 group: PR is 0 where the row may not be predicated, and the targets are none
where it has no result (R120, R137). -/
def t2Word (op xop : Nat) (p : Pred) (a b : Target) : Word32 :=
  encT2 (BitVec.ofNat 6 op) (if notPredicable op xop then Pred.always else p).bits (BitVec.ofNat 6 xop)
    (if noResult op xop then Target.none else b).bits (if noResult op xop then Target.none else a).bits

/-- The instructions of each group, row by row. -/
theorem encode_of_t2Group {n x : Nat} {i : Instr} (h : t2Group n = some g) (hi : g x p a b = some i) :
    encode i = some (t2Word n x p a b) := by
  unfold t2Group at h
  split at h <;> cases h
  all_goals
    simp only [build04, build08, build09, build0A, build0B, build15, build16, build17, build18, build19, build1B, build2C, build2D,
      build2E, build30, build31, build32, build33, build34, build35, build36, build37, build38, build39, build3A] at hi
    split at hi <;> cases hi <;> rfl

/-- Where the operands fit the row, that is the word of the operands as they are. -/
theorem t2Word_eq (z : noResult op.toNat xop.toNat = true → a = .none ∧ b = .none)
    (h7 : notPredicable op.toNat xop.toNat = true → p = .always) :
    t2Word op.toNat xop.toNat p a b = encT2 op p.bits xop b.bits a.bits := by
  have hp : (if notPredicable op.toNat xop.toNat then Pred.always else p) = p := by grind
  have ha : (if noResult op.toNat xop.toNat then Target.none else a) = a := by grind
  have hb : (if noResult op.toNat xop.toNat then Target.none else b) = b := by grind
  simp [t2Word, hp, ha, hb]

theorem exists_of_withT2 {w : Word32} {i : Instr} (h : withT2 w g = some i) :
    ∃ (p : Pred) (a b : Target), w = encT2 (fOp w) p.bits (fXop w) b.bits a.bits := by
  simp only [withT2, Option.bind_eq_some_iff] at h
  obtain ⟨p, hp, a, ha, b, hb, -⟩ := h
  exact ⟨p, a, b, by rw [Pred.bits_of_parse hp, Target.bits_of_parse ha, Target.bits_of_parse hb, encT2_fields]⟩

theorem encode_of_decode_t2 {w : Word32} {i : Instr} (hf : formatOf (fOp w).toNat = some .t2) (h : decode w = .ok i) :
    encode i = some w := by
  obtain ⟨g, hg⟩ := t2Group_of_format hf
  have hb := (decode_eq_ok.1 h).2
  rw [build_of_t2Group hg] at hb
  obtain ⟨p, a, b, hw⟩ := exists_of_withT2 hb
  rw [hw] at h ⊢
  obtain ⟨⟨-, z, h7⟩, hi⟩ := (decode_encT2 hg).1 h
  rw [encode_of_t2Group hg hi, t2Word_eq z h7]

/-! ### The three shapes of T2 rows -/

theorem decode_t2 {i : Instr} (hg : t2Group op.toNat = some g) (hx : xopAllocated op.toNat xop.toNat = true)
    (hr : noResult op.toNat xop.toNat = false) (hp : notPredicable op.toNat xop.toNat = false) (hi : g xop.toNat p a b = some i) :
    decode (encT2 op p.bits xop b.bits a.bits) = .ok i :=
  (decode_encT2 hg).2 ⟨⟨hx, by simp [hr], by simp [hp]⟩, hi⟩

theorem decode_t2_noResult {i : Instr} (hg : t2Group op.toNat = some g) (hx : xopAllocated op.toNat xop.toNat = true)
    (hp : notPredicable op.toNat xop.toNat = false) (hi : g xop.toNat p .none .none = some i) :
    decode (encT2 op p.bits xop 0 0) = .ok i :=
  (decode_encT2 (a := .none) (b := .none) hg).2 ⟨⟨hx, fun _ => ⟨rfl, rfl⟩, by simp [hp]⟩, hi⟩

theorem decode_t2_always {i : Instr} (hg : t2Group op.toNat = some g) (hx : xopAllocated op.toNat xop.toNat = true)
    (hr : noResult op.toNat xop.toNat = false) (hi : g xop.toNat .always a b = some i) :
    decode (encT2 op 0 xop b.bits a.bits) = .ok i :=
  (decode_encT2 (p := .always) hg).2 ⟨⟨hx, by simp [hr], fun _ => rfl⟩, hi⟩

end
end Sys2Proof
end

section
/-! PROOF. T1I words (R125, R126, R152): what their immediates hold, and that a T1I word and its instruction are one another's. -/

namespace Sys2Proof

open BitVec (extractLsb'_append_eq_of_le extractLsb'_append_eq_left extractLsb'_append_eq_right
  extractLsb'_append_extractLsb'_eq_extractLsb' extractLsb'_eq_self)

/-! ### The immediates of T1I words (R125, R126, R152) -/

theorem toNat_append_eq_add {m n : Nat} (x : BitVec m) (y : BitVec n) : (x ++ y).toNat = x.toNat * 2 ^ n + y.toNat := by
  rw [BitVec.toNat_append, ← Nat.shiftLeft_add_eq_or_of_lt y.isLt, Nat.shiftLeft_eq]

/-- A shift count in its 15 bits. -/
theorem setWidth_shiftCount {n : Nat} {imm : BitVec n} (h : imm.toNat < 64) : (imm.extractLsb' 0 6).setWidth n = imm := by
  apply BitVec.eq_of_toNat_eq
  have := imm.isLt
  rw [BitVec.toNat_setWidth, BitVec.extractLsb'_toNat, Nat.shiftRight_zero, Nat.mod_eq_of_lt h, Nat.mod_eq_of_lt this]

theorem toNat_setWidth_shiftCount (n : Nat) (s : BitVec 6) : (s.setWidth n).toNat < 64 := by
  rw [BitVec.toNat_setWidth]; exact Nat.lt_of_le_of_lt (Nat.mod_le _ _) s.isLt

theorem extract_setWidth_shiftCount (n : Nat) (h : 6 ≤ n) (s : BitVec 6) : (s.setWidth n).extractLsb' 0 6 = s := by
  apply BitVec.eq_of_toNat_eq
  have := Nat.lt_of_lt_of_le s.isLt (Nat.pow_le_pow_right (by decide) h)
  rw [BitVec.extractLsb'_toNat, Nat.shiftRight_zero, BitVec.toNat_setWidth, Nat.mod_eq_of_lt this, Nat.mod_eq_of_lt s.isLt]

section
variable (k : BitVec 4) (v : BitVec 11)

theorem toNat_sysImm : (k ++ v : BitVec 15).toNat = k.toNat * 0x800 + v.toNat := toNat_append_eq_add k v

theorem sysImm_div : (k ++ v : BitVec 15).toNat / 0x800 = k.toNat := by
  rw [toNat_sysImm]; omega

theorem sysImm_mod : (k ++ v : BitVec 15).toNat % 0x800 = v.toNat := by
  rw [toNat_sysImm]; omega

@[simp] theorem sysImm_op : (k ++ v : BitVec 15).extractLsb' 11 4 = k := extractLsb'_append_eq_left
@[simp] theorem sysImm_operand : (k ++ v : BitVec 15).extractLsb' 0 11 = v := extractLsb'_append_eq_right
@[simp] theorem sysImm_counter : (k ++ v : BitVec 15).extractLsb' 0 6 = v.extractLsb' 0 6 :=
  BitVec.extractLsb'_append_eq_of_add_le (by decide)

end

/-- The fields of an immediate of the system group. -/
theorem sysImm_fields (imm : BitVec 15) : imm.extractLsb' 11 4 ++ imm.extractLsb' 0 11 = imm :=
  (extractLsb'_append_extractLsb'_eq_extractLsb' rfl).trans extractLsb'_eq_self

/-- RGN's immediate (R125). -/
def rgnImm (scope : BitVec 3) (cls : BitVec 4) (d e : Bool) : BitVec 15 :=
  (0 : BitVec 1) ++ scope ++ cls ++ (0 : BitVec 5) ++ BitVec.ofBool d ++ BitVec.ofBool e

theorem ofBool_beq_one (x : BitVec 1) : BitVec.ofBool (x == 1) = x := by revert x; decide

theorem rgnImm_fields {imm : BitVec 15} (ht : imm.extractLsb' 14 1 = 0) (hz : imm.toNat / 4 % 32 = 0) :
    rgnImm (imm.extractLsb' 11 3) (imm.extractLsb' 7 4) (imm.extractLsb' 1 1 == 1) (imm.extractLsb' 0 1 == 1) = imm := by
  have hz : imm.extractLsb' 2 5 = 0 := BitVec.eq_of_toNat_eq (by rwa [BitVec.extractLsb'_toNat, Nat.shiftRight_eq_div_pow])
  rw [rgnImm, ofBool_beq_one, ofBool_beq_one, ← ht, ← hz]
  simp only [extractLsb'_append_extractLsb'_eq_extractLsb']
  exact extractLsb'_eq_self

section
variable (scope : BitVec 3) (cls : BitVec 4) (d e : Bool)

theorem toNat_rgnImm : (rgnImm scope cls d e).toNat = scope.toNat * 0x800 + cls.toNat * 0x80 + d.toNat * 2 + e.toNat := by
  simp only [rgnImm, toNat_append_eq_add, BitVec.toNat_ofBool, BitVec.ofNat_eq_ofNat, BitVec.toNat_ofNat]
  omega

theorem rgnImm_form : (rgnImm scope cls d e).extractLsb' 14 1 = 0 := by
  show BitVec.extractLsb' 14 1 ((0 : BitVec 1) ++ scope ++ cls ++ (0 : BitVec 5) ++ BitVec.ofBool d ++ BitVec.ofBool e) = 0
  rw [extractLsb'_append_eq_of_le (by decide), extractLsb'_append_eq_of_le (by decide), extractLsb'_append_eq_of_le (by decide),
    extractLsb'_append_eq_of_le (by decide), extractLsb'_append_eq_left]

theorem rgnImm_scope : (rgnImm scope cls d e).extractLsb' 11 3 = scope := by
  show BitVec.extractLsb' 11 3 ((0 : BitVec 1) ++ scope ++ cls ++ (0 : BitVec 5) ++ BitVec.ofBool d ++ BitVec.ofBool e) = scope
  rw [extractLsb'_append_eq_of_le (by decide), extractLsb'_append_eq_of_le (by decide), extractLsb'_append_eq_of_le (by decide),
    extractLsb'_append_eq_of_le (by decide), extractLsb'_append_eq_right]

theorem rgnImm_cls : (rgnImm scope cls d e).extractLsb' 7 4 = cls := by
  show BitVec.extractLsb' 7 4 ((0 : BitVec 1) ++ scope ++ cls ++ (0 : BitVec 5) ++ BitVec.ofBool d ++ BitVec.ofBool e) = cls
  rw [extractLsb'_append_eq_of_le (by decide), extractLsb'_append_eq_of_le (by decide), extractLsb'_append_eq_of_le (by decide),
    extractLsb'_append_eq_right]

theorem rgnImm_drainpref : ((rgnImm scope cls d e).extractLsb' 1 1 == 1#1) = d := by
  have h : (rgnImm scope cls d e).extractLsb' 1 1 = BitVec.ofBool d := by
    show BitVec.extractLsb' 1 1 ((0 : BitVec 1) ++ scope ++ cls ++ (0 : BitVec 5) ++ BitVec.ofBool d ++ BitVec.ofBool e) = _
    rw [extractLsb'_append_eq_of_le (by decide), extractLsb'_append_eq_right]
  rw [h]
  cases d <;> rfl

theorem rgnImm_efence : ((rgnImm scope cls d e).extractLsb' 0 1 == 1#1) = e := by
  have h : (rgnImm scope cls d e).extractLsb' 0 1 = BitVec.ofBool e := extractLsb'_append_eq_right
  rw [h]
  cases e <;> rfl

end

/-! ### T1I words (R125, R126, R152) -/

/-- `build`'s T1I rows, by OP. -/
def t1iGroup (op : Nat) : Option (Pred → BitVec 15 → Target → Option Instr) :=
  match op with
  | 0x05 => some fun _ i a => some (.genc i a)
  | 0x06 => some fun p i a => some (.appc p i a)
  | 0x0C => some fun p i a => some (.addi p i a)
  | 0x0D => some fun p i a => some (.andi p i a)
  | 0x0E => some fun p i a => some (.ori p i a)
  | 0x0F => some fun p i a => some (.xori p i a)
  | 0x10 => some fun p i a => some (.shli p (i.extractLsb' 0 6) a)
  | 0x11 => some fun p i a => some (.shri p (i.extractLsb' 0 6) a)
  | 0x12 => some fun p i a => some (.sari p (i.extractLsb' 0 6) a)
  | 0x13 => some fun p i a => some (.teqi p i a)
  | 0x14 => some fun p i a => some (.tlti p i a)
  | 0x1A => some build1A
  | 0x1C => some build1C
  | _ => none

theorem t1iGroup_of_format {op : Nat} (h : formatOf op = some .t1i) : ∃ g, t1iGroup op = some g := by
  unfold formatOf at h
  split at h <;> cases h <;> exact ⟨_, rfl⟩

theorem format_of_t1iGroup {op : Nat} {g : Pred → BitVec 15 → Target → Option Instr} (h : t1iGroup op = some g) :
    formatOf op = some .t1i := by
  unfold t1iGroup at h
  split at h <;> cases h <;> rfl

theorem build_of_t1iGroup {w : Word32} {g : Pred → BitVec 15 → Target → Option Instr} (h : t1iGroup (fOp w).toNat = some g) :
    build w = withT1I w g := by
  unfold t1iGroup at h
  unfold build
  split at h <;> cases h <;> simp only [*]

theorem predicable_of_t1i {op : Nat} (h : formatOf op = some .t1i) (x : Nat) : notPredicable op x = false := by
  unfold formatOf at h
  split at h <;> cases h <;> rfl

section
variable {op : BitVec 6} {p : Pred} {imm : BitVec 15} {a : Target} {g : Pred → BitVec 15 → Target → Option Instr} {i : Instr}

theorem passesChecks_encT1I (h : formatOf op.toNat = some .t1i) :
    PassesChecks (encT1I op p.bits imm a.bits) ↔ lc4 (encT1I op p.bits imm a.bits) = false ∧
      lc5 (encT1I op p.bits imm a.bits) = false ∧ (op.toNat = 0x05 ∨ op.toNat = 0x1A → p = .always) := by
  have h3 : op ≠ 3#6 := by rintro rfl; cases h
  constructor
  · intro checks
    have h7 : p ≠ .always → op.toNat ≠ 0x05 ∧ op.toNat ≠ 0x1A := by
      simpa [lc7, hasPr, h, predicable_of_t1i h] using checks.predicable
    exact ⟨checks.allocatedField, checks.zeros, by grind⟩
  · intro ⟨h4, z, h7⟩
    refine ⟨?_, h4, z, ?_, ?_, ?_, ?_⟩ <;> simp [lc3, lc6, lc7, lc8, lc16, hasPr, targetBits, h, predicable_of_t1i h]
    · grind
    · exact fun e => absurd e h3

theorem decode_encT1I (h : t1iGroup op.toNat = some g) : decode (encT1I op p.bits imm a.bits) = .ok i ↔
    (lc4 (encT1I op p.bits imm a.bits) = false ∧ lc5 (encT1I op p.bits imm a.bits) = false ∧
      (op.toNat = 0x05 ∨ op.toNat = 0x1A → p = .always)) ∧ g p imm a = some i := by
  rw [decode_eq_ok, passesChecks_encT1I (format_of_t1iGroup h), build_of_t1iGroup (g := g) (by rwa [fOp_encT1I])]
  simp [withT1I]

theorem exists_of_withT1I {w : Word32} (h : withT1I w g = some i) :
    ∃ (p : Pred) (a : Target), w = encT1I (fOp w) p.bits (fImm15 w) a.bits := by
  simp only [withT1I, Option.bind_eq_some_iff] at h
  obtain ⟨p, hp, a, ha, -⟩ := h
  exact ⟨p, a, by rw [Pred.bits_of_parse hp, Target.bits_of_parse ha, encT1I_fields]⟩

theorem lc4_shift (h : op.toNat = 0x10 ∨ op.toNat = 0x11 ∨ op.toNat = 0x12) :
    lc4 (encT1I op p.bits imm a.bits) = false ↔ imm.toNat < 64 := by
  rcases h with h | h | h <;> simp [lc4, h, formatOf]

theorem lc4_rgn : lc4 (encT1I 0x1A p.bits imm a.bits) = false ↔
    (imm.toNat < 0x4000 → imm.toNat / 0x800 % 8 ≤ 4 ∧ imm.toNat / 4 % 32 = 0) := by
  simp [lc4, formatOf]

theorem lc5_rgn : lc5 (encT1I 0x1A p.bits imm a.bits) = false ↔ if imm.toNat < 0x4000 then a = .none else imm.toNat = 0x4000 := by
  simp only [lc5, fOp_encT1I, fImm15_encT1I, fTa_encT1I]
  show (if imm.toNat < 0x4000 then a.bits != 0 else decide (imm.toNat ≠ 0x4000)) = false ↔ _
  split <;> simp

theorem lc4_sys (k : BitVec 4) (v : BitVec 11) :
    lc4 (encT1I 0x1C p.bits (k ++ v) a.bits) = false ↔ sysOperandOk k.toNat v.toNat = true := by
  simp only [lc4, fOp_encT1I, fImm15_encT1I, sysImm_div, sysImm_mod]
  show (!sysOperandOk k.toNat v.toNat) = false ↔ _
  simp

theorem lc5_sys (k : BitVec 4) (v : BitVec 11) :
    lc5 (encT1I 0x1C p.bits (k ++ v) a.bits) = false ↔ (k.toNat = 0 ∨ k.toNat = 2 ∨ k.toNat = 4 → a = .none) := by
  simp only [lc5, fOp_encT1I, fImm15_encT1I, fTa_encT1I, sysImm_div]
  show ((k.toNat == 0 || k.toNat == 2 || k.toNat == 4) && a.bits != 0) = false ↔ _
  simp [or_assoc]

/-! ### From the word to the instruction -/

theorem encode_shift {s : BitVec 15} (h : s.toNat < 64) :
    encode (.shli p (s.extractLsb' 0 6) a) = some (encT1I 0x10 p.bits s a.bits) ∧
    encode (.shri p (s.extractLsb' 0 6) a) = some (encT1I 0x11 p.bits s a.bits) ∧
    encode (.sari p (s.extractLsb' 0 6) a) = some (encT1I 0x12 p.bits s a.bits) := by
  simp only [encode, setWidth_shiftCount h, and_self]

theorem encode_sys {k : BitVec 4} {v : BitVec 11} (ok : sysOperandOk k.toNat v.toNat = true)
    (z : k.toNat = 0 ∨ k.toNat = 2 ∨ k.toNat = 4 → a = .none) (hi : build1C p (k ++ v) a = some i) :
    encode i = some (encT1I 0x1C p.bits (k ++ v) a.bits) := by
  simp only [build1C, sysImm_op, sysImm_operand, sysImm_counter] at hi
  have hk : k = BitVec.ofNat 4 k.toNat := by simp
  have noOperand (h : (v.toNat == 0) = true) : v = 0 := BitVec.eq_of_toNat_eq (beq_iff_eq.1 h)
  generalize k.toNat = n at *
  subst hk
  split at hi <;> cases hi
  · rw [z (.inl rfl)]; rfl
  · rfl
  · rw [z (.inr (.inl rfl))]; rfl
  · rw [noOperand ok]; rfl
  · rw [noOperand ok, z (.inr (.inr rfl))]; rfl
  · rw [encode, setWidth_shiftCount (of_decide_eq_true ok)]; rfl
  · rw [noOperand ok]; rfl

theorem encode_rgn (h4 : imm.toNat < 0x4000 → imm.toNat / 0x800 % 8 ≤ 4 ∧ imm.toNat / 4 % 32 = 0)
    (z : if imm.toNat < 0x4000 then a = .none else imm.toNat = 0x4000)
    (hi : build1A p imm a = some i) : encode i = some (encT1I 0x1A p.bits imm a.bits) := by
  have form : imm.extractLsb' 14 1 = 0 ↔ imm.toNat < 0x4000 := by
    have := imm.isLt
    rw [← BitVec.toNat_inj, BitVec.extractLsb'_toNat, Nat.shiftRight_eq_div_pow]
    show _ = 0 ↔ _
    omega
  cases p with
  | onTrue | onFalse => cases hi
  | always =>
    simp only [build1A, form] at hi
    split at hi <;> cases hi
    next low =>
      rw [if_pos low] at z
      rw [z]
      exact congrArg (fun x => some (encT1I 0x1A 0 x 0)) (rgnImm_fields (form.2 low) (h4 low).2)
    next high =>
      rw [if_neg high] at z
      rw [show imm = 0x4000 from BitVec.eq_of_toNat_eq z]
      rfl

theorem encode_of_t1iGroup {n : Nat} (h : t1iGroup n = some g)
    (h4 : lc4 (encT1I (.ofNat 6 n) p.bits imm a.bits) = false) (z : lc5 (encT1I (.ofNat 6 n) p.bits imm a.bits) = false)
    (h7 : n = 0x05 ∨ n = 0x1A → p = .always) (hi : g p imm a = some i) :
    encode i = some (encT1I (.ofNat 6 n) p.bits imm a.bits) := by
  unfold t1iGroup at h
  split at h <;> cases h
  case h_1 => cases hi; rw [h7 (.inl rfl)]; rfl
  case h_2 | h_3 | h_4 | h_5 | h_6 | h_10 | h_11 => cases hi; rfl
  case h_7 => cases hi; exact (encode_shift ((lc4_shift (by decide)).1 h4)).1
  case h_8 => cases hi; exact (encode_shift ((lc4_shift (by decide)).1 h4)).2.1
  case h_9 => cases hi; exact (encode_shift ((lc4_shift (by decide)).1 h4)).2.2
  case h_12 => exact encode_rgn (lc4_rgn.1 h4) (lc5_rgn.1 z) hi
  case h_13 =>
    rw [← sysImm_fields imm] at h4 z hi ⊢
    exact encode_sys ((lc4_sys _ _).1 h4) ((lc5_sys _ _).1 z) hi

theorem encode_of_decode_t1i {w : Word32} (hf : formatOf (fOp w).toNat = some .t1i) (h : decode w = .ok i) :
    encode i = some w := by
  obtain ⟨g, hg⟩ := t1iGroup_of_format hf
  have hb := (decode_eq_ok.1 h).2
  rw [build_of_t1iGroup hg] at hb
  obtain ⟨p, a, hw⟩ := exists_of_withT1I hb
  rw [hw] at h ⊢
  obtain ⟨⟨h4, z, h7⟩, hi⟩ := (decode_encT1I hg).1 h
  have hop : fOp w = .ofNat 6 (fOp w).toNat := by simp
  rw [hop] at h4 z ⊢
  exact encode_of_t1iGroup hg h4 z h7 hi

/-! ### From the instruction to the word -/

/-- The T1I rows whose immediate is free (R152). -/
theorem decode_freeImm (free : op ∈ [(0x05 : BitVec 6), 0x06, 0x0C, 0x0D, 0x0E, 0x0F, 0x13, 0x14]) (hg : t1iGroup op.toNat = some g)
    (h7 : op.toNat = 0x05 ∨ op.toNat = 0x1A → p = .always) (hi : g p imm a = some i) :
    decode (encT1I op p.bits imm a.bits) = .ok i := by
  refine (decode_encT1I hg).2 ⟨⟨?_, ?_, h7⟩, hi⟩
  all_goals
    simp only [List.mem_cons, List.not_mem_nil, or_false] at free
    rcases free with rfl | rfl | rfl | rfl | rfl | rfl | rfl | rfl <;> simp [lc4, lc5, formatOf]

theorem decode_shift {s : BitVec 6} (shift : op.toNat = 0x10 ∨ op.toNat = 0x11 ∨ op.toNat = 0x12) (hg : t1iGroup op.toNat = some g)
    (hi : g p (s.setWidth 15) a = some i) : decode (encT1I op p.bits (s.setWidth 15) a.bits) = .ok i := by
  refine (decode_encT1I hg).2 ⟨⟨(lc4_shift shift).2 (toNat_setWidth_shiftCount 15 s), ?_, by omega⟩, hi⟩
  rcases shift with h | h | h <;> simp [lc5, h, formatOf]

theorem decode_sys {k : BitVec 4} {v : BitVec 11} (ok : sysOperandOk k.toNat v.toNat = true)
    (z : k.toNat = 0 ∨ k.toNat = 2 ∨ k.toNat = 4 → a = .none) (hi : build1C p (k ++ v) a = some i) :
    decode (encT1I 0x1C p.bits (k ++ v) a.bits) = .ok i :=
  (decode_encT1I rfl).2 ⟨⟨(lc4_sys k v).2 ok, (lc5_sys k v).2 z, fun e => absurd e (by decide)⟩, hi⟩

theorem decode_rcnt : decode (encT1I 0x1A 0 0x4000 a.bits) = .ok (.rcnt a) :=
  (decode_encT1I (p := .always) rfl).2 ⟨⟨lc4_rgn.2 (by decide), lc5_rgn.2 rfl, fun _ => rfl⟩, rfl⟩

theorem decode_rgn {scope : BitVec 3} {cls : BitVec 4} {d e : Bool} (ok : scope.toNat ≤ 4) :
    decode (encT1I 0x1A 0 (rgnImm scope cls d e) 0) = .ok (.rgn scope cls d e) := by
  have low : (rgnImm scope cls d e).toNat < 0x4000 := by
    rw [toNat_rgnImm]; have := d.toNat_le; have := e.toNat_le; omega
  refine (decode_encT1I (p := .always) (a := .none) rfl).2 ⟨⟨lc4_rgn.2 fun _ => ?_, lc5_rgn.2 ?_, fun _ => rfl⟩, ?_⟩
  · rw [toNat_rgnImm]; have := d.toNat_le; have := e.toNat_le; omega
  · rw [if_pos low]
  · simp [build1A, rgnImm_form, rgnImm_scope, rgnImm_cls, rgnImm_drainpref, rgnImm_efence]
end
end Sys2Proof
end

section
/-! PROOF. Words of the other formats (R122 to R124), and the two round trips of encoding. -/

namespace Sys2Proof

/-! ### M words (R122) -/

/-- `build`'s M rows, by OP. -/
def mGroup (op : Nat) : Option (Pred → BitVec 6 → BitVec 9 → Target → Instr) :=
  match op with
  | 0x20 => some .ldb | 0x21 => some .ldh | 0x22 => some .ldw | 0x23 => some .ldd
  | 0x24 => some .ldsb | 0x25 => some .ldsh | 0x26 => some .ldsw
  | 0x27 => some fun p l o _ => .pref p l o
  | 0x28 => some fun p l o _ => .stb p l o
  | 0x29 => some fun p l o _ => .sth p l o
  | 0x2A => some fun p l o _ => .stw p l o
  | 0x2B => some fun p l o _ => .std p l o
  | _ => none

theorem mGroup_of_format {op : Nat} (h : formatOf op = some .m) : ∃ g, mGroup op = some g := by
  unfold formatOf at h
  split at h <;> cases h <;> exact ⟨_, rfl⟩

theorem format_of_mGroup {op : Nat} {g : Pred → BitVec 6 → BitVec 9 → Target → Instr} (h : mGroup op = some g) :
    formatOf op = some .m := by
  unfold mGroup at h
  split at h <;> cases h <;> rfl

theorem build_of_mGroup {w : Word32} {g : Pred → BitVec 6 → BitVec 9 → Target → Instr} (h : mGroup (fOp w).toNat = some g) :
    build w = withM w g := by
  unfold mGroup at h
  unfold build
  split at h <;> cases h <;> simp only [*]

theorem predicable_of_m {op : Nat} (h : formatOf op = some .m) (x : Nat) : notPredicable op x = false := by
  unfold formatOf at h
  split at h <;> cases h <;> rfl

section
variable {op lsid : BitVec 6} {p : Pred} {off : BitVec 9} {a : Target} {g : Pred → BitVec 6 → BitVec 9 → Target → Instr} {i : Instr}

theorem passesChecks_encM (h : formatOf op.toNat = some .m) :
    PassesChecks (encM op p.bits lsid off a.bits) ↔ (0x27 ≤ op.toNat → a = .none) := by
  have h3 : op ≠ 3#6 := by rintro rfl; cases h
  have h5 : op.toNat ≠ 0x05 := fun e => by rw [e] at h; cases h
  have hA : op.toNat ≠ 0x1A := fun e => by rw [e] at h; cases h
  rw [encM_eq_encT2]
  constructor
  · intro checks
    simpa [lc5, h] using checks.zeros
  · intro z
    constructor <;> simp [lc3, lc4, lc5, lc6, lc7, lc8, lc16, hasPr, targetBits, h, h5, hA, predicable_of_m h]
    · exact z
    · exact fun e => absurd e h3

theorem decode_encM (h : mGroup op.toNat = some g) : decode (encM op p.bits lsid off a.bits) = .ok i ↔
    (0x27 ≤ op.toNat → a = .none) ∧ g p lsid off a = i := by
  rw [decode_eq_ok, passesChecks_encM (format_of_mGroup h), encM_eq_encT2, build_of_mGroup (g := g) (by rwa [fOp_encT2])]
  simp [withM]

theorem exists_of_withM {w : Word32} (h : withM w g = some i) :
    ∃ (p : Pred) (a : Target), w = encM (fOp w) p.bits (fXop w) (fTb w) a.bits := by
  simp only [withM, Option.bind_eq_some_iff, Option.map_eq_some_iff] at h
  obtain ⟨p, hp, a, ha, -⟩ := h
  exact ⟨p, a, by rw [Pred.bits_of_parse hp, Target.bits_of_parse ha, encM_eq_encT2, encT2_fields]⟩

/-- A row that delivers nothing, PREF or a store, has no target (R122). -/
theorem encode_of_mGroup {n : Nat} (h : mGroup n = some g) (z : 0x27 ≤ n → a = .none) :
    encode (g p lsid off a) = some (encM (.ofNat 6 n) p.bits lsid off a.bits) := by
  unfold mGroup at h
  split at h <;> cases h
  case h_1 | h_2 | h_3 | h_4 | h_5 | h_6 | h_7 => rfl
  case h_8 | h_9 | h_10 | h_11 | h_12 => rw [z (by decide)]; rfl

theorem encode_of_decode_m {w : Word32} (hf : formatOf (fOp w).toNat = some .m) (h : decode w = .ok i) :
    encode i = some w := by
  obtain ⟨g, hg⟩ := mGroup_of_format hf
  have hb := (decode_eq_ok.1 h).2
  rw [build_of_mGroup hg] at hb
  obtain ⟨p, a, hw⟩ := exists_of_withM hb
  rw [hw] at h ⊢
  obtain ⟨z, rfl⟩ := (decode_encM hg).1 h
  simpa using encode_of_mGroup hg z

end

/-! ### RD words (R123) and BRO (R124) -/

section
variable {r : BitVec 7} {a b : Target} {p : Pred} {i : Instr} {w : Word32}

theorem build_read (h : fOp w = 0x01) : build w = withRD w .read := by simp only [build, h]; rfl
theorem build_write (h : fOp w = 0x02) : build w = some (.write (fReg w)) := by simp only [build, h]; rfl
theorem build_pair (h : fOp w = 0x03) :
    build w = if fTa w = 0 ∧ fTb w = 0 then some (.writep (fReg w)) else withRD w .readp := by simp only [build, h]; rfl
theorem build_bro (h : fOp w = 0x07) : build w = (Pred.parse (fPr w)).map fun p => .bro p (fOff24 w) := by simp only [build, h]; rfl

theorem decode_read : decode (encRD 0x01 r b.bits a.bits) = .ok (.read r a b) := by
  refine decode_eq_ok.2 ⟨?_, by simp [build_read, withRD]⟩
  constructor <;> simp [lc3, lc4, lc5, lc6, lc7, lc8, lc16, hasPr, targetBits, formatOf]

theorem decode_write : decode (encRD 0x02 r Target.none.bits Target.none.bits) = .ok (.write r) := by
  refine decode_eq_ok.2 ⟨?_, by simp [build_write]⟩
  constructor <;> simp [lc3, lc4, lc5, lc6, lc7, lc8, lc16, hasPr, targetBits, formatOf]

/-- READP and WRITEP share an OP: the word with no target is WRITEP's (R123). -/
theorem decode_pair (even : r.toNat % 2 = 0) : decode (encRD 0x03 r b.bits a.bits) =
    .ok (if a = .none ∧ b = .none then .writep r else .readp r a b) := by
  refine decode_eq_ok.2 ⟨?_, by simp [build_pair, withRD]; grind⟩
  constructor <;> simp [lc3, lc4, lc5, lc6, lc7, lc8, lc16, hasPr, targetBits, formatOf, even]

theorem decode_bro {off : BitVec 24} : decode (encB p.bits off) = .ok (.bro p off) := by
  refine decode_eq_ok.2 ⟨?_, by simp [build_bro]⟩
  constructor <;> simp [lc3, lc4, lc5, lc6, lc7, lc8, lc16, hasPr, targetBits, formatOf, notPredicable]

theorem exists_of_withRD {g : BitVec 7 → Target → Target → Instr} (h : withRD w g = some i) :
    ∃ a b, Target.bits a = fTa w ∧ Target.bits b = fTb w ∧ g (fReg w) a b = i := by
  simp only [withRD, Option.bind_eq_some_iff, Option.map_eq_some_iff] at h
  obtain ⟨a, ha, b, hb, hi⟩ := h
  exact ⟨a, b, Target.bits_of_parse ha, Target.bits_of_parse hb, hi⟩

theorem op_of_rd {op : BitVec 6} (h : formatOf op.toNat = some .rd) : op = 0x01 ∨ op = 0x02 ∨ op = 0x03 := by
  revert op; decide

theorem op_of_b {op : BitVec 6} (h : formatOf op.toNat = some .b) : op = 0x07 := by
  revert op; decide

theorem encode_of_decode_rd (hf : formatOf (fOp w).toNat = some .rd) (h : decode w = .ok i) : encode i = some w := by
  obtain ⟨checks, hi⟩ := decode_eq_ok.1 h
  obtain ⟨hz, noTargets⟩ : fRdZero w = 0 ∧ ((fOp w).toNat = 2 → fTa w = 0 ∧ fTb w = 0) := by simpa [lc5, hf] using checks.zeros
  have hw := encRD_fields hz
  rcases op_of_rd hf with op | op | op
  · rw [build_read op] at hi
    obtain ⟨a, b, ha, hb, rfl⟩ := exists_of_withRD hi
    rw [encode, ha, hb, ← op, hw]
  · rw [build_write op] at hi
    obtain ⟨ha, hb⟩ := noTargets (by rw [op]; rfl)
    cases hi
    rw [ha, hb, op] at hw
    exact congrArg some hw
  · rw [build_pair op] at hi
    split at hi
    next noTarget =>
      cases hi
      rw [noTarget.1, noTarget.2, op] at hw
      exact congrArg some hw
    next =>
      obtain ⟨a, b, ha, hb, rfl⟩ := exists_of_withRD hi
      rw [encode, ha, hb, ← op, hw]

theorem encode_of_decode_b (hf : formatOf (fOp w).toNat = some .b) (h : decode w = .ok i) : encode i = some w := by
  have op := op_of_b hf
  have hi := (decode_eq_ok.1 h).2
  rw [build_bro op] at hi
  obtain ⟨p, hp, rfl⟩ := Option.map_eq_some_iff.1 hi
  rw [encode, Pred.bits_of_parse hp, encB_fields op]

end

/-- Settles O56: a word that decodes is its fields laid out again, and those are the fields of its instruction, format by format. -/
theorem decodingRoundTrip : Obligations.DecodingRoundTrip := by
  intro w i h
  have known := (decode_eq_ok.1 h).1.allocatedOp
  simp only [lc3, Option.isNone_eq_false_iff, Option.isSome_iff_exists] at known
  obtain ⟨f, hf⟩ := known
  cases f with
  | t2 => exact encode_of_decode_t2 hf h
  | t1i => exact encode_of_decode_t1i hf h
  | m => exact encode_of_decode_m hf h
  | rd => exact encode_of_decode_rd hf h
  | b => exact encode_of_decode_b hf h

/-! ### Every row decodes from its word -/

theorem bitVec2_cases (f : BitVec 2) : f = 0 ∨ f = 1 ∨ f = 2 ∨ f = 3 := by revert f; decide

/-- Settles O55: row by row, each by the lemma of its shape; the rows with a number format, a scale or a width at each of its values. -/
theorem encodingRoundTrip : Obligations.EncodingRoundTrip := by
  intro i w wf h
  cases i with
  | read => cases h; exact decode_read
  | write => cases h; exact decode_write
  | readp r a b =>
    cases h
    obtain ⟨even, delivers⟩ : r.toNat % 2 = 0 ∧ ¬(a = .none ∧ b = .none) := by grind [Instr.ill]
    rw [decode_pair even, if_neg delivers]
  | writep r =>
    cases h
    exact decode_pair (a := .none) (b := .none) (by grind [Instr.ill])
  | bro => cases h; exact decode_bro
  | mov | self | add | sub | mul | mulh | mulhu | div | divu | rem | remu | and | or | xor | andn | shl | shr | sar | rotl | clz | ctz
  | popc | min | max | minu | maxu | sext | zext | bfx | bfi | teq | tne | tlt | tle | tltu | tleu | tbit | fralloc | tagget | dqpush
  | dqpop | dqsteal | gbar | mring | mwait | wsref | bufinfo | waitf | waite | vadd | vsub | vmul | vmin | vmax | vabs | vneg | vexp2
  | vrcp | vrsq | vcvt | vsel | vcmp | vand | vor | vxor | vshl | vshr | vredsum | vredmax | vredmin | vscan | vperm | vbcast | visect
  | tld | tldt | tst | tzero | tcvt | tdrain | merge | gseed | matchb | topk | itperm =>
    cases h; exact decode_t2 rfl rfl rfl rfl rfl
  | fadd _ f | fsub _ f | fmul _ f | fdiv _ f | fsqrt _ f | fmin _ f | fmax _ f | fceq _ f | fclt _ f | fcle _ f | fcvt _ f | fclass _ f
  | lea _ f =>
    cases h; obtain rfl | rfl | rfl | rfl := bitVec2_cases f <;> exact decode_t2 rfl rfl rfl rfl rfl
  | aadd _ w | aswp _ w | amin _ w | amax _ w | aminu _ w | amaxu _ w | aand _ w | aor _ w | axor _ w | amaxrs _ w =>
    cases h; cases w <;> exact decode_t2 rfl rfl rfl rfl rfl
  | stop | yield | bri | call | calli | ret | fork | forkn | send | frfree | tagset | gbarx | msend | cpy | cpyt | coll | wsld | bufdef
  | advp | advc | sload | sstore | gdef | kput | kdel | kappend | kmerge | mscan | ksum | mdom | itbl | igather | walk =>
    cases h; exact decode_t2_noResult rfl rfl rfl rfl
  | radd _ w | rmin _ w | rmax _ w | rand _ w | ror _ w | rxor _ w | rfadd _ w =>
    cases h; cases w <;> exact decode_t2_noResult rfl rfl rfl rfl
  | nul | sel | vfma | tmma | steer | matchQ | matchc => cases h; exact decode_t2_always rfl rfl rfl rfl
  | ffma f => cases h; obtain rfl | rfl | rfl | rfl := bitVec2_cases f <;> exact decode_t2_always rfl rfl rfl rfl
  | acas w => cases h; cases w <;> exact decode_t2_always rfl rfl rfl rfl
  | genc => cases h; exact decode_freeImm (p := .always) (by decide) rfl (fun _ => rfl) rfl
  | appc | addi | andi | ori | xori | teqi | tlti => cases h; exact decode_freeImm (by decide) rfl (fun e => absurd e (by decide)) rfl
  | shli | shri | sari => cases h; exact decode_shift (by decide) rfl (by rw [extract_setWidth_shiftCount 15 (by decide)])
  | rgn => cases h; exact decode_rgn (by simpa [Instr.ill] using wf)
  | rcnt => cases h; exact decode_rcnt
  | trap => cases h; exact decode_sys (a := .none) rfl (fun _ => rfl) (by simp [build1C])
  | mfsr => cases h; exact decode_sys (by simpa [Instr.ill, sysOperandOk] using wf) (fun e => absurd e (by decide)) (by simp [build1C])
  | mtsr => cases h; exact decode_sys (a := .none) (by simpa [Instr.ill, sysOperandOk] using wf) (fun _ => rfl) (by simp [build1C])
  | resume | idle => cases h; exact decode_sys rfl (fun e => absurd e (by decide)) rfl
  | tlbi => cases h; exact decode_sys (a := .none) rfl (fun _ => rfl) rfl
  | perf p c =>
    cases h
    exact decode_sys (decide_eq_true (toNat_setWidth_shiftCount 11 c)) (fun e => absurd e (by decide))
      (by simp [build1C, extract_setWidth_shiftCount])
  | ldb | ldh | ldw | ldd | ldsb | ldsh | ldsw => cases h; exact (decode_encM rfl).2 ⟨fun e => absurd e (by decide), rfl⟩
  | pref | stb | sth | stw | std => cases h; exact (decode_encM (a := .none) rfl).2 ⟨fun _ => rfl, rfl⟩
  | _ => cases h

/-- Settles O54: each word is read field by field. -/
theorem encodingWords : Obligations.EncodingWords :=
  ⟨rfl, rfl, rfl, rfl, rfl, rfl, rfl, rfl, rfl, rfl, rfl, rfl, rfl, rfl, rfl, rfl⟩

end Sys2Proof
end

section
/-! PROOF. Stores, PREF and the checks of an access at fire (R134, R165, R168, R169, R366, R427). -/

namespace Sys2Proof.Machine

/-! ### Each form runs its shared meaning -/

theorem exec_store {p : Pred} {lsid : BitVec 6} {off : BitVec 9} {i : Instr} {w : Nat}
    (h : (i, w) ∈ [(Instr.stb p lsid off, 1), (.sth p lsid off, 2), (.stw p lsid off, 4), (.std p lsid off, 8)]) (s : State) :
    exec i s = storeFire p lsid off w s := by
  simp only [List.mem_cons, Prod.mk.injEq, List.not_mem_nil, or_false] at h
  rcases h with ⟨rfl, rfl⟩ | ⟨rfl, rfl⟩ | ⟨rfl, rfl⟩ | ⟨rfl, rfl⟩ <;> rfl

theorem exec_load {p : Pred} {lsid : BitVec 6} {off : BitVec 9} {a : Target} {i : Instr} {w : Nat}
    (h : (i, w) ∈ [(Instr.ldb p lsid off a, 1), (.ldh p lsid off a, 2), (.ldw p lsid off a, 4), (.ldd p lsid off a, 8),
      (.ldsb p lsid off a, 1), (.ldsh p lsid off a, 2), (.ldsw p lsid off a, 4)]) (s : State) :
    exec i s = loadFire p lsid off w a s := by
  simp only [List.mem_cons, Prod.mk.injEq, List.not_mem_nil, or_false] at h
  rcases h with ⟨rfl, rfl⟩ | ⟨rfl, rfl⟩ | ⟨rfl, rfl⟩ | ⟨rfl, rfl⟩ | ⟨rfl, rfl⟩ | ⟨rfl, rfl⟩ | ⟨rfl, rfl⟩ <;> rfl

/-! ### The checks of an access at fire (R165, R366, R427) -/

section
variable {s : State} {t : Strand} {addr : Word} {w : Nat} {e : Eff}

theorem checked_access_pass (hp : s.fireCheck t addr w ≠ some .resource) (ha : addr.toNat % w = 0) :
    checked (s.accessChecks t addr w) e = e :=
  checked_pass (by simp [State.accessChecks, alignCheck, hp, ha])

/-- Bytes without a purpose are refused before the alignment is looked at. -/
theorem checked_access_fault {code : FaultCode}
    (h : s.fireCheck t addr w = some .resource ∧ code = .resource ∨
      s.fireCheck t addr w ≠ some .resource ∧ addr.toNat % w ≠ 0 ∧ code = .align) :
    checked (s.accessChecks t addr w) e = .fault { code := code, addr := addr } := by
  rcases h with ⟨hp, rfl⟩ | ⟨hp, ha, rfl⟩
  · simp [checked, State.accessChecks, firstFault, hp]
  · simp [checked, State.accessChecks, alignCheck, firstFault, hp, ha]

theorem fireCheck_of_storeCheck (h : s.storeCheck t addr w = none) : s.fireCheck t addr w = none := by
  unfold State.storeCheck at h
  split at h
  · cases h
  · assumption

end

/-! ### A null on an operand -/

/-- A store resolves on a null on either operand, without waiting for the other (R134). -/
theorem gate_null {p : Pred} {o : Slot} (hs : o.status = .idle ∨ o.status = .waiting) (hp : predOk p o.p = true)
    (hc : o.cancelled = false) (hn : o.l = some .null ∨ o.r = some .null) : gate p .both true o = .null := by
  have operands : operandGate .both true o = .null := by
    rcases hn with h | h <;> simp [operandGate, usedOperands, h]
  have here : ¬(o.status = .sent ∨ o.status = .done) := by
    rcases hs with h | h <;> simp [h]
  cases p with
  | always => simp [gate, here, hc, operands]
  | onTrue | onFalse =>
    rcases hv : o.p with _ | ⟨_ | _ | _⟩ <;> simp_all [gate, predOk]

theorem State.setStrand_self {s : State} {k : Nat} {t : Strand} (h : s.strand k = some t) : s.setStrand k t = s := by
  obtain ⟨hk, rfl⟩ := List.getElem?_eq_some_iff.1 h
  rw [State.setStrand, List.set_getElem_self]

/-- A token for no target changes nothing. -/
theorem State.deliver_none (s : State) (k : Nat) (x : Option Token) : s.deliver k .none x = s := by
  unfold State.deliver
  split
  · rfl
  · split
    · rfl
    · next t ht =>
      split
      · rfl
      · next b hb =>
        show s.setStrand k { t with block := some b } = s
        rw [← hb]
        exact State.setStrand_self ht

theorem storesResolve : Parts.StoresResolve := by
  intro p lsid off s c w i hi
  constructor
  · intro issues aligned served
    refine completes_of_fire (exec_store hi s) issues (by decide) ?_
    have pass : s.fireCheck c.t (accessAddr (opVal c.o.l) off w) w ≠ some .resource :=
      fun h => nomatch (fireCheck_of_storeCheck served).symm.trans h
    rw [checked_access_pass pass aligned]
    simp only [accessAddr, sext, served]
  · intro here status ok live null
    have hg := gate_null status ok live null
    rw [exec_store hi, storeFire]
    simp only [fire, here, hg, State.deliver2, State.deliver_none]

theorem prefCompletes : Parts.PrefCompletes := fun _ _ _ _ _ issues => completes_of_fire rfl issues (by decide) rfl

theorem misalignedAccessFaults : Parts.MisalignedAccessFaults := by
  intro p lsid off a s c w addr code early haddr bad
  have fault (e : Eff) := checked_access_fault (e := e) bad
  constructor
  · intro i hi issues
    rw [exec_load hi, loadFire, fireEff, fire_faults issues (by decide) ?_ early]
    subst haddr
    exact fault _
  · intro i hi issues
    rw [exec_store hi, storeFire, fire_faults issues (by decide) ?_ early]
    subst haddr
    exact fault _

/-- Settles O10: a store and a load run their shared forms, and the checks of an access decide each outcome. -/
theorem storesComplete : Obligations.StoresComplete := ⟨storesResolve, prefCompletes, misalignedAccessFaults⟩

end Sys2Proof.Machine
end

section
/-! PROOF. Instructions that compute one value from their operands (R138, R142, R143, R149 to R154): what each form of instruction sends,
and the words of the model's operations as numbers. -/

namespace Sys2Proof.Machine

/-! ### The forms of one, two and three operands -/

/-- What an instruction sends may be named by any function with the same values. -/
theorem SendsValue.congr {i : Instr} {p : Pred} {u : Uses} {ta tb : Target} {f g : Word → Word → Word → Word}
    (h : SendsValue i p u ta tb f) (hg : ∀ x y z, f x y z = g x y z) : SendsValue i p u ta tb g := by
  obtain rfl : f = g := funext fun x => funext fun y => funext fun z => hg x y z
  exact h

theorem sendsValue_value1 {i : Instr} {p : Pred} {a b : Target} {f : Word → Word} {g : Word → Word → Word → Word}
    (he : ∀ s, exec i s = value1 p a b f s) (hg : ∀ x y z, f x = g x y z) : SendsValue i p .left a b g :=
  (sendsValue_of_fireVal he (by decide)).congr hg

theorem sendsValue_value2 {i : Instr} {p : Pred} {a b : Target} {f : Word → Word → Word} {g : Word → Word → Word → Word}
    (he : ∀ s, exec i s = value2 p a b f s) (hg : ∀ x y z, f x y = g x y z) : SendsValue i p .both a b g :=
  (sendsValue_of_fireVal he (by decide)).congr hg

theorem sendsValue_value3 {i : Instr} {a b : Target} {f g : Word → Word → Word → Word}
    (he : ∀ s, exec i s = value3 a b f s) (hg : ∀ x y z, f x y z = g x y z) : SendsValue i .always .three a b g :=
  (sendsValue_of_fireVal he (by decide)).congr hg

/-! ### Fields of a control word -/

theorem bits_low6 (y : Word) : bits y 5 0 = y.toNat % 64 := by simp [bits]

theorem bits_length (y : Word) : bits y 13 8 = y.toNat / 256 % 64 := rfl

/-! ### Operations as arithmetic on numbers (R150) -/

theorem ofNat_toNat_self (x : Word) : BitVec.ofNat 64 x.toNat = x := by
  rw [BitVec.ofNat_toNat, BitVec.setWidth_eq]

theorem ofInt_toNat (x : Word) : BitVec.ofInt 64 x.toNat = x := by
  rw [BitVec.ofInt_natCast, ofNat_toNat_self]

theorem add_eq_ofNat (x y : Word) : x + y = BitVec.ofNat 64 (x.toNat + y.toNat) := by
  rw [BitVec.ofNat_add, ofNat_toNat_self, ofNat_toNat_self]

theorem sub_eq_ofInt (x y : Word) : x - y = BitVec.ofInt 64 (x.toNat - y.toNat) :=
  BitVec.sub_eq_iff_eq_add.2 <| Eq.symm <|
    calc BitVec.ofInt 64 (x.toNat - y.toNat) + y
      _ = BitVec.ofInt 64 (x.toNat - y.toNat) + BitVec.ofInt 64 y.toNat := by rw [ofInt_toNat]
      _ = x := by rw [← BitVec.ofInt_add, Int.sub_add_cancel, ofInt_toNat]

theorem mul_eq_ofNat (x y : Word) : x * y = BitVec.ofNat 64 (x.toNat * y.toNat) := rfl

theorem shiftLeft_eq_ofNat (x : Word) (n : Nat) : x <<< n = BitVec.ofNat 64 (x.toNat * 2 ^ n) := by
  rw [← Nat.shiftLeft_eq]; rfl

theorem shiftRight_eq_ofNat (x : Word) (n : Nat) : x >>> n = BitVec.ofNat 64 (x.toNat / 2 ^ n) := by
  rw [← Nat.shiftRight_eq_div_pow, ← BitVec.toNat_ushiftRight, ofNat_toNat_self]

theorem sshiftRight_eq_ofInt (x : Word) (n : Nat) : x.sshiftRight n = BitVec.ofInt 64 (x.toInt / 2 ^ n) := by
  rw [BitVec.sshiftRight, Int.shiftRight_eq_div_pow, Int.natCast_pow]
  rfl

/-- The low 15 bits of a word shifted left by 15 are free. -/
theorem shiftLeft_or_eq_ofNat (x : Word) (imm : BitVec 15) :
    x <<< 15 ||| imm.setWidth 64 = BitVec.ofNat 64 (x.toNat * 2 ^ 15 + imm.toNat) := by
  apply BitVec.eq_of_toNat_eq
  rw [BitVec.toNat_or, BitVec.toNat_shiftLeft, BitVec.toNat_setWidth, BitVec.toNat_ofNat, ← Nat.or_mod_two_pow,
    ← Nat.shiftLeft_add_eq_or_of_lt imm.isLt, Nat.shiftLeft_eq]

/-! ### Conditions on two words (R149, R150) -/

theorem boolWord_eq_ite {b : Bool} {P : Prop} [Decidable P] (h : b = true ↔ P) : boolWord b = if P then 1 else 0 := by
  simp [boolWord, h]

section
variable {x y : Word}

theorem slt_iff_le_of_ne (h : x ≠ y) : x.slt y = true ↔ x.toInt ≤ y.toInt := by
  rw [BitVec.slt_iff_toInt_lt, Int.lt_iff_le_and_ne, and_iff_left (mt BitVec.toInt_inj.1 h)]

theorem ult_iff_le_of_ne (h : x ≠ y) : x.ult y = true ↔ x.toNat ≤ y.toNat := by
  rw [BitVec.ult_iff_toNat_lt, Nat.lt_iff_le_and_ne, and_iff_left (mt BitVec.toNat_inj.1 h)]

variable {lt le : Prop} [Decidable lt] [Decidable le]

/-- A choice between two words may be made by a strict order or by its reflexive closure. -/
theorem ite_strict_left (h : x ≠ y → (lt ↔ le)) : (if lt then x else y) = if le then x else y := by
  by_cases e : x = y
  · rw [e, ite_self, ite_self]
  · simp only [h e]

theorem ite_strict_right (h : x ≠ y → (lt ↔ le)) : (if lt then y else x) = if le then y else x := by
  by_cases e : x = y
  · rw [e, ite_self, ite_self]
  · simp only [h e]

end

/-! ### Quotients and remainders (R151) -/

theorem sdiv_eq_ofInt (x y : Word) : x.sdiv y = BitVec.ofInt 64 (x.toInt.tdiv y.toInt) := by
  apply BitVec.eq_of_toInt_eq
  rw [BitVec.toInt_sdiv, BitVec.toInt_ofInt]

theorem srem_eq_ofInt (x y : Word) : x.srem y = BitVec.ofInt 64 (x.toInt.tmod y.toInt) := by
  rw [← BitVec.toInt_srem, BitVec.ofInt_toInt]

theorem udiv_eq_ofNat (x y : Word) : x.udiv y = BitVec.ofNat 64 (x.toNat / y.toNat) := by
  rw [← BitVec.toNat_udiv, ofNat_toNat_self]; rfl

theorem umod_eq_ofNat (x y : Word) : x.umod y = BitVec.ofNat 64 (x.toNat % y.toNat) := by
  rw [← BitVec.toNat_umod, ofNat_toNat_self]; rfl

/-- Settles O2: the four divisions are those of the library beside a zero divisor, and the word is read field by field. -/
theorem divisionsComplete : Obligations.DivisionsComplete :=
  ⟨fun _ _ _ => sendsValue_value2 (fun _ => rfl) fun x y _ => by rw [divS, sdiv_eq_ofInt],
    fun _ _ _ => sendsValue_value2 (fun _ => rfl) fun x y _ => by rw [divU, udiv_eq_ofNat],
    fun _ _ _ => sendsValue_value2 (fun _ => rfl) fun x y _ => by rw [remS, srem_eq_ofInt],
    fun _ _ _ => sendsValue_value2 (fun _ => rfl) fun x y _ => by rw [remU, umod_eq_ofNat],
    rfl⟩

/-! ### Integer instructions (R150) -/

theorem integersComplete : Parts.IntegersComplete := by
  refine ⟨fun p a b => sendsValue_value2 (fun _ => rfl) fun x y _ => add_eq_ofNat x y,
    fun p a b => sendsValue_value2 (fun _ => rfl) fun x y _ => sub_eq_ofInt x y,
    fun p a b => sendsValue_value2 (fun _ => rfl) fun x y _ => mul_eq_ofNat x y,
    ?mulh, ?mulhu, ?and, ?or, ?xor, ?andn,
    fun p a b => sendsValue_value2 (fun _ => rfl) fun x y _ => by rw [bits_low6, shiftLeft_eq_ofNat],
    fun p a b => sendsValue_value2 (fun _ => rfl) fun x y _ => by rw [bits_low6, shiftRight_eq_ofNat],
    fun p a b => sendsValue_value2 (fun _ => rfl) fun x y _ => by rw [bits_low6, sshiftRight_eq_ofInt],
    fun p a b => sendsValue_value2 (fun _ => rfl) fun x y _ => by rw [bits_low6],
    ?clz, ?ctz, ?popc,
    fun p a b => sendsValue_value2 (fun _ => rfl) fun x y _ => ite_strict_left slt_iff_le_of_ne,
    fun p a b => sendsValue_value2 (fun _ => rfl) fun x y _ => ite_strict_right slt_iff_le_of_ne,
    fun p a b => sendsValue_value2 (fun _ => rfl) fun x y _ => ite_strict_left ult_iff_le_of_ne,
    fun p a b => sendsValue_value2 (fun _ => rfl) fun x y _ => ite_strict_right ult_iff_le_of_ne,
    ?sext, ?zext, ?bfx, ?bfi⟩
  case clz | ctz | popc => exact fun p a b => sendsValue_value1 (fun _ => rfl) fun _ _ _ => rfl
  -- The rest send the model's own operation.
  all_goals exact fun p a b => sendsValue_value2 (fun _ => rfl) fun _ _ _ => rfl

/-! ### Constants, MOV and NULL (R142, R143) -/

/-- A slot that has not fired and whose predicate holds goes by its operands: a MERGE by either input, the others by all of them where
no cancel stands on one (R15, R235, R236). -/
theorem gate_of_predOk {p : Pred} {u : Uses} {early : Bool} {o : Slot} (hs : o.status = .idle ∨ o.status = .waiting)
    (hp : predOk p o.p = true) :
    gate p u early o = if u = .merge then mergeGate o else if o.cancelled then .cancel else operandGate u early o := by
  have here : ¬(o.status = .sent ∨ o.status = .done) := by
    rcases hs with h | h <;> simp [h]
  cases p with
  | always => simp [gate, here]
  | onTrue | onFalse =>
    rcases hv : o.p with _ | ⟨_ | _ | _⟩ <;> simp_all [gate, predOk]

theorem nulCompletes {a b : Target} {s : State} {c : Ctx} (h : Issues s c .always .none) :
    Completes (.nul a b) s c s a b (some .null) (some .null) := completes_of_fire rfl h (by decide) rfl

/-- A null that MOV takes stands on both targets, and the slot is done. -/
theorem exec_mov_null {p : Pred} {a b : Target} {s : State} {c : Ctx} (here : s.ctx = some c)
    (hs : c.o.status = .idle ∨ c.o.status = .waiting) (hc : c.o.cancelled = false) (hp : predOk p c.o.p = true)
    (hn : c.o.l = some .null) :
    exec (.mov p a b) s = .next ((s.setStatus c.k c.j .done).deliver2 c.k a b (some .null) (some .null)) := by
  have null : gate p .left false c.o = .null := by
    rw [gate_of_predOk hs hp]
    simp [hc, operandGate, usedOperands, hn]
  show Host.Outcome.next (fire p .left false a b noResolve (fun _ s l _ _ => .val s l) s) = _
  simp only [fire, here, null, noResolve]

/-- A NULL has all its operands when its block begins. -/
theorem gateAt_nul {b : BlockRun} {j : Nat} {x y : Target} (hi : b.instr j = some (.nul x y)) (ho : b.slots[j]? = some {}) :
    b.gateAt j = .go 0 0 0 := by
  rw [BlockRun.gateAt, hi, ho]; rfl

end Sys2Proof.Machine

namespace Sys2Proof

theorem fOp_or (w v : Word32) : fOp (w ||| v) = fOp w ||| fOp v := BitVec.extractLsb'_or
theorem fPr_or (w v : Word32) : fPr (w ||| v) = fPr w ||| fPr v := BitVec.extractLsb'_or
theorem fXop_or (w v : Word32) : fXop (w ||| v) = fXop w ||| fXop v := BitVec.extractLsb'_or

/-- NULL has no predicated form: a word of its row with PR set is refused at load (R120, LC7). -/
theorem decode_nul_predicated {w : Word32} (hop : fOp w = 0x04) (hx : fXop w = 1) (hp : fPr w ≠ 0) : ∃ e, decode w = .error e := by
  cases h : decode w with
  | error e => exact ⟨e, rfl⟩
  | ok i =>
    have refused : lc7 w = true := by simpa [lc7, hasPr, hop, hx, formatOf, notPredicable] using hp
    exact absurd (decode_eq_ok.1 h).1.predicable (by simp [refused])

end Sys2Proof

namespace Sys2Proof.Machine

theorem constantsComplete : Parts.ConstantsComplete := by
  refine ⟨fun p a b => sendsValue_value1 (fun _ => rfl) fun _ _ _ => rfl,
    fun p a b s c => exec_mov_null, fun x j a b => gateAt_nul, fun a b w pr hw hpr => ?_,
    fun imm a => sendsValue_of_fireVal (fun _ => rfl) (by decide),
    fun p imm a => sendsValue_value1 (fun _ => rfl) fun x _ _ => shiftLeft_or_eq_ofNat x imm, fun a b s c => nulCompletes⟩
  obtain rfl : encT2 0x04 0 1 b.bits a.bits = w := Option.some.inj hw
  have fields : fOp pr = 0 ∧ fXop pr = 0 ∧ fPr pr ≠ 0 := by rcases hpr with rfl | rfl | rfl <;> decide
  obtain ⟨op, xop, pred⟩ := fields
  exact decode_nul_predicated (by rw [fOp_or, fOp_encT2, op]; rfl) (by rw [fXop_or, fXop_encT2, xop]; rfl)
    (by rw [fPr_or, fPr_encT2]; exact fun h => pred (BitVec.zero_or.symm.trans h))

/-- Settles O1: each instruction runs the form of its operands, and the model's operation is the number that the rule names. -/
theorem constantsAndIntegersComplete : Obligations.ConstantsAndIntegersComplete := ⟨constantsComplete, integersComplete⟩

end Sys2Proof.Machine
end

section
/-! PROOF. CLZ, CTZ, POPC and the field instructions, bit by bit (R150). -/

namespace Sys2Proof.Machine

/-! ### Leading and trailing zeros -/

/-- Zeros counted down from bit n - 1 stop at the highest bit that is set. -/
theorem clzGo_of_top {x : Word} {i n : Nat} (hi : i < n) (isSet : x.getLsbD i = true)
    (above : ∀ j, i < j → j < n → x.getLsbD j = false) :
    clzGo x n = n - 1 - i := by
  induction n with
  | zero => cases hi
  | succ n ih =>
    rcases Nat.lt_succ_iff_lt_or_eq.1 hi with h | rfl
    · have isClear : x.getLsbD n = false := above n h (Nat.lt_succ_self n)
      rw [clzGo, isClear, if_neg (by decide), ih h fun j hij hj => above j hij (Nat.lt_succ_of_lt hj)]
      omega
    · simp [clzGo, isSet]

theorem clzGo_of_clear {x : Word} {n : Nat} (isClear : ∀ j, j < n → x.getLsbD j = false) : clzGo x n = n := by
  induction n with
  | zero => rfl
  | succ n ih =>
    rw [clzGo, isClear n (Nat.lt_succ_self n), if_neg (by decide), ih fun j hj => isClear j (Nat.lt_succ_of_lt hj)]

theorem clz_eq_log2 (x : Word) : clz x = BitVec.ofNat 64 (if x = 0 then 64 else 63 - Nat.log2 x.toNat) := by
  by_cases h : x = 0
  · rw [if_pos h, h, clz, clzGo_of_clear (x := 0) fun _ _ => BitVec.getLsbD_zero]
  · have h0 : x.toNat ≠ 0 := fun e => h (BitVec.eq_of_toNat_eq e)
    have top : Nat.log2 x.toNat < 64 := (Nat.log2_lt h0).2 x.isLt
    have above (j : Nat) (hj : Nat.log2 x.toNat < j) (_ : j < 64) : x.getLsbD j = false :=
      Nat.testBit_lt_two_pow ((Nat.log2_lt h0).1 hj)
    rw [if_neg h, clz, clzGo_of_top top (Nat.testBit_log2 h0) above]

theorem getLsbD_reverse_word (x : Word) {j : Nat} (hj : j < 64) : x.reverse.getLsbD j = x.getLsbD (63 - j) := by
  rw [BitVec.getLsbD_reverse, BitVec.getMsbD, decide_eq_true hj, Bool.true_and]

/-- The lowest bit of a word that is set is the highest one of its reverse. -/
theorem ctz_of_bottom {x : Word} {i : Nat} (hi : i < 64) (isSet : x.getLsbD i = true) (below : ∀ j, j < i → x.getLsbD j = false) :
    ctz x = BitVec.ofNat 64 i := by
  have top : x.reverse.getLsbD (63 - i) = true := by
    rw [getLsbD_reverse_word x (by omega), Nat.sub_sub_self (by omega), isSet]
  have above (j : Nat) (hij : 63 - i < j) (hj : j < 64) : x.reverse.getLsbD j = false := by
    rw [getLsbD_reverse_word x hj, below _ (by omega)]
  rw [ctz, clz, clzGo_of_top (by omega) top above, show 64 - 1 - (63 - i) = i by omega]

theorem ctz_zero : ctz 0 = 64 := by
  rw [ctz, clz, clzGo_of_clear fun j hj => (getLsbD_reverse_word 0 hj).trans BitVec.getLsbD_zero]; rfl

/-! ### Bits that are set -/

theorem popc_eq_countP (x : Word) : popc x = BitVec.ofNat 64 ((List.range 64).countP fun i => x.getLsbD i) := by
  rw [popc, List.countP_eq_length_filter]

/-- What meets one of two conditions or both is counted as often on either side. -/
theorem countP_and_add_countP_or {α : Type} (p q : α → Bool) (l : List α) :
    (l.countP fun a => p a && q a) + (l.countP fun a => p a || q a) = l.countP p + l.countP q := by
  induction l with
  | nil => rfl
  | cons a l ih =>
    simp only [List.countP_cons]
    cases p a <;> cases q a <;> simp <;> omega

theorem popc_and_add_popc_or (x y : Word) : popc (x &&& y) + popc (x ||| y) = popc x + popc y := by
  simp only [popc_eq_countP, BitVec.getLsbD_and, BitVec.getLsbD_or, ← BitVec.ofNat_add, countP_and_add_countP_or]

theorem countP_twoPow {i : Nat} (hi : i < 64) (l : List Nat) : (l.countP fun j => (BitVec.twoPow 64 i).getLsbD j) = l.count i :=
  List.countP_congr fun j _ => by
    rw [BitVec.getLsbD_twoPow, decide_eq_true hi, Bool.true_and, decide_eq_true_iff, beq_iff_eq, eq_comm]

theorem popc_twoPow {i : Nat} (hi : i < 64) : popc (BitVec.twoPow 64 i) = 1 := by
  rw [popc_eq_countP, countP_twoPow hi, List.nodup_range.count, if_pos (List.mem_range.2 hi)]; rfl

theorem popc_zero : popc 0 = 0 := by
  rw [popc_eq_countP, List.countP_eq_zero.2 fun _ _ => by simp]; rfl

/-! ### Fields -/

theorem getLsbD_keepLow (x : Word) (n : Nat) {i : Nat} (hi : i < 64) : (keepLow x n).getLsbD i = (decide (i < n) && x.getLsbD i) := by
  rw [keepLow, BitVec.getLsbD_ofNat, Nat.testBit_mod_two_pow, decide_eq_true hi, Bool.true_and]
  rfl

/-- The mask of n bits from bit p on. -/
theorem getLsbD_fieldMask (n p : Nat) {i : Nat} (hi : i < 64) :
    (BitVec.ofNat 64 ((2 ^ n - 1) * 2 ^ p)).getLsbD i = (decide (p ≤ i) && decide (i < p + n)) := by
  rw [BitVec.getLsbD_ofNat, Nat.testBit_mul_two_pow, Nat.testBit_two_pow_sub_one]
  simp only [hi, decide_true, Bool.true_and]
  by_cases h : p ≤ i
  · simp [h, Nat.sub_lt_iff_lt_add h, Nat.add_comm]
  · simp [h]

theorem getLsbD_bfx (x y : Word) {i : Nat} (hi : i < 64) : (bfx x y).getLsbD i =
    (decide (i < (if y.toNat / 256 % 64 = 0 then 64 else y.toNat / 256 % 64)) && x.getLsbD (i + y.toNat % 64)) := by
  rw [bfx, bits_length, bits_low6, getLsbD_keepLow _ _ hi, BitVec.getLsbD_ushiftRight, Nat.add_comm (y.toNat % 64) i]

theorem getLsbD_bfi (x y : Word) {i : Nat} (hi : i < 64) : (bfi x y).getLsbD i =
    if (y.toNat / 256 % 64 ≤ 48 ∧ y.toNat % 64 ≤ i ∧ i < y.toNat % 64 + y.toNat / 256 % 64)
    then y.getLsbD (16 + (i - y.toNat % 64)) else x.getLsbD i := by
  simp only [bfi, bits_length, bits_low6]
  generalize y.toNat % 64 = p
  generalize y.toNat / 256 % 64 = n
  by_cases kept : n = 0 ∨ 48 < n
  · rw [if_pos kept, if_neg (by omega)]
  · rw [if_neg kept]
    have inside : (n ≤ 48 ∧ p ≤ i ∧ i < p + n) ↔ (p ≤ i ∧ i < p + n) := by omega
    simp only [inside, BitVec.getLsbD_or, BitVec.getLsbD_and, BitVec.getLsbD_not, getLsbD_fieldMask n p hi, BitVec.getLsbD_shiftLeft,
      getLsbD_keepLow _ n (show i - p < 64 by omega), BitVec.getLsbD_ushiftRight, hi]
    by_cases field : p ≤ i ∧ i < p + n
    · obtain ⟨hp, hn⟩ := field
      simp [hp, hn, Nat.not_lt.2 hp, show i - p < n by omega]
    · have outside : (decide (p ≤ i) && decide (i < p + n)) = false := by simpa using field
      simp [outside, field]

/-- Settles O3, bit by bit. -/
theorem bitCounts : Obligations.BitCounts :=
  ⟨clz_eq_log2, fun _ _ hi isSet below => ctz_of_bottom hi isSet below, ctz_zero, popc_and_add_popc_or, popc_zero,
    fun _ hi => popc_twoPow hi, fun x y _ hi => getLsbD_bfx x y hi, fun x y _ hi => getLsbD_bfi x y hi⟩

end Sys2Proof.Machine
end

section
/-! PROOF. The immediate forms, the tests, SEL, LEA, and the scalar floating instructions (R149, R152 to R155). -/

namespace Sys2Proof.Machine

/-! ### Immediate forms, tests, SEL and LEA (R149, R152, R153) -/

theorem toInt_sext (imm : BitVec 15) : (sext imm).toInt = imm.toInt := BitVec.toInt_signExtend_of_le (by decide)

theorem testEq_eq_ite (x y : Word) : testEq x y = if x = y then 1 else 0 := boolWord_eq_ite beq_iff_eq

theorem testNe_eq_ite (x y : Word) : testNe x y = if x = y then 0 else 1 := by
  by_cases h : x = y <;> simp [testNe, boolWord, h]

theorem testLt_eq_ite (x y : Word) : testLt x y = if x.toInt < y.toInt then 1 else 0 := boolWord_eq_ite BitVec.slt_iff_toInt_lt

theorem testLe_eq_ite (x y : Word) : testLe x y = if x.toInt ≤ y.toInt then 1 else 0 := boolWord_eq_ite BitVec.sle_iff_toInt_le

theorem testLtu_eq_ite (x y : Word) : testLtu x y = if x.toNat < y.toNat then 1 else 0 := boolWord_eq_ite BitVec.ult_iff_toNat_lt

theorem testLeu_eq_ite (x y : Word) : testLeu x y = if x.toNat ≤ y.toNat then 1 else 0 := boolWord_eq_ite BitVec.ule_iff_toNat_le

theorem testBit_eq_ite (x y : Word) : testBit x y = if x.getLsbD (y.toNat % 64) then 1 else 0 := by
  rw [testBit, bits_low6, boolWord]

/-- An immediate is compared by its value: sign extension keeps it. -/
theorem testEq_sext (x : Word) (imm : BitVec 15) : testEq x (sext imm) = if x.toInt = imm.toInt then 1 else 0 := by
  simp only [testEq_eq_ite, ← toInt_sext, BitVec.toInt_inj]

theorem testLt_sext (x : Word) (imm : BitVec 15) : testLt x (sext imm) = if x.toInt < imm.toInt then 1 else 0 := by
  rw [testLt_eq_ite, toInt_sext]

theorem lea_eq_ofNat (l r : Word) (n : Nat) : l + r <<< n = BitVec.ofNat 64 (l.toNat + r.toNat * 2 ^ n) := by
  rw [BitVec.ofNat_add, ofNat_toNat_self, shiftLeft_eq_ofNat]

/-- Settles O4: each instruction runs the form of its operands, and each test is the comparison of numbers that it names. -/
theorem immediatesAndTestsComplete : Obligations.ImmediatesAndTestsComplete := by
  refine ⟨?addi, ?andi, ?ori, ?xori,
    fun p n a => sendsValue_value1 (fun _ => rfl) fun x _ _ => shiftLeft_eq_ofNat x n.toNat,
    fun p n a => sendsValue_value1 (fun _ => rfl) fun x _ _ => shiftRight_eq_ofNat x n.toNat,
    fun p n a => sendsValue_value1 (fun _ => rfl) fun x _ _ => sshiftRight_eq_ofInt x n.toNat,
    fun p imm a => sendsValue_value1 (fun _ => rfl) fun x _ _ => testEq_sext x imm,
    fun p imm a => sendsValue_value1 (fun _ => rfl) fun x _ _ => testLt_sext x imm,
    fun p a b => sendsValue_value2 (fun _ => rfl) fun x y _ => testEq_eq_ite x y,
    fun p a b => sendsValue_value2 (fun _ => rfl) fun x y _ => testNe_eq_ite x y,
    fun p a b => sendsValue_value2 (fun _ => rfl) fun x y _ => testLt_eq_ite x y,
    fun p a b => sendsValue_value2 (fun _ => rfl) fun x y _ => testLe_eq_ite x y,
    fun p a b => sendsValue_value2 (fun _ => rfl) fun x y _ => testLtu_eq_ite x y,
    fun p a b => sendsValue_value2 (fun _ => rfl) fun x y _ => testLeu_eq_ite x y,
    fun p a b => sendsValue_value2 (fun _ => rfl) fun x y _ => testBit_eq_ite x y,
    fun a b => sendsValue_value3 (fun _ => rfl) fun _ _ _ => rfl,
    fun p n a b => sendsValue_value2 (fun _ => rfl) fun l r _ => lea_eq_ofNat l r n.toNat⟩
  all_goals exact fun p imm a => sendsValue_value1 (fun _ => rfl) fun _ _ _ => rfl

/-! ### Floating instructions (R153 to R155) -/

/-- Each is its operation on decoded operands, rounded once where it is rounded at all. -/
theorem floatsComplete : Parts.FloatsComplete := by
  refine ⟨?fadd, ?fsub, ?fmul, ?fdiv, ?fsqrt, ?fmin, ?fmax, ?fceq, ?fclt, ?fcle, ?fclass,
    fun f a b => sendsValue_value3 (fun _ => rfl) fun _ _ _ => rfl⟩
  case fsqrt | fclass => exact fun p f a b => sendsValue_value1 (fun _ => rfl) fun _ _ _ => rfl
  all_goals exact fun p f a b => sendsValue_value2 (fun _ => rfl) fun _ _ _ => rfl

theorem fcvtCompletes : Parts.FcvtCompletes := by
  intro p f a b s c h
  constructor
  · intro zeros source
    refine completes_of_fire rfl h (by decide) ?_
    rw [if_neg (not_or_intro (not_not_intro zeros) source)]
    rfl
  · intro reserved early
    exact congrArg Host.Outcome.next (fire_faults h (by decide) (if_pos reserved) early)

/-- Settles O5: the operations on floating values, and the two answers of FCVT to its control word. -/
theorem floatingInstructionsComplete : Obligations.FloatingInstructionsComplete := ⟨floatsComplete, fcvtCompletes⟩

end Sys2Proof.Machine
end

section
/-! PROOF. YIELD, SELF, TAGGET, RCNT, RGN, STEER and MERGE (R147, R148, R160, R171, R173, R234, R236). -/

namespace Sys2Proof.Machine

/-! ### Control (R147, R148, R160, R171, R173) -/

/-- What SELF sends by its selector, F_ILLEGAL where it names nothing (R148). -/
theorem selfCompletes {p : Pred} {a b : Target} {s : State} {c : Ctx} (h : Issues s c p .left) :
    (opVal c.o.l = 0 → CompletesWith (.self p a b) s c s a b c.b.addr) ∧
    (opVal c.o.l = 1 → CompletesWith (.self p a b) s c s a b c.t.fp) ∧
    (opVal c.o.l = 2 → CompletesWith (.self p a b) s c s a b (BitVec.ofNat 64 s.colid.toNat)) ∧
    (opVal c.o.l = 3 → CompletesWith (.self p a b) s c s a b (BitVec.ofNat 64 ((s.task c.t.task).logPav c.t.pav % 16))) ∧
    (3 < (opVal c.o.l).toNat → c.b.performed = false →
      exec (.self p a b) s = .next (s.takeFault c.k ⟨{ code := .illegal }, c.b.addr, c.j⟩)) := by
  refine ⟨fun l => ?_, fun l => ?_, fun l => ?_, fun l => ?_, fun l early => ?unknown⟩
  case unknown =>
    have other (n : Word) (hn : n.toNat ≤ 3) : opVal c.o.l ≠ n := by
      rintro rfl
      exact absurd l (Nat.not_lt.2 hn)
    refine congrArg Host.Outcome.next (fire_faults h (by decide) ?_ early)
    rw [if_neg (other 0 (by decide)), if_neg (other 1 (by decide)), if_neg (other 2 (by decide)), if_neg (other 3 (by decide))]
  all_goals
    refine completes_of_fire rfl h (by decide) ?_
    simp [l, Eff.val]

theorem controlFires : Parts.ControlFires :=
  ⟨fun _ _ _ h => completes_of_fire rfl h (by decide) rfl,
    fun _ _ _ _ _ h => selfCompletes h,
    fun _ _ _ _ _ h => completes_of_fire rfl h (by decide) rfl,
    fun _ _ c h => completes_of_fire rfl h (by decide) (by rw [BitVec.ofNat_toNat]; rfl),
    fun _ _ _ _ _ _ h => completes_of_fire rfl h (by decide) rfl⟩

/-! ### STEER (R234) -/

theorem steerCompletes {a b : Target} {s : State} {c : Ctx} (h : Issues s c .always .three) (hr : (opVal c.o.r).toNat ≤ 1) :
    Completes (.steer a b) s c s a b
      (if (opVal c.o.p).getLsbD 0 then some (.value (opVal c.o.l)) else if opVal c.o.r = 1 then some .cancel else none)
      (if (opVal c.o.p).getLsbD 0 then (if opVal c.o.r = 1 then some .cancel else none) else some (.value (opVal c.o.l))) := by
  have kinds : opVal c.o.r = 0 ∨ opVal c.o.r = 1 := by
    rcases Nat.le_one_iff_eq_zero_or_eq_one.1 hr with e | e
    · exact .inl (BitVec.eq_of_toNat_eq e)
    · exact .inr (BitVec.eq_of_toNat_eq e)
  have zeros : bits (opVal c.o.r) 63 1 = 0 := by rcases kinds with e | e <;> rw [e] <;> rfl
  have cancels : (opVal c.o.r).getLsbD 0 = decide (opVal c.o.r = 1) := by rcases kinds with e | e <;> rw [e] <;> rfl
  refine completes_of_fire rfl h (by decide) ?_
  cases way : (opVal c.o.p).getLsbD 0 <;> simp only [zeros, cancels, way, bit, decide_eq_true_iff] <;> rfl

/-! ### MERGE (R236) -/

/-- A MERGE takes the value on either input, whatever but a value stands on the other (log 7). -/
theorem mergeGate_value {o : Slot} {v : Word}
    (h : (o.l = some (.value v) ∧ isValue o.r = false) ∨ (o.r = some (.value v) ∧ isValue o.l = false)) :
    mergeGate o = .go v 0 0 := by
  rcases h with ⟨hl, hr⟩ | ⟨hr, hl⟩
  · simp [mergeGate, hl]
  · rcases e : o.l with _ | ⟨_ | _ | _⟩ <;> simp_all [mergeGate, isValue]

theorem mergeCompletes {p : Pred} {a b : Target} {s : State} {c : Ctx} {v : Word} (here : s.ctx = some c)
    (hs : c.o.status = .idle ∨ c.o.status = .waiting) (hp : predOk p c.o.p = true) (intact : c.o.bad = false)
    (first : olderMerge c s = false)
    (h : (c.o.l = some (.value v) ∧ isValue c.o.r = false) ∨ (c.o.r = some (.value v) ∧ isValue c.o.l = false)) :
    CompletesWith (.merge p a b) s c s a b v := by
  intro t1 b1 b2 h1 h2 h3
  have go : gate p .merge false c.o = .go v 0 0 := (gate_of_predOk hs hp).trans (mergeGate_value h)
  show execMerge p a b s = _
  simp only [execMerge, here, go, fire, intact, first, Eff.val]
  exact congrArg Host.Outcome.next (applyEff_ok noResolve s h1 h2 h3)

theorem steeringCompletes : Parts.SteeringCompletes :=
  ⟨fun _ _ _ _ h hr => steerCompletes h hr, fun _ _ _ _ _ _ here hs hp intact first h => mergeCompletes here hs hp intact first h⟩

/-- Settles O8: YIELD to RGN by the rule of an instruction that fires; STEER by its two bits; MERGE by its gate. -/
theorem controlCompletes : Obligations.ControlCompletes := ⟨controlFires, steeringCompletes⟩

end Sys2Proof.Machine
end

section
/-! PROOF. The run of a vector instruction's result (R204): its bytes, and nothing else of the state. -/

namespace Sys2Proof.Machine

theorem writeRun_frame (c : Ctx) (s : State) (buf k : Nat) (d : List Byte) : writeRun c s buf k d =
    { s with mem := (writeRun c s buf k d).mem, poison := (writeRun c s buf k d).poison, migs := (writeRun c s buf k d).migs,
             lines := (writeRun c s buf k d).lines } := by
  unfold writeRun
  split <;> rfl

/-- A byte that no byte of the run is keeps its value. -/
theorem writeRun_read_other {c : Ctx} {s : State} {buf k : Nat} {d : List Byte} {a : Nat}
    (outside : ∀ id b o, s.bufOf c.t buf = some (id, b) → o < d.length → a ≠ b.byteKey true k o) :
    Memory.read (writeRun c s buf k d).mem a = Memory.read s.mem a := by
  unfold writeRun
  split
  · rfl
  · next id b hb =>
    refine s.performHome_read _ _ fun cell hcell => ?_
    obtain ⟨x, hx, rfl⟩ := List.mem_map.1 hcell
    exact Ne.symm (outside id b x.1 hb (List.mem_range.1 (List.of_mem_zip hx).1))

/-- Settles O28: the cells of the run are its bytes, and a write at home changes no other field. -/
theorem vectorResultFrame : Obligations.VectorResultFrame :=
  fun c s buf k d => ⟨writeRun_frame c s buf k d, fun _ => writeRun_read_other⟩

end Sys2Proof.Machine
end

section
/-! PROOF. GDEF, KPUT, KDEL, MDOM, ITBL, MTSR, RESUME and TLBI (R238, R244, R246, R247, R263, R269 to R271): a deferred instruction
behind its checks takes its entry once they pass. -/

namespace Sys2Proof.Machine

/-! ### Fields that reach an end of the word -/

theorem bits_from_zero (w : Word) (n : Nat) : bits w n 0 = w.toNat % 2 ^ (n + 1) := by
  rw [bits, Nat.pow_zero, Nat.div_one, Nat.sub_zero]

theorem bits_from_zero_of_lt {w : Word} {n : Nat} (h : w.toNat < 2 ^ (n + 1)) : bits w n 0 = w.toNat := by
  rw [bits_from_zero, Nat.mod_eq_of_lt h]

/-- The bits of a word from n on are clear where its number lies below 2^n. -/
theorem bits_to_top_of_lt {w : Word} {n : Nat} (h : w.toNat < 2 ^ n) : bits w 63 n = 0 := by
  rw [bits, Nat.div_eq_of_lt h, Nat.zero_mod]

/-! ### Entries behind checks -/

theorem deferEff_alone {c : Ctx} {s : State} (d : Deferred) (v : Option Word) (room : c.t.region.deferred.length < 32) :
    deferEff c s d v = .ok (s.deferred c d) (v.map Token.value) (v.map Token.value) :=
  deferEff_room d v (List.any_eq_false.2 fun _ _ => Bool.false_ne_true) room

/-- A deferred instruction whose checks pass takes its entry. -/
theorem defers_of_checked {i : Instr} {p : Pred} {u : Uses} {ta tb : Target} {f : Ctx → State → Word → Word → Word → Eff}
    {ok : State → Ctx → Prop} {d : State → Ctx → Deferred} {v : State → Ctx → Option Word}
    {checks : State → Ctx → List (Bool × FaultInfo)}
    (he : ∀ s, exec i s = fireDef p u ta tb f s) (hu : u ≠ .merge)
    (hf : ∀ s c, f c s (opVal c.o.l) (opVal c.o.r) (opVal c.o.p) = checked (checks s c) (deferEff c s (d s c) (v s c)))
    (pass : ∀ s c, ok s c → ∀ x ∈ checks s c, x.1 = false) : Defers i p u ta tb ok d v := by
  intro s c issues room good
  refine completes_of_fire (he s) issues hu ?_
  rw [hf, checked_pass (pass s c good), deferEff_alone _ _ room]

/-- KPUT takes the physical slots of its record at fire, once they are filled (R246, R247). -/
theorem kputCompletes {p : Pred} {s : State} {c : Ctx} {id : Nat} {b : BufRec} (issues : Issues s c p .both)
    (room : c.t.region.deferred.length < 32) (low : (vref (opVal c.o.l)).low = false)
    (control : ∀ x ∈ controlChecks c s (opVal c.o.r) false, x.1 = false) (fmt : (vref (opVal c.o.l)).fmt = .int8)
    (buf : s.bufOf c.t (vref (opVal c.o.l)).buf = some (id, b))
    (served : RunsServed c s [(vref (opVal c.o.l)).run (vref (opVal c.o.l)).len]) :
    Completes (.kput p) s c (s.deferred c { kind := .kput, l := opVal c.o.l, r := opVal c.o.r,
                                            x := (b.c + (vref (opVal c.o.l)).k) % b.count, y := id, buf := some b })
      .none .none none none := by
  obtain ⟨usable, ready, -⟩ := served _ (List.mem_singleton_self _)
  refine completes_of_fire rfl issues (by decide) ?_
  rw [checked_pass]
  · simp only [buf, ready, if_true]
    exact deferEff_alone _ none room
  · simp only [List.cons_append, List.forall_mem_cons, List.forall_mem_append]
    exact ⟨low, control, usable, by simp [fmt], nofun⟩

/-- RESUME tells whether the handle names a strand that it can continue (R270). -/
theorem resumeCompletes {p : Pred} {a : Target} {s : State} {c : Ctx} (issues : Issues s c p .both)
    (room : c.t.region.deferred.length < 32) (aligned : (opVal c.o.r).toNat % 4 = 0) (privileged : (s.task c.t.task).privileged = true) :
    CompletesWith (.resume p a) s c (s.deferred c { kind := .resume, l := opVal c.o.l, r := opVal c.o.r }) a .none
      (match (s.ofHandle (opVal c.o.l)).bind s.strand with
        | some t => if t.resumable (opVal c.o.r) then 1 else 0
        | none => 0) := by
  have align : bits (opVal c.o.r) 1 0 = 0 := (bits_from_zero _ _).trans aligned
  refine completes_of_fire rfl issues (by decide) ?_
  rw [checked_pass (by simp [align, privileged]), deferEff_alone _ _ room]
  rcases s.ofHandle (opVal c.o.l) with _ | k
  · rfl
  · cases h : s.strand k <;> simp [h, boolWord]

/-- Settles O17: each takes its entry once the checks of its rule pass; KPUT once its record is filled too, and RESUME with a result. -/
theorem tableAndSystemInstructionsDefer : Obligations.TableAndSystemInstructionsDefer := by
  refine ⟨fun p => defers_of_checked (fun _ => rfl) (by decide) (fun _ _ => rfl) ?gdef,
    fun _ _ _ _ _ issues room low control fmt buf served => kputCompletes issues room low control fmt buf served,
    fun p => defers_of_checked (fun _ => rfl) (by decide) (fun _ _ => rfl) ?kdel,
    fun p => defers_of_checked (fun _ => rfl) (by decide) (fun _ _ => rfl) fun _ _ pass => pass,
    fun p => defers_of_checked (fun _ => rfl) (by decide) (fun _ _ => rfl) ?itbl,
    fun p n => defers_of_checked (fun _ => rfl) (by decide) (fun _ _ => rfl) ?mtsr,
    fun _ _ _ _ issues room aligned privileged => resumeCompletes issues room aligned privileged,
    fun p => defers_of_checked (fun _ => rfl) (by decide) (fun _ _ => rfl) ?tlbi⟩
  case gdef =>
    intro s c ⟨fields, pairs⟩
    simp [fields, pairs]
  case kdel =>
    intro s c ⟨ctr, control⟩
    exact List.forall_mem_cons.2 ⟨by simp [bits_to_top_of_lt ctr], control⟩
  case itbl =>
    intro s c ⟨handle, table, zeros, invalid⟩
    have entry : bit (opVal c.o.r) 63 = false → bits (opVal c.o.r) 56 0 = 0 := fun h => by rw [invalid h]; rfl
    simpa [tableChecks, bits_to_top_of_lt handle, zeros, Nat.not_le.2 table] using entry
  case mtsr =>
    intro s c ⟨other, privileged⟩
    have writable : (n.toNat == 3) = false := beq_false_of_ne fun e => other (BitVec.eq_of_toNat_eq e)
    simp [writable, privileged]
  case tlbi =>
    intro s c ⟨high, low, control, aligned, page, space, task, register, privileged⟩
    have align : bits (opVal c.o.r) 2 0 = 0 := (bits_from_zero _ _).trans aligned
    simpa [high, low, bits_to_top_of_lt control, align, bit, privileged] using ⟨⟨space, task⟩, register, page⟩

end Sys2Proof.Machine
end

section
/-! PROOF. BUFINFO, WAITF, WAITE, GSEED, MATCH, MATCHC and ITPERM (R209, R239, R250, R251, R264): an instruction that asks completes,
waits in its slot, or leaves for its home. -/

namespace Sys2Proof.Machine

/-! ### A slot that waits, and one that has left -/

theorem BlockRun.awaits_waiting {b : BlockRun} {j : Nat} {o : Slot} (h : b.slots[j]? = some o) :
    (b.setStatus j .waiting).awaits = true := by
  obtain ⟨hj, -⟩ := List.getElem?_eq_some_iff.1 h
  exact List.any_eq_true.2 ⟨_, List.mem_set hj _, rfl⟩

/-- An instruction that waits for its effect leaves its slot waiting and its strand BLOCKED (R10). -/
theorem fire_waits {s : State} {c : Ctx} {p : Pred} {u : Uses} {early : Bool} {ta tb : Target} {res : Resolve}
    {f : Ctx → State → Word → Word → Word → Eff} (h : Issues s c p u) (hu : u ≠ .merge)
    (hf : f c s (opVal c.o.l) (opVal c.o.r) (opVal c.o.p) = .wait) : fire p u early ta tb res f s = s.waitsAt c := by
  obtain ⟨strand, block, slot⟩ := State.ctx_some h.1
  have waiting := State.strand_setStrand_same { c.t with block := some (c.b.setStatus c.j .waiting) } strand
  rw [fire_issues h hu, hf]
  simp only [applyEff, State.waitsAt, State.setStatus, State.modBlock_some _ strand block, State.settle, State.modStrand_some _ waiting,
    Strand.settled, Option.any_some, BlockRun.awaits_waiting slot, if_true]

/-- An instruction that is sent to another unit has left its slot, and its event is in flight. -/
theorem fire_sent {s s1 : State} {c : Ctx} {p : Pred} {u : Uses} {early : Bool} {ta tb : Target} {res : Resolve}
    {f : Ctx → State → Word → Word → Word → Eff} {e : Instr} (h : Issues s c p u) (hu : u ≠ .merge)
    (hf : f c s (opVal c.o.l) (opVal c.o.r) (opVal c.o.p) = .sent (s1.push e)) :
    fire p u early ta tb res f s = s1.sentAt c e := by
  rw [fire_issues h hu, hf]
  rfl

/-! ### Buffers and generators (R209, R239) -/

/-- A descriptor index that names a buffer reaches it (R202). -/
theorem withBuf_some {c : Ctx} {s : State} {l : Word} {id : Nat} {b : BufRec} (f : Nat → BufRec → Eff) (index : l.toNat < 32)
    (hb : s.bufOf c.t l.toNat = some (id, b)) : withBuf c s l f = f id b := by
  have zeros : bits l 63 5 = 0 := bits_to_top_of_lt index
  have low : bits l 4 0 = l.toNat := bits_from_zero_of_lt index
  rw [withBuf, if_neg (not_not_intro zeros), low, hb]

/-- A legal wait sends the count once it reaches the number asked for, and its slot waits till then (R209). -/
theorem waitCount_answers {i : Instr} {cnt : BufRec → Nat} {p : Pred} {a b : Target} {s : State} {c : Ctx} {id : Nat} {bf : BufRec}
    (he : exec i s = waitCount p a b cnt s) (issues : Issues s c p .both) (index : (opVal c.o.l).toNat < 32)
    (asked : (opVal c.o.r).toNat ≤ bf.count) (field : (opVal c.o.r).toNat < 65536)
    (buf : s.bufOf c.t (opVal c.o.l).toNat = some (id, bf)) :
    ((opVal c.o.r).toNat ≤ cnt bf → CompletesWith i s c s a b (BitVec.ofNat 64 (cnt bf))) ∧
    (cnt bf < (opVal c.o.r).toNat → exec i s = .next (s.waitsAt c)) := by
  have legal : ¬(bits (opVal c.o.l) 63 5 ≠ 0 ∨ bits (opVal c.o.r) 63 16 ≠ 0) :=
    not_or_intro (not_not_intro (bits_to_top_of_lt index)) (not_not_intro (bits_to_top_of_lt field))
  have number : bits (opVal c.o.r) 15 0 = (opVal c.o.r).toNat := bits_from_zero_of_lt field
  refine ⟨fun enough => completes_of_fire he issues (by decide) ?reached,
    fun short => he.trans (congrArg Host.Outcome.next (fire_waits issues (by decide) ?notYet))⟩
  all_goals rw [if_neg legal, withBuf_some _ index buf, number, if_neg (Nat.not_lt.2 asked)]
  case reached => rw [if_pos enough]; rfl
  case notYet => exact if_neg (Nat.not_le.2 short)

theorem bufferQueriesComplete : Parts.BufferQueriesComplete := by
  refine ⟨?bufinfo, ?waits, ?gseed⟩
  case bufinfo =>
    intro p a b s c id bf issues index buf
    refine completes_of_fire rfl issues (by decide) ?_
    rw [withBuf_some _ index buf]
    rfl
  case waits =>
    intro p a b s c id bf issues index asked field buf
    obtain ⟨filled, short⟩ := waitCount_answers (i := .waitf p a b) (cnt := BufRec.filled) rfl issues index asked field buf
    obtain ⟨free, -⟩ := waitCount_answers (i := .waite p a b) (cnt := BufRec.room) rfl issues index asked field buf
    exact ⟨filled, short, free⟩
  case gseed =>
    intro p a b s c g issues index gen
    have zeros : bits (opVal c.o.l) 63 4 = 0 := bits_to_top_of_lt index
    have low : bits (opVal c.o.l) 3 0 = (opVal c.o.l).toNat := bits_from_zero_of_lt index
    refine completes_of_fire rfl issues (by decide) ?_
    rw [if_neg (not_not_intro zeros), low, gen]
    rfl

/-! ### Queries and permutations (R250, R251, R264) -/

/-- A query that its checks accept, with its key there and, where it consumes, what a boundary instruction waits for come, is put to the
arbiter of its domain. -/
theorem exec_query_sent {i : Instr} {consume : Bool} {a b : Target} {s : State} {c : Ctx} {v : VRef}
    (he : exec i s = queryFire consume a b s) (issues : Issues s c .always .three) (hv : v = vref (opVal c.o.l))
    (low : v.low = false) (zeros : bits (opVal c.o.r) 27 0 = 0) (kind : bits (opVal c.o.r) 49 48 ≠ 3)
    (dom : bits (opVal c.o.r) 63 56 < bits (s.sysFor c.t).mdt 8 0) (dst : ∃ x, s.bufOf c.t (bits (opVal c.o.r) 47 43) = some x)
    (temp : tempBad (bits (opVal c.o.p) 63 32) = false) (served : RunsServed c s [v.run v.len])
    (ready : consume = true → boundaryReady c s = true) {q : Query} (hq : q =
      { task := c.t.task, strand := c.k, slot := c.j, block := c.b.addr, tag := c.t.region.tag, consume := consume,
        r := opVal c.o.r, third := opVal c.o.p, fmt := v.fmt.tag, len := v.len,
        bytes := readRun c s v.buf v.k (runBytes v.fmt v.len) }) :
    exec i s =
      .next (State.sentAt { s with queries := s.queries.put s.queries.fresh q } c (.domainGrant s.queries.fresh)) := by
  subst hv hq
  obtain ⟨usable, filled, clean⟩ := served _ (List.mem_singleton_self _)
  obtain ⟨x, hx⟩ := dst
  have poison : runPoisoned c s ((vref (opVal c.o.l)).run (vref (opVal c.o.l)).len) = false := by simpa [VRef.run] using clean
  have boundary : (consume && !boundaryReady c s) = false := by
    cases consume
    · rfl
    · simp [ready rfl]
  refine he.trans (congrArg Host.Outcome.next (fire_sent issues (by decide) ?_))
  rw [checked_pass ?pass]
  case pass => simp [low, zeros, kind, domBad, dom, usable, hx, temp]
  simp only [filled, poison, boundary, Bool.not_true, Bool.or_false, Bool.false_eq_true, if_false]

theorem queriesLeave : Parts.QueriesLeave := by
  constructor
  · rintro a b s c v issues hv low zeros kind dom dst temp served q rfl
    exact ⟨exec_query_sent (consume := false) rfl issues hv low zeros kind dom dst temp served nofun rfl,
      fun ready => exec_query_sent (consume := true) rfl issues hv low zeros kind dom dst temp served (fun _ => ready) rfl⟩
  · intro p a b s c issues handle table aligned usable ready
    refine congrArg Host.Outcome.next (fire_sent issues (by decide) ?_)
    rw [checked_pass ?pass]
    case pass => simp [tableChecks, bits_to_top_of_lt handle, Nat.not_le.2 table, State.accessChecks, alignCheck, usable, aligned]
    simp only [usable, ready, if_true]

/-- Settles O24: what a buffer or a generator answers, the slot that waits for a count, and the three that leave for their homes. -/
theorem queriesLeaveAndComplete : Obligations.QueriesLeaveAndComplete := ⟨bufferQueriesComplete, queriesLeave⟩

end Sys2Proof.Machine
end

section
/-! PROOF. The other vector instructions, MATCHB and TOPK (R205, R215, R216, R218, R220 to R223, R260, R261): each is the frame of
`vecEff` around its own elements. -/

namespace Sys2Proof.Machine

/-- A vector instruction whose runs are served completes with the result and the token of its effect (R204, R205). -/
theorem completes_of_vecEff {i : Instr} {p : Pred} {u : Uses} {a b : Target} {f : Ctx → State → Word → Word → Word → Eff}
    {s s1 : State} {c : Ctx} {ill fmtBad : Bool} {runs : List Run} {e : Unit → Eff} {v : Word} (he : exec i s = fireEff p u a b f s)
    (issues : Issues s c p u) (hu : u ≠ .merge)
    (hf : f c s (opVal c.o.l) (opVal c.o.r) (opVal c.o.p) = vecEff c s ill fmtBad runs e)
    (legal : ill = false) (fmtOk : fmtBad = false) (served : RunsServed c s runs) (done : e () = .val s1 v) :
    CompletesWith i s c s1 a b v :=
  completes_of_fire he issues hu (hf.trans ((vecEff_served e legal fmtOk served).trans done))

/-- LENMIS, as the machine computes it (R205). -/
theorem bne_eq_decide_ne (m n : Nat) : (m != n) = decide (m ≠ n) := Bool.eq_iff_iff.2 (by simp)

theorem lenmis_of_three (l m n : Nat) : (!(l == m && l == n)) = decide (¬(l = m ∧ l = n)) := Bool.eq_iff_iff.2 (by simp)

/-! ### VFMA, VCVT, VSEL, VCMP and VSHR (R215, R216, R218) -/

theorem vectorControlsComplete : Parts.VectorControlsComplete := by
  refine ⟨?vfma, ?vcvt, ?vsel, ?vcmp, ?vshr⟩
  case vfma =>
    rintro a b s c _ _ _ n issues rfl rfl rfl rfl low ctl ctl' fmt fmt' arith served
    refine completes_of_vecEff rfl issues (by decide) rfl (by simp [low, ctl, ctl']) (by simp [← fmt, ← fmt', arith]) served ?_
    rw [← lenmis_of_three]
    rfl
  case vcvt =>
    rintro p a b s c _ _ issues rfl rfl low control served
    exact completes_of_vecEff rfl issues (by decide) rfl (by simp [low, bits_to_top_of_lt (n := 4) control]) rfl served rfl
  case vsel =>
    rintro p a b s c _ _ _ _ issues rfl rfl rfl rfl low low' fmt served
    refine completes_of_vecEff rfl issues (by decide) rfl (by simp [low, low']) (by simp [fmt]) served ?_
    rw [← bne_eq_decide_ne]
    rfl
  case vcmp =>
    rintro p a b s c _ _ _ _ issues rfl rfl rfl rfl low op fmt arith unsigned served
    refine completes_of_vecEff rfl issues (by decide) rfl (by simp [low, op]) (by simpa [← fmt, arith] using unsigned) served ?_
    rw [← bne_eq_decide_ne]
    rfl
  case vshr =>
    rintro p a b s c _ _ _ issues rfl rfl rfl low ctl fmt fmt' served
    rw [← bne_eq_decide_ne]
    simp only [← Nat.shiftRight_eq_div_pow]
    refine completes_of_vecEff rfl issues (by decide) rfl (by simp [low, ctl]) (by simp [fmt, fmt']) (fmt.symm ▸ served) ?_
    simp [vecDone, fmt]

/-! ### VSCAN, VPERM, VBCAST and VISECT (R220 to R223) -/

/-- One past the last index that a condition picks out of a list (R221). -/
theorem foldl_last {picked : Int → Prop} [DecidablePred picked] {l : List Int} {m n : Nat} (hm : m ≤ n)
    (below : ∀ i ∈ l, picked i → i.toNat < n) (attained : n = m ∨ ∃ i ∈ l, picked i ∧ n = i.toNat + 1) :
    l.foldl (fun m i => if picked i then Nat.max m (i.toNat + 1) else m) m = n := by
  induction l generalizing m with
  | nil => exact (attained.resolve_right (by simp)).symm
  | cons x t ih =>
    obtain ⟨hx, ht⟩ := List.forall_mem_cons.1 below
    simp only [List.mem_cons, exists_eq_or_imp] at attained
    rw [List.foldl_cons]
    split
    · next h =>
      have hx := hx h
      have bound : Nat.max m (x.toNat + 1) ≤ n := Nat.max_le.2 ⟨hm, hx⟩
      refine ih bound ht ?_
      rcases attained with e | ⟨-, e⟩ | later
      · exact .inl (Nat.le_antisymm (e ▸ Nat.le_max_left ..) bound)
      · exact .inl (Nat.le_antisymm (e ▸ Nat.le_max_right ..) bound)
      · exact .inr later
    · next h => exact ih hm ht (attained.imp_right fun e => e.resolve_left fun e => h e.1)

theorem vectorSequencesComplete : Parts.VectorSequencesComplete := by
  refine ⟨?vscan, ?vperm, ?vbcast, ?visect⟩
  case vscan =>
    rintro p a b s c _ issues rfl low arith served
    exact completes_of_vecEff rfl issues (by decide) rfl low (by simp [arith]) served rfl
  case vperm =>
    rintro p a b s c _ _ idx issues rfl rfl low ctl fmt served hidx named n below attained
    refine completes_of_vecEff rfl issues (by decide) rfl (by simp [low, ctl]) (by simp [fmt]) served ?_
    simp only [← hidx]
    have last := foldl_last (Nat.zero_le n) below (by simpa only [and_assoc] using attained)
    rw [if_neg ?ready, if_neg ?clean]
    case ready => simpa using fun i hi low high => (named i hi ⟨low, high⟩).1
    case clean => simpa using fun i hi low high => (named i hi ⟨low, high⟩).2
    have oor (i : Int) : (!(decide (0 ≤ i) && decide (i < (vref (opVal c.o.l)).len))) =
        decide (¬(0 ≤ i ∧ i < (vref (opVal c.o.l)).len)) := by rw [decide_not, Bool.decide_and]
    simp only [Bool.and_eq_true, decide_eq_true_eq, last, oor, bne_eq_decide_ne]
    rfl
  case vbcast =>
    rintro p a b s c _ issues rfl low buf k served
    exact completes_of_vecEff rfl issues (by decide) rfl (by simp [low, buf, k]) rfl served rfl
  case visect =>
    rintro p a b s c _ _ out order issues rfl rfl low ctl fmt kind served walk usable free
    refine completes_of_vecEff rfl issues (by decide) rfl (by simp [low, ctl]) ?_ served ?_
    · rcases kind with e | e <;> simp [e, ← fmt]
    · simp only [walk, usable, free, ← bne_eq_decide_ne]
      rfl

/-- Settles O26: each instruction by its legal operands and its served runs; VPERM by the last index in range. -/
theorem vectorOthersComplete : Obligations.VectorOthersComplete := ⟨vectorControlsComplete, vectorSequencesComplete⟩

/-! ### MATCHB and TOPK (R260, R261) -/

/-- The first K of a list that is no longer than K are all of it, in order, whatever K is. -/
theorem firstK_of_short {α : Type} (before : α → α → Bool) {k m : Nat} {l : List α} (hk : l.length ≤ k) (hm : l.length ≤ m) :
    firstK before k l = firstK before m l := by
  induction l using concat_induction with
  | nil => rfl
  | concat l x ih =>
    rw [List.length_append, List.length_singleton] at hk hm
    have whole {n : Nat} (hn : l.length + 1 ≤ n) : (insertBy before x (firstK before n l)).length ≤ n := by
      rw [length_insertBy, length_firstK]
      omega
    rw [firstK_concat, firstK_concat, List.take_of_length_le (whole hk), List.take_of_length_le (whole hm),
      ih (Nat.le_of_succ_le hk) (Nat.le_of_succ_le hm)]

theorem length_elems (c : Ctx) (s : State) (v : VRef) (n : Nat) : (elems c s v n).length = n := by
  unfold elems unpack
  split <;> simp

theorem topElems_min (f : Fmt) (k : Nat) (l : List Nat) : topElems f (min k l.length) l = topElems f k l := by
  rcases Nat.le_total k l.length with h | h
  · rw [Nat.min_eq_left h]
  · rw [Nat.min_eq_right h]
    exact firstK_of_short _ (by simp) (by simpa using h)

/-- Settles O27: MATCHB by its operands; TOPK by the elements it has, where they are fewer than K. -/
theorem selectionCompletes : Obligations.SelectionCompletes := by
  refine ⟨?matchb, ?topk⟩
  case matchb =>
    rintro p a b s c _ _ _ _ _ issues rfl rfl rfl rfl rfl low ctl whole len fmt fmt' served
    refine completes_of_vecEff rfl issues (by decide) rfl ?_ (by simp [fmt, fmt']) served ?_
    · have rows : roundUp ((vref (opVal c.o.r)).ctl % 256 + 1) 16 = ((vref (opVal c.o.r)).ctl % 256 + 1 + 15) / 16 * 16 := rfl
      simp [low, ctl, rows, whole, len]
    · rw [← bne_eq_decide_ne]
      rfl
  case topk =>
    rintro p a b s c _ _ issues rfl rfl low one most elements kind served
    have field : bits (opVal c.o.r) 8 0 = (opVal c.o.r).toNat := bits_from_zero_of_lt (by omega)
    have zeros : bits (opVal c.o.r) 63 9 = 0 := bits_to_top_of_lt (by omega)
    rw [← field] at one most served ⊢
    have top := topElems_min (vref (opVal c.o.l)).fmt (bits (opVal c.o.r) 8 0) (elems c s (vref (opVal c.o.l)) (vref (opVal c.o.l)).len)
    rw [length_elems] at top
    rw [top]
    refine completes_of_vecEff rfl issues (by decide) rfl ?_ ?_ served rfl
    · have positive : bits (opVal c.o.r) 8 0 ≠ 0 := by omega
      simp [low, zeros, positive, most, elements]
    · rcases kind with e | e | e | e <;> rw [e] <;> rfl

end Sys2Proof.Machine
end

section
/-! PROOF. The place an insertion takes, what it writes there, and when it is refused (R247, R367, R376). -/

namespace Sys2Proof.Machine

/-! ### The least of a list -/

/-- The first of a list in an order is the element that comes before all others. -/
theorem firstK_one_of_least {α : Type} {before : α → α → Bool} {l : List α} {e : α} (he : e ∈ l)
    (least : ∀ x ∈ l, x ≠ e → before e x = true ∧ before x e = false) : firstK before 1 l = [e] := by
  induction l using concat_induction with
  | nil => cases he
  | concat l x ih =>
    have leastL : ∀ y ∈ l, y ≠ e → before e y = true ∧ before y e = false := fun y hy => least y (List.mem_append_left _ hy)
    rw [firstK_concat]
    by_cases here : e ∈ l
    · rw [ih here leastL]
      by_cases hx : x = e
      · subst hx
        by_cases h : before x x = true <;> simp [insertBy, h]
      · simp [insertBy, (least x (by simp) hx).2]
    · obtain rfl : e = x := by simpa [here] using he
      cases first : firstK before 1 l with
      | nil => rfl
      | cons y t =>
        have hy : y ∈ l := mem_of_mem_firstK (first ▸ List.mem_cons_self)
        have earlier : before e y = true := (leastL y hy (ne_of_mem_of_not_mem hy here)).1
        simp [insertBy, earlier]

/-! ### The place of an insertion (R247) -/

/-- The place that an insertion takes: the lowest free one, or else that of the first entry to be replaced. -/
def State.insertPlace (s : State) (st : Store) (tag : Word) : Option Nat :=
  ((List.range st.cap).find? fun x => (s.entry st x).isNone && !s.entryLost st x).or
    ((firstK (fun (a b : Entry) => a.ctr < b.ctr) 1
      ((s.entries st).filter fun e => !e.timely tag && e.resv == 0)).head?.map (·.place))

section

variable {s : State} {st : Store} {m : KputMsg}

theorem State.insertEntry_of_place {x : Nat} (good : kputBad m st.geom = false) (left : st.counter ≠ 2 ^ 24)
    (place : s.insertPlace st m.tag = some x) :
    s.insertEntry st m = (0, st.store * 2 ^ 24 + st.counter,
      (s.writeHome (st.key x) (m.data.take 15 ++ [1] ++ (m.data.drop 16).take 2 ++ toLe 3 st.counter ++ List.replicate 11 0 ++
        m.data.drop 32)).setStore st fun y => { y with counter := y.counter + 1 }) := by
  rw [State.insertPlace] at place
  simp only [State.insertEntry, good, left, place, Bool.false_eq_true, if_false]

theorem State.insertEntry_full (good : kputBad m st.geom = false) (left : st.counter ≠ 2 ^ 24)
    (place : s.insertPlace st m.tag = none) : s.insertEntry st m = (1, 0, s) := by
  rw [State.insertPlace] at place
  simp only [State.insertEntry, good, left, place, Bool.false_eq_true, if_false]

theorem State.insertEntry_wrapped (good : kputBad m st.geom = false) (out : st.counter = 2 ^ 24) : s.insertEntry st m = (2, 0, s) := by
  simp only [State.insertEntry, good, out, Bool.false_eq_true, if_false, if_true]

/-- A record as R246 has it, for the store's geometry. -/
theorem kputBad_of_fields {g : Geom} (len : m.len = g.e) (state : leNat ((m.data.drop 15).take 1) = 0)
    (zeros : leNat ((m.data.drop 18).take 14) = 0) (bound : leNat ((m.data.drop 16).take 2) < 4096)
    (lvl : leNat ((m.data.drop 14).take 1) ≤ 5) (val : g.vkind = 1 → leNat (m.data.take 8) = 0) : kputBad m g = false := by
  simpa [kputBad, len, state, zeros, Nat.not_le.2 bound, Nat.not_lt.2 lvl] using val

theorem State.entryLost_of_whole (whole : s.entriesLost st = false) {x : Nat} (hx : x < st.cap) : s.entryLost st x = false := by
  simpa using List.any_eq_false.1 whole x (List.mem_range.2 hx)

theorem State.find_free_none (taken : ∀ y, y < st.cap → s.entry st y ≠ none) :
    ((List.range st.cap).find? fun x => (s.entry st x).isNone && !s.entryLost st x) = none := by
  rw [List.find?_eq_none]
  intro y hy
  simp [taken y (List.mem_range.1 hy)]

theorem State.insertPlace_free (whole : s.entriesLost st = false) {x : Nat} (hx : x < st.cap) (free : s.entry st x = none)
    (taken : ∀ y, y < x → s.entry st y ≠ none) (tag : Word) : s.insertPlace st tag = some x := by
  have found : ((List.range st.cap).find? fun x => (s.entry st x).isNone && !s.entryLost st x) = some x := by
    rw [List.find?_range_eq_some]
    refine ⟨by simp [free, State.entryLost_of_whole whole hx], List.mem_range.2 hx, fun y hy => ?_⟩
    simp [Option.isSome_iff_ne_none.2 (taken y hy)]
  simp [State.insertPlace, found]

theorem State.insertPlace_expired (taken : ∀ y, y < st.cap → s.entry st y ≠ none) {e : Entry} {tag : Word} (he : e ∈ s.entries st)
    (expired : e.timely tag = false) (unreserved : e.resv = 0)
    (least : ∀ e' ∈ s.entries st, e'.timely tag = false → e'.resv = 0 → e' ≠ e → e.ctr < e'.ctr) :
    s.insertPlace st tag = some e.place := by
  have first : firstK (fun (a b : Entry) => decide (a.ctr < b.ctr)) 1
      ((s.entries st).filter fun e => !e.timely tag && e.resv == 0) = [e] := by
    refine firstK_one_of_least (by simp [he, expired, unreserved]) fun x hx other => ?_
    obtain ⟨hx, dead⟩ := List.mem_filter.1 hx
    obtain ⟨late, loose⟩ : x.timely tag = false ∧ x.resv = 0 := by simpa using dead
    have lower := least x hx late loose other
    exact ⟨by simpa using lower, by simpa using Nat.le_of_lt lower⟩
  simp [State.insertPlace, State.find_free_none taken, first]

theorem State.insertPlace_full (taken : ∀ y, y < st.cap → s.entry st y ≠ none) {tag : Word}
    (kept : ∀ e ∈ s.entries st, e.timely tag = true ∨ e.resv ≠ 0) : s.insertPlace st tag = none := by
  have nothing : ((s.entries st).filter fun e => !e.timely tag && e.resv == 0) = [] := by
    rw [List.filter_eq_nil_iff]
    intro e he
    rcases kept e he with timely | reserved
    · simp [timely]
    · simp [reserved]
  simp [State.insertPlace, State.find_free_none taken, nothing, firstK]

/-- A record's bytes reach no further than its head of 32 bytes and its key and vector. -/
theorem length_record_le (d : List Byte) (ctr : Nat) :
    (d.take 15 ++ [1] ++ (d.drop 16).take 2 ++ toLe 3 ctr ++ List.replicate 11 0 ++ d.drop 32).length ≤ 32 + (d.drop 32).length := by
  simp only [List.length_append, List.length_take, length_toLe, List.length_replicate, List.length_singleton]
  omega

end

/-- Settles O45, by the place that the insertion takes. -/
theorem insertionTakesPlace : Obligations.InsertionTakesPlace := by
  intro s st m len state zeros bound lvl val whole
  have good : kputBad m st.geom = false := kputBad_of_fields len state zeros bound lvl val
  refine ⟨State.insertEntry_wrapped good, fun x left place => ?_, fun left taken kept => ?_⟩
  · have taken : s.insertPlace st m.tag = some x := by
      rcases place with ⟨hx, free, below⟩ | ⟨taken, e, he, rfl, expired, unreserved, least⟩
      · exact State.insertPlace_free whole hx free below m.tag
      · exact State.insertPlace_expired taken he expired unreserved least
    have result := State.insertEntry_of_place good left taken
    refine ⟨result, fun a outside => ?_⟩
    have short := length_record_le m.data st.counter
    rw [result]
    exact s.writeHome_read _ _ (outside.imp_right fun h => Nat.le_trans (Nat.add_le_add_left short _) h)
  · exact State.insertEntry_full good left (State.insertPlace_full taken kept)

end Sys2Proof.Machine
end

section
/-! PROOF. What needs a privileged task takes F_PROTECT in any other (R269, R270, R271, R273). -/

namespace Sys2Proof.Machine

/-- The first check that fails, behind others that pass, raises its fault (R427). -/
theorem checked_behind {cs : List (Bool × FaultInfo)} (pass : ∀ x ∈ cs, x.1 = false) (f : FaultInfo) (rest : List (Bool × FaultInfo))
    (e : Eff) : checked (cs ++ (true, f) :: rest) e = .fault f := by
  have first : firstFault (cs ++ (true, f) :: rest) = some f := by
    induction cs with
    | nil => rfl
    | cons x cs ih =>
      obtain ⟨hx, pass⟩ := List.forall_mem_cons.1 pass
      rw [List.cons_append, firstFault, hx]
      exact ih pass
  rw [checked, first]

section

variable {p : Pred} {a : Target} {s : State} {c : Ctx}

theorem exec_mtsr_protected {n : BitVec 11} (issues : Issues s c p .left) (early : c.b.performed = false)
    (refused : n = 3 ∨ (s.task c.t.task).privileged = false) :
    exec (.mtsr p n) s = .next (s.takeFault c.k ⟨{ code := .protect }, c.b.addr, c.j⟩) := by
  have check : (n.toNat == 3 || !(s.task c.t.task).privileged) = true := by
    rcases refused with rfl | user
    · rfl
    · rw [user, Bool.not_false, Bool.or_true]
  refine congrArg _ (fire_faults issues (by decide) ?_ early)
  rw [check]
  exact checked_behind (cs := []) nofun _ _ _

section

variable (early : c.b.performed = false) (user : (s.task c.t.task).privileged = false)
include early user

theorem exec_mfsr_protected {n : BitVec 11} (issues : Issues s c p .none) (hn : n = 4 ∨ n = 0x10 ∨ n = 0x11 ∨ n = 0x30) :
    exec (.mfsr p n a) s = .next (s.takeFault c.k ⟨{ code := .protect }, c.b.addr, c.j⟩) := by
  have priv : mfsrPriv n.toNat = true := by rcases hn with rfl | rfl | rfl | rfl <;> rfl
  refine congrArg _ (fire_faults issues (by decide) ?_ early)
  rw [priv, user]
  exact checked_behind (cs := []) nofun _ _ _

theorem exec_resume_protected (issues : Issues s c p .both) (aligned : (opVal c.o.r).toNat % 4 = 0) :
    exec (.resume p a) s = .next (s.takeFault c.k ⟨{ code := .protect }, c.b.addr, c.j⟩) := by
  have align : bits (opVal c.o.r) 1 0 = 0 := (bits_from_zero _ _).trans aligned
  refine congrArg _ (fire_faults issues (by decide) ?_ early)
  rw [user]
  exact checked_behind (cs := [_]) (by simp [align]) _ _ _

theorem exec_idle_protected (issues : Issues s c p .none) (unanswered : isValue c.o.l = false) :
    exec (.idle p a) s = .next (s.takeFault c.k ⟨{ code := .protect }, c.b.addr, c.j⟩) := by
  refine congrArg _ (fire_faults issues (by decide) ?_ early)
  split
  · next v here => rw [here] at unanswered; cases unanswered
  · rw [user]
    exact checked_behind (cs := []) nofun _ _ _

/-- TLBI meets the check of privilege last (R271, R427). -/
theorem exec_tlbi_protected (issues : Issues s c p .both) (high : bits (opVal c.o.l) 61 57 = 0) (low : bits (opVal c.o.l) 11 0 = 0)
    (control : (opVal c.o.r).toNat < 2 ^ 12) (aligned : (opVal c.o.r).toNat % 8 = 0)
    (register : bit (opVal c.o.r) 3 = true → bits (opVal c.o.r) 10 4 < (s.task c.t.task).desc.regs)
    (page : bits (opVal c.o.l) 63 62 = 1 → bits (opVal c.o.l) 20 12 = 0)
    (space : bits (opVal c.o.l) 63 62 = 2 → bits (opVal c.o.l) 56 12 = 0)
    (task : bits (opVal c.o.l) 63 62 = 3 → bits (opVal c.o.l) 56 24 = 0) :
    exec (.tlbi p) s = .next (s.takeFault c.k ⟨{ code := .protect }, c.b.addr, c.j⟩) := by
  have align : bits (opVal c.o.r) 2 0 = 0 := (bits_from_zero _ _).trans aligned
  refine congrArg _ (fire_faults issues (by decide) ?_ early)
  rw [user]
  refine checked_behind (cs := [_, _, _]) ?_ _ _ _
  simpa [high, low, bits_to_top_of_lt control, align] using ⟨⟨space, task⟩, register, page⟩

end

end

theorem bit_three_iff (w : Word) : bit w 3 = true ↔ w.toNat / 8 % 2 = 1 := by
  rw [bit, BitVec.getLsbD, Nat.testBit_eq_decide_div_mod_eq, decide_eq_true_iff]

/-- The kind of a TLBI stands in the top bits of its operand (R271). -/
theorem bits_top_two (w : Word) : bits w 63 62 = w.toNat / 2 ^ 62 := Nat.mod_eq_of_lt (by omega)

theorem toNat_two_pow (n : Nat) : ((2 : Word) ^ n).toNat = 2 ^ n % 2 ^ 64 := by
  induction n with
  | zero => rfl
  | succ n ih =>
    have step : (2 : Word) ^ (n + 1) = 2 ^ n * 2 := rfl
    rw [step, BitVec.toNat_mul, ih, Nat.pow_succ, Nat.mod_mul_mod]
    rfl

/-- The fields that a TLBI of each kind must leave zero (R271). -/
theorem tlbi_fields_zero {w : Word} (kind : w.toNat / 2 ^ 62 = 0 ∨ w.toNat / 2 ^ 62 = 1 ∧ w.toNat % 2 ^ 21 = 0 ∨ w = 2 ^ 63 ∨
      w.toNat / 2 ^ 62 = 3 ∧ w.toNat / 2 ^ 24 % 2 ^ 33 = 0) :
    (bits w 63 62 = 1 → bits w 20 12 = 0) ∧ (bits w 63 62 = 2 → bits w 56 12 = 0) ∧ (bits w 63 62 = 3 → bits w 56 24 = 0) := by
  rcases kind with all | ⟨page, aligned⟩ | high | ⟨task, zeros⟩
  · have kind : bits w 63 62 = 0 := (bits_top_two w).trans all
    simp [kind]
  · have kind : bits w 63 62 = 1 := (bits_top_two w).trans page
    have field : bits w 20 12 = 0 := by
      rw [bits]
      omega
    simp [kind, field]
  · have number : w.toNat = 2 ^ 63 := (congrArg BitVec.toNat high).trans (toNat_two_pow 63)
    have kind : bits w 63 62 = 2 := (congrArg (fun n => n / 2 ^ 62 % 2 ^ 2) number).trans (by decide)
    have field : bits w 56 12 = 0 := (congrArg (fun n => n / 2 ^ 12 % 2 ^ 45) number).trans (by decide)
    simp [kind, field]
  · have kind : bits w 63 62 = 3 := (bits_top_two w).trans task
    have field : bits w 56 24 = 0 := zeros
    simp [kind, field]

/-- Settles O18: each at its check of privilege, which those before it let pass. -/
theorem privilegeFaults : Obligations.PrivilegeFaults := by
  refine ⟨fun p s c early issues => exec_mtsr_protected issues early (.inl rfl), fun p s c early user =>
    ⟨fun n issues => exec_mtsr_protected issues early (.inr user),
     fun n a issues hn => exec_mfsr_protected early user issues hn,
     fun a issues aligned => exec_resume_protected early user issues aligned,
     fun a issues unanswered => exec_idle_protected early user issues unanswered,
     fun issues high low control aligned register kind => ?tlbi⟩⟩
  case tlbi =>
    obtain ⟨page, space, task⟩ := tlbi_fields_zero kind
    exact exec_tlbi_protected early user issues high ((bits_from_zero _ _).trans low) control aligned
      (fun h => register ((bit_three_iff _).1 h)) page space task

end Sys2Proof.Machine
end

section
/-! PROOF. An ATTACH that a peer's arbiter makes from its table (R369, R370): the domain commands as they are stated do not hold for it. -/

namespace Sys2Proof.Machine

/-- A place of an FE that has room admits a store of a geometry that R244 allows, where it fits (R244, R369). -/
theorem State.takeStore_admits {s : State} {st : Store}
    (room : (s.stores.filter fun x => x.chip == st.chip && x.pav == st.pav && x.fe == st.fe).length < 4) (aligned : st.base % 64 = 0)
    (fits : st.base + st.cap * st.geom.e ≤ 65536) (geom : st.geom.ok = true) :
    s.takeStore st = some { s with stores := s.stores ++ [st] } := by
  simp [State.takeStore, Nat.not_le.2 room, aligned, Nat.not_lt.2 fits, geom]

/-- An ATTACH that a peer's domain arbiter makes from its table, at a place of this chip that takes the store: the segment keeps its
entries, and the answer tells the counter that was read (R370). -/
theorem exec_mdomAttach_peer_read {s s1 : State} {m : MdomMsg} {c n : Nat} (lit : s.dark = false) (peer : m.owner = some c)
    (attach : bits m.cmd 63 60 = 0) (absent : s.storeOf (some c) m.task m.dom m.store = none) (usable : s.usable (bits m.loc 47 36) = true)
    (read : m.read = some n)
    (taken : s.takeStore { task := m.task, dom := m.dom, store := m.store, chip := s.chip, pav := bits m.loc 47 36, fe := bits m.loc 35 32,
                           base := bits m.loc 15 0, cap := bits m.cmd 29 22 + 1, geom := m.geom, owner := some c,
                           host := s.holder (bits m.loc 47 36), counter := n } = some s1) :
    exec (.mdomAttach m) s = .next (s1.send (.mdomAnswer c m.task m.dom m.store true n)) := by
  have event : exec (.mdomAttach m) s = s.powered (((s.peerMdom m c)).getD s) := by
    show s.mdomEvent m _ = _
    rw [State.mdomEvent, peer]
  rw [event, State.powered_lit lit, State.peerMdom]
  simp [attach, absent, usable, read, taken]

/-- Refutes O46: the answer to an ATTACH that a peer's arbiter makes from its table tells the counter that was read there, here 7, and
the statement has 0: its last clause lacks the premise that the message carries no counter (R370). -/
theorem not_domainsComplete : ¬ Obligations.DomainsComplete := by
  rintro ⟨-, -, -, -, -, -, attaches⟩
  have told := attaches State.reset
    { task := 0, strand := 0, cmd := 0, loc := 0, block := 0, slot := 0, tag := 0, owner := some 5, read := some 7 } 5 _ _
    rfl rfl rfl rfl rfl rfl (State.takeStore_admits (by decide) (by decide) (by decide) (by decide))
  rw [exec_mdomAttach_peer_read rfl rfl rfl rfl rfl rfl
    (State.takeStore_admits (by decide) (by decide) (by decide) (by decide))] at told
  have answer := congrArg State.outbox (Host.Outcome.next.inj told)
  revert answer
  decide

end Sys2Proof.Machine
end

section
/-! PROOF. TRAP (R268): its fault is taken, and the record that is written carries the trap code. A discard (R37, R254) leaves alone
what a fault ring's arbiter looks at (`State.Released`), so the room that there was is still there. -/

namespace Sys2Proof.Machine

/-! ### What a discard leaves alone -/

/-- A state without what a discard may change: a strand and its work, the working accumulators, and what stores have reserved. -/
def State.kept (s : State) : State :=
  { s with mem := [], poison := [], lines := [], strands := [], accW := [], stickyW := [], outbox := [], deques := [], stagings := [],
           queries := [], stores := [], perf := [], migs := s.migs.map fun m => (m.1, { src := m.2.src, state := m.2.state }) }

/-- What a discard does to a state beside the strand's own: nothing becomes poisoned, and below the banks every byte reads as before. -/
structure State.Released (s s' : State) : Prop where
  kept    : s'.kept = s.kept
  strands : s'.strands.length = s.strands.length
  view    : ∀ k pav a, a < 2 ^ 55 → s'.view k pav a = s.view k pav a
  poison  : s'.poison ⊆ s.poison
  wf      : Memory.wf s.mem → Memory.wf s'.mem

namespace State.Released

theorem refl (s : State) : s.Released s := ⟨rfl, rfl, fun _ _ _ _ => rfl, List.Subset.refl _, id⟩

theorem trans {s s' s'' : State} (h : s.Released s') (h' : s'.Released s'') : s.Released s'' :=
  ⟨h'.kept.trans h.kept, h'.strands.trans h.strands, fun k pav a ha => (h'.view k pav a ha).trans (h.view k pav a ha),
    List.Subset.trans h'.poison h.poison, fun w => h'.wf (h.wf w)⟩

theorem foldl {α : Type} {f : State → α → State} (step : ∀ (s : State) x, s.Released (f s x)) (l : List α) (s : State) :
    s.Released (l.foldl f s) := by
  induction l generalizing s with
  | nil => exact refl s
  | cons x l ih => exact (step s x).trans (ih _)

end State.Released

theorem State.released_restoreAcc (s : State) (id : Nat) : s.Released (s.restoreAcc id) :=
  ⟨rfl, rfl, fun _ _ _ _ => rfl, List.Subset.refl _, fun w => w⟩

theorem State.released_send (s : State) (m : OutMsg) : s.Released (s.send m) :=
  ⟨rfl, rfl, fun _ _ _ _ => rfl, List.Subset.refl _, id⟩

theorem State.released_addPerf (s : State) (p c n : Nat) : s.Released (s.addPerf p c n) :=
  ⟨rfl, rfl, fun _ _ _ _ => rfl, List.Subset.refl _, id⟩

theorem State.released_setStrand (s : State) (k : Nat) (t : Strand) : s.Released (s.setStrand k t) :=
  ⟨rfl, List.length_set, fun _ _ _ _ => rfl, List.Subset.refl _, id⟩

/-! ### Writes above physical memory -/

theorem State.map_snd_numbered (s : State) : s.numbered.map (·.2) = s.lines := by
  rw [State.numbered]
  exact List.map_snd_zip (by simp)

/-- A line goes on supplying a byte when others of its bytes no longer are (R275). -/
theorem find_supplied {gone : Nat × Byte × Bool → Bool} {a : Nat} (other : ∀ c, gone c = true → c.1 ≠ a) (cells : List (Nat × Byte × Bool)) :
    (cells.map fun c => if gone c then (c.1, c.2.1, false) else c).find? (fun c => c.1 == a && c.2.2) =
      cells.find? fun c => c.1 == a && c.2.2 := by
  induction cells with
  | nil => rfl
  | cons c cells ih =>
    by_cases h : gone c = true
    · simp [h, other c h, ih]
    · simp only [List.map_cons, h, Bool.false_eq_true, if_false, List.find?_cons, ih]

/-- Cells performed at other keys leave a byte as every strand reads it (R277). -/
theorem State.view_performHome (s : State) (cells : List Host.Cell) (older : Nat → Nat → Bool) (k pav : Nat) {a : Nat}
    (other : ∀ c ∈ cells, c.1 ≠ a) : (s.performHome cells older).view k pav a = s.view k pav a := by
  have outside : (cells.map (·.1)).contains a = false := by
    rw [List.contains_eq_mem, decide_eq_false_iff_not]
    simpa using fun b hb => other (a, b) hb rfl
  rw [State.view, State.performHome_read s cells older other, State.view, ← s.map_snd_numbered, State.performHome,
    List.foldl_map, List.foldl_map]
  refine foldl_congr_mem _ fun b x _ => ?_
  have supplied := find_supplied (gone := fun c => (cells.map (·.1)).contains c.1 && older x.1 c.1) (a := a) (fun c hc e => by
    rw [e, outside] at hc
    cases hc) x.2.cells
  rw [supplied]
  rfl

theorem MigSlot.state_markDirty (m : MigSlot) (keys : List Nat) : (m.markDirty keys).state = m.state := by
  unfold MigSlot.markDirty
  split <;> rfl

theorem MigSlot.src_markDirty (m : MigSlot) (keys : List Nat) : (m.markDirty keys).src = m.src := by
  unfold MigSlot.markDirty
  split <;> rfl

theorem State.released_performHome {s : State} {cells : List Host.Cell} (above : ∀ c ∈ cells, 2 ^ 55 ≤ c.1) (older : Nat → Nat → Bool) :
    s.Released (s.performHome cells older) where
  kept := by
    simp only [State.kept, State.performHome, List.map_map, Function.comp_def, MigSlot.state_markDirty, MigSlot.src_markDirty]
  strands := rfl
  view k pav a ha := s.view_performHome cells older k pav fun c hc => by
    have := above c hc
    omega
  poison := by
    rw [State.performHome]
    dsimp only
    split
    · exact List.nil_subset _
    · exact fun w hw => (List.mem_filter.1 hw).1
  wf := s.performHome_wf cells older

theorem State.released_writeHome {s : State} {key : Nat} (above : 2 ^ 55 ≤ key) (d : List Byte) : s.Released (s.writeHome key d) :=
  State.released_performHome (fun c hc => by
    obtain ⟨x, -, rfl⟩ := List.mem_map.1 hc
    exact Nat.le_trans above (Nat.le_add_right _ _)) _

/-! ### The discard (R37, R254) -/

theorem State.released_lowerResv (s : State) (st : Store) (ctr : Nat) : s.Released (s.lowerResv st ctr) := by
  unfold State.lowerResv
  split
  · refine State.released_writeHome ?_ _
    simp only [Store.key, bankKey]
    omega
  · exact .refl s

theorem State.released_releasePeers (s : State) (k : Nat) : s.Released (s.releasePeers k) := by
  refine .foldl (fun s' x => ?_) s.queries s
  split
  · exact .refl s'
  · refine .foldl (fun s' a => ?_) _ s'
    split
    · split
      · exact .refl s'
      · exact s'.released_send _
    · exact .refl s'

theorem State.released_releaseResv (s : State) (k : Nat) : s.Released (s.releaseResv k) := by
  have lowered := (s.released_releasePeers k).trans (.foldl (fun s' st => .foldl (fun s' r => s'.released_lowerResv st r.2)
    (st.resv.filter fun r => s.withdrawn k r.1) s') s.stores (s.releasePeers k))
  exact ⟨lowered.kept, lowered.strands, lowered.view, lowered.poison, lowered.wf⟩

/-- A strand after a discard, with the fault that its next region raises. -/
def Strand.dropped (t : Strand) (p : Option RaisedFault) : Strand := { t.discarded with pendFault := p }

theorem State.dropRegion_some {s : State} {k : Nat} {t : Strand} (h : s.strand k = some t) :
    ∃ s0 p, s.Released s0 ∧ s.dropRegion k = s0.setStrand k (t.dropped p) := by
  have restored : s.Released ((t.region.accs.foldl State.restoreAcc s).releaseResv k) :=
    (State.Released.foldl State.released_restoreAcc t.region.accs s).trans (State.released_releaseResv _ k)
  obtain ⟨kept, strands, view, poison, wf⟩ := restored
  simp only [State.dropRegion, h]
  split
  · refine ⟨_, _, ?_, rfl⟩
    exact ⟨kept, strands, view, poison, wf⟩
  · refine ⟨_, t.pendFault, ?_, rfl⟩
    exact ⟨kept, strands, view, poison, wf⟩

/-- A discard leaves the strand as R37 says, and beside it nothing that the arbiter of a fault ring looks at. -/
theorem State.discard_some {s : State} {k : Nat} {t : Strand} (h : s.strand k = some t) :
    s.Released (s.discard k) ∧ ∃ p, (s.discard k).strand k = some (t.dropped p) := by
  obtain ⟨s0, p, rest, dropped⟩ := State.dropRegion_some h
  have here : k < s0.strands.length := rest.strands ▸ (List.getElem?_eq_some_iff.1 h).1
  simp only [State.discard, h, dropped]
  refine ⟨(rest.trans (s0.released_setStrand k _)).trans (State.released_addPerf _ _ _ _), p, ?_⟩
  rw [State.strand_addPerf]
  exact List.getElem?_set_self here

/-! ### The room of a fault ring (R318, R322) -/

theorem State.homeOk_kept (s : State) (key : Nat) : s.kept.homeOk key = s.homeOk key := rfl
theorem State.ringKey_kept (s : State) (a : Nat) : s.kept.ringKey a = s.ringKey a := rfl

theorem State.frameHeld_kept (s : State) (f : Nat) : s.kept.frameHeld f = s.frameHeld f := by
  simp only [State.frameHeld, State.kept, List.any_map]
  rfl

theorem State.ringServed_kept (s : State) (fring : Word) : s.kept.ringServed fring = s.ringServed fring := by
  simp only [State.ringServed, State.homeOk_kept, State.ringKey_kept, State.frameHeld_kept]

/-- The home of a byte of a ring lies as far behind that of a line's first byte as the byte itself does. -/
theorem State.ringKey_add (s : State) {a n : Nat} (h : a % 64 = 0) (hn : n < 64) : s.ringKey (a + n) = s.ringKey a + n := by
  have frame : frameOf ((a + n) % 2 ^ 55) = frameOf (a % 2 ^ 55) := by
    simp only [frameOf]
    omega
  have low (x : Nat) : ¬2 ^ 55 ≤ x % 2 ^ 55 := Nat.not_le.2 (Nat.mod_lt _ (by decide))
  simp only [State.ringKey, State.ownerKey, low, if_false, frame]
  omega

/-- Homes keep the place of a byte in its line. -/
theorem State.ringKey_aligned (s : State) {a : Nat} (h : a % 64 = 0) : s.ringKey a % 64 = 0 := by
  have low : ¬2 ^ 55 ≤ a % 2 ^ 55 := Nat.not_le.2 (Nat.mod_lt _ (by decide))
  simp only [State.ringKey, State.ownerKey, low, if_false]
  omega

theorem ringBase_aligned (fring : Word) : ringBase fring % 64 = 0 := by
  rw [ringBase]
  omega

section

variable {s s' : State} (h : s.Released s')
include h

theorem State.Released.ringKey (a : Nat) : s'.ringKey a = s.ringKey a := by
  rw [← State.ringKey_kept, h.kept, State.ringKey_kept]

theorem State.Released.terrace (t : Nat) : s'.terrace t = s.terrace t :=
  show s'.kept.terrace t = s.kept.terrace t by rw [h.kept]

theorem State.Released.task (i : Nat) : s'.task i = s.task i :=
  show s'.kept.task i = s.kept.task i by rw [h.kept]

theorem State.Released.poisoned {key n : Nat} (clean : s.poisoned key n = false) : s'.poisoned key n = false := by
  rcases Bool.and_eq_false_iff.1 clean with none | clean
  · simp [State.poisoned, none]
  · have clean' := List.any_eq_false.2 fun w hw => List.any_eq_false.1 clean w (h.poison hw)
    simp [State.poisoned, clean']

/-- TAIL reads as before where it lies in physical memory. -/
theorem State.Released.ringTail {fring : Word} (low : s.ringKey (ringBase fring) < 2 ^ 55) : s'.ringTail fring = s.ringTail fring := by
  have aligned := s.ringKey_aligned (ringBase_aligned fring)
  simp only [State.ringTail, State.deviceN, State.viewN, h.ringKey, h.strands, s.ringKey_add (ringBase_aligned fring) (n := 8) (by decide)]
  refine congrArg leNat (List.map_congr_left fun i hi => h.view _ _ _ ?_)
  have := List.mem_range.1 hi
  omega

/-- A discard takes no room of a ring. -/
theorem State.Released.ringRoom {t : Nat} {handler : Bool} (low : s.ringKey (ringBase (s.terrace t).fring) < 2 ^ 55)
    (room : s.ringRoom t handler = true) : s'.ringRoom t handler = true := by
  simp only [State.ringRoom, Bool.and_eq_true, Bool.not_eq_true'] at room ⊢
  obtain ⟨⟨served, clean⟩, places⟩ := room
  rw [h.terrace, h.ringTail low, h.ringKey, ← State.ringServed_kept, h.kept, State.ringServed_kept]
  exact ⟨⟨served, h.poisoned clean⟩, places⟩

end

/-! ### The record written (R318, R319) -/

theorem Record.length_bytes (r : Record) (n : Nat) : (r.bytes n).length = 64 := by
  simp [Record.bytes, length_toLe]

/-- The key at which the arbiter of a Terrace's ring writes its next record. -/
def State.ringPlace (s : State) (t : Nat) : Nat :=
  s.ringKey (ringBase (s.terrace t).fring + 64 + 64 * ((s.terrace t).head.toNat % ringSize (s.terrace t).fring))

theorem State.Released.ringPlace {s s' : State} (h : s.Released s') (t : Nat) : s'.ringPlace t = s.ringPlace t := by
  rw [State.ringPlace, h.terrace, h.ringKey, State.ringPlace]

/-- The bytes of a record that is written stand at its place, where HEAD stands in another line. -/
theorem State.ringWrite_read {s : State} {t : Nat} (r : Record) (wf : Memory.wf s.mem)
    (apart : s.ringPlace t / 64 ≠ s.ringKey (ringBase (s.terrace t).fring) / 64) {i : Nat} (hi : i < 64) :
    Memory.read (s.ringWrite t r).mem (s.ringPlace t + i) = ((r.bytes (s.terrace t).head.toNat)[i]?).getD 0 := by
  have place : s.ringPlace t % 64 = 0 := s.ringKey_aligned (by have := ringBase_aligned (s.terrace t).fring; omega)
  have head := s.ringKey_aligned (ringBase_aligned (s.terrace t).fring)
  have written : (s.ringWrite t r).mem = ((s.writeHome (s.ringPlace t) (r.bytes (s.terrace t).head.toNat)).writeHome
      (s.ringKey (ringBase (s.terrace t).fring)) (toLe 4 (((s.terrace t).head.toNat + 1) % 2 ^ 32))).mem := rfl
  rw [written, State.writeHome_read _ _ _ (by rw [length_toLe]; omega), State.writeHome_mem, Memory.read_writeN wf,
    if_pos (by rw [Record.length_bytes]; omega), Nat.add_sub_cancel_left]

/-- A strand that fires no block sleeps through a record (R273). -/
theorem State.strand_ringWrite {s : State} {k : Nat} {u : Strand} (h : s.strand k = some u) (idle : u.block = none) (t : Nat) (r : Record) :
    (s.ringWrite t r).strand k = some u := by
  have woken : (s.ringWrite t r).strand k = (s.strand k).map (wakeIdle t) := List.getElem?_map
  rw [woken, h]
  simp [wakeIdle, idle]

/-! ### The fault taken (R10, R44) -/

/-- A record that is written at once lets its strand enter the state that it asks for (R322). -/
theorem State.record_now {s : State} {t : Nat} {handler : Bool} {r : Record} (now : s.recordsNow t handler r = true) (k : Nat)
    (st : StrandState) : s.record t r handler (some (k, st)) = (s.ringWrite t r).modStrand k fun x => { x with state := st } := by
  rw [State.record, if_pos now]

/-- A fault for whose record there is room, and that cites none, is recorded at once, and the strand is FAULTED. -/
theorem State.takeFault_recorded {s : State} {k : Nat} {t : Strand} {f : RaisedFault} (h : s.strand k = some t)
    (room : s.ringRoom (t.pav / 512) (s.task t.task).faulth = true) (first : (s.terrace (t.pav / 512)).held = [])
    (low : s.ringKey (ringBase (s.terrace (t.pav / 512)).fring) < 2 ^ 55) (cites : f.info.cites = none) :
    ∃ s0 p, s.Released s0 ∧ s0.strand k = some (t.dropped p) ∧
      s.takeFault k f = (s0.ringWrite (t.pav / 512) (s0.faultRecord (t.dropped p) f)).setStrand k
        { t.dropped p with state := .faulted } := by
  obtain ⟨rest, p, left⟩ := State.discard_some h
  refine ⟨s.discard k, p, rest, left, ?_⟩
  have taken : s.takeFault k f = (s.discard k).record (t.pav / 512) ((s.discard k).faultRecord (t.dropped p) f)
      ((s.discard k).task t.task).faulth (some (k, .faulted)) := by
    rw [State.takeFault]
    simp only [left]
    rfl
  have now : (s.discard k).recordsNow (t.pav / 512) ((s.discard k).task t.task).faulth
      ((s.discard k).faultRecord (t.dropped p) f) = true := by
    simp [State.recordsNow, rest.task, rest.ringRoom low room, rest.terrace, first, State.faultRecord, cites]
  rw [taken, State.record_now now, State.modStrand_some _ (State.strand_ringWrite left rfl _ _)]

section

variable {s : State} {c : Ctx} {p : Pred} {code : BitVec 11}

theorem exec_trap_faults (issues : Issues s c p .none) (early : c.b.performed = false) :
    exec (.trap p code) s = .next (s.takeFault c.k ⟨{ code := .trap, detail := BitVec.ofNat 64 code.toNat }, c.b.addr, c.j⟩) :=
  congrArg _ (fire_faults issues (by decide) (by rw [BitVec.ofNat_toNat]) early)

theorem exec_trap_suppressed (here : s.ctx = some c) (suppress : gate p .none false c.o = .suppress) :
    exec (.trap p code) s = .next (s.setStatus c.k c.j .done) := by
  show Host.Outcome.next (fire p .none false .none .none noResolve _ s) = _
  simp only [fire, here, suppress, noResolve]

end

/-- A predicate that does not hold suppresses a slot that has not fired and on which no cancel stands (R15). -/
theorem gate_suppress {p : Pred} {u : Uses} {early : Bool} {o : Slot} {v : Word} (plain : u ≠ .merge)
    (hs : o.status = .idle ∨ o.status = .waiting) (hl : o.l ≠ some .cancel) (hr : o.r ≠ some .cancel) (hp : o.p = some (.value v))
    (fails : p = .onTrue ∧ bit v 0 = false ∨ p = .onFalse ∧ bit v 0 = true) : gate p u early o = .suppress := by
  have ready : ¬(o.status = .sent ∨ o.status = .done) := by
    rcases hs with h | h <;> simp [h]
  have going : o.cancelled = false := by simp [Slot.cancelled, hl, hr, hp]
  rcases fails with ⟨rfl, hv⟩ | ⟨rfl, hv⟩ <;> simp [gate, ready, plain, going, hp, hv]

/-- Settles O20: the fault by the law of firing, the record and the strand by what the fault leaves, and the pass by the gate. -/
theorem trapsAssert : Obligations.TrapsAssert := by
  refine ⟨fun p code s c issues early => exec_trap_faults issues early, ?taken, fun code s c v here hs hl hr hp =>
    ⟨fun hv => exec_trap_suppressed here (gate_suppress (by decide) hs hl hr hp (.inl ⟨rfl, hv⟩)),
     fun hv => exec_trap_suppressed here (gate_suppress (by decide) hs hl hr hp (.inr ⟨rfl, hv⟩))⟩⟩
  case taken =>
    rintro s k t code b j _ ⟨wf, -, -⟩ here room first rfl _ rfl apart low
    obtain ⟨s0, p, rest, left, taken⟩ := State.takeFault_recorded (f := ⟨{ code := .trap, detail := code }, b, j⟩) here room first low rfl
    have faulted : (s.takeFault k ⟨{ code := .trap, detail := code }, b, j⟩).strand k = some { t.dropped p with state := .faulted } := by
      rw [taken]
      exact State.strand_setStrand_same _ (State.strand_ringWrite left rfl _ _)
    refine ⟨⟨s0.faultRecord (t.dropped p) ⟨{ code := .trap, detail := code }, b, j⟩, rfl, rfl, rfl, rfl, rfl, fun i hi => ?_⟩,
      { t.dropped p with state := .faulted }, faulted, rfl, rfl, rfl, rfl, ?_⟩
    · have apart0 : s0.ringPlace (t.pav / 512) / 64 ≠ s0.ringKey (ringBase (s0.terrace (t.pav / 512)).fring) / 64 := by
        rw [rest.ringPlace, rest.terrace, rest.ringKey]
        exact apart
      have read := State.ringWrite_read (s0.faultRecord (t.dropped p) ⟨{ code := .trap, detail := code }, b, j⟩) (rest.wf wf) apart0 hi
      rw [rest.ringPlace, rest.terrace] at read
      rw [taken, State.setStrand_mem]
      exact read
    · rw [State.resumeAt, State.modStrand_some _ faulted]
      exact State.strand_setStrand_same _ faulted

end Sys2Proof.Machine
end

section
/-! PROOF. The events of a page's move at its source and at its destination (R329 to R331, R333, R340; logs 54 and 100). -/

namespace Sys2Proof.Machine

/-- An event of a module that is not dark leads where its update does (R410). -/
theorem State.powered_next {s r r' : State} (lit : s.dark = false) (leads : r = r') : s.powered r = .next r' := by
  rw [State.powered_lit lit, leads]

/-! ### The rows of GO's table (R329, R340) -/

/-- The row BADFRAME of GO's table (R329). -/
def State.badFrame (s : State) (m : MigSlot) : Bool :=
  !s.frameHere m.srcFrame || s.inFrameRange m.srcFrame || frameChip m.dstFrame == s.chip || !s.inDomain (frameChip m.dstFrame)

/-- The row BUSY of GO's table (R329): the page has gone on, a move here still fills its frame, or another slot moves it. -/
def State.pageTaken (s : State) (i : Nat) (m : MigSlot) : Bool :=
  (s.stub m.srcFrame).any (·.live) || (s.incoming.any fun x => x.dst == m.srcFrame) ||
    s.migs.any fun x => x.1 != i && x.2.busy && x.2.srcFrame == m.srcFrame

theorem State.badFrame_iff (s : State) (m : MigSlot) : s.badFrame m = true ↔ s.frameHere m.srcFrame = false ∨
    s.inFrameRange m.srcFrame = true ∨ frameChip m.dstFrame = s.chip ∨ s.inDomain (frameChip m.dstFrame) = false := by
  simp [State.badFrame, or_assoc]

theorem State.badFrame_false {s : State} {m : MigSlot} (here : s.frameHere m.srcFrame = true) (range : s.inFrameRange m.srcFrame = false)
    (away : frameChip m.dstFrame ≠ s.chip) (domain : s.inDomain (frameChip m.dstFrame) = true) : s.badFrame m = false := by
  simp [State.badFrame, here, range, away, domain]

theorem State.startMove_badFrame {s : State} {m : MigSlot} (bad : s.badFrame m = true) (i : Nat) (accepts : Bool) :
    s.startMove i m accepts = s.setMig i { m with state := .refused, reason := 1 } :=
  if_pos bad

section

variable {s : State} {i : Nat} {m : MigSlot} (good : s.badFrame m = false)
include good

theorem State.startMove_taken (taken : s.pageTaken i m = true) (accepts : Bool) :
    s.startMove i m accepts = s.setMig i { m with state := .refused, reason := 2 } :=
  (if_neg (ne_true_of_eq_false good)).trans (if_pos taken)

variable (free : s.pageTaken i m = false)
include free

theorem State.startMove_unreached (lost : s.reached (frameChip m.dstFrame) = false) (accepts : Bool) :
    s.startMove i m accepts = s.setMig i { m with state := .refused, reason := 4 } :=
  (if_neg (ne_true_of_eq_false good)).trans <| (if_neg (ne_true_of_eq_false free)).trans <| if_pos (by rw [lost]; rfl)

variable (linked : s.reached (frameChip m.dstFrame) = true)
include linked

theorem State.startMove_linked (accepts : Bool) : s.startMove i m accepts =
    if (s.ownedOf m.srcFrame).behind = 2 then s.setMig i { m with state := .waitChain }
    else if 4096 ≤ s.stubs.length then s.setMig i { m with state := .waitStub }
    else
      let s1 := s.send (.moveOpen (frameChip m.dstFrame) m.dstFrame m.srcFrame i)
      let m1 := { m with state := .precopy, reason := 0, pass := 0, last := 512, dirty := [], heldAcc := [] }
      if !accepts then s1.setMig i { m with state := .refused, reason := 3 }
      else (List.range 512).foldl (fun y t => y.sendTile m1 t)
        (State.setMig { s1 with stubs := s.stubs ++ [{ old := m.srcFrame, fwd := m.dstFrame }] } i m1) :=
  (if_neg (ne_true_of_eq_false good)).trans <| (if_neg (ne_true_of_eq_false free)).trans <| if_neg (by simp [linked])

end

/-- A write of MIGSRC at a slot whose GO reads 0 takes the source, and with GO starts the move (R329). -/
theorem exec_migGo_idle {s : State} {i : Nat} (lit : s.dark = false) (hi : i < 8) (idle : (s.mig i).busy = false) (v : Word)
    (accepts : Bool) : exec (.migGo i v accepts) s = .next
      (if bit v 63 then s.startMove i { s.mig i with src := v &&& 0x007FFFFFFFE00000 } accepts
       else s.setMig i { s.mig i with src := v &&& 0x007FFFFFFFE00000 }) := by
  have event : exec (.migGo i v accepts) s = execMigGo i v accepts s := rfl
  have taken : (decide (8 ≤ i) || (s.mig i).busy || s.dark) = false := by simp [lit, idle, hi]
  rw [event, execMigGo]
  simp only [taken, Bool.false_eq_true, if_false]

theorem movesStart : Parts.MovesStart := by
  rintro s i v accepts m _ lit hi idle rfl rfl
  rw [exec_migGo_idle lit hi idle]
  refine ⟨fun quiet => congrArg _ (if_neg (ne_true_of_eq_false quiet)), fun go bad => ?_, fun go here range away domain => ?_⟩ <;>
    rw [bit, if_pos go]
  · exact congrArg _ (State.startMove_badFrame ((s.badFrame_iff _).2 bad) i accepts)
  · have good := State.badFrame_false here range away domain
    refine ⟨fun taken => congrArg _ (State.startMove_taken good taken accepts),
      fun free lost => congrArg _ (State.startMove_unreached good free lost accepts), fun free linked chain => ?_,
      fun free linked chain full => ?_, fun free linked chain room s1 asked => ⟨fun refuses => ?_, fun takes m1 started => ?_⟩⟩ <;>
      rw [State.startMove_linked good free linked]
    · rw [if_pos chain]
    · rw [if_neg chain, if_pos full]
    · subst asked refuses
      rw [if_neg chain, if_neg (Nat.not_le.2 room)]
      rfl
    · subst asked takes started
      rw [if_neg chain, if_neg (Nat.not_le.2 room)]
      rfl

/-! ### The passes and the change of owner (R330) -/

theorem movesGoOn : Parts.MovesGoOn := by
  refine ⟨?wakes, ?passEnds, ?drained, ?acknowledged⟩
  case wakes =>
    rintro s i accepts lit (waits | waits) <;>
      exact State.powered_next lit (by rw [waits])
  case passEnds =>
    rintro s i _ lit rfl copying
    refine ⟨fun fewer early => State.powered_next lit ?_, fun ends => State.powered_next lit ?_⟩
    · exact (if_neg (· copying)).trans (if_pos ⟨fewer, by omega⟩)
    · exact (if_neg (· copying)).trans (if_neg fun ⟨fewer, early⟩ => by omega)
  case drained =>
    rintro s i _ _ lit rfl final idle rfl
    exact State.powered_next lit (if_neg (by simp [final, idle]))
  case acknowledged =>
    rintro s i _ _ _ lit rfl sent rfl rfl
    exact State.powered_next lit (if_neg (· sent))

/-! ### The destination (R330, R331, R333) -/

/-- MOVE_OPEN at a destination: a frame that is accepted waits for its tiles, and the answer goes back (R329, R333). -/
theorem exec_moveOpen_lit {s : State} (lit : s.dark = false) (src dst chip slot : Nat) {ok : Bool}
    (h : (s.frameHere dst && (s.stub dst).isNone && !(s.incoming.any fun x => x.dst == dst)) = ok) :
    exec (.moveOpen src dst chip slot) s = .next (State.send (if ok then
      { s with incoming := s.incoming ++ [{ dst := dst, src := src, chip := chip, slot := slot }] } else s) (.opened chip slot ok)) := by
  subst h
  exact State.powered_next lit rfl

theorem movesArrive : Parts.MovesArrive := by
  refine ⟨?opens, ?refuses, ?stores, ?owns⟩
  case opens =>
    intro s src dst chip slot lit here free unfilled
    exact exec_moveOpen_lit lit src dst chip slot (ok := true) (by simpa [here, free] using unfilled)
  case refuses =>
    intro s src dst chip slot lit away
    exact exec_moveOpen_lit lit src dst chip slot (ok := false) (by simp [away])
  case stores =>
    rintro s dst idx data poison _ lit hidx whole ⟨x, hx, fills⟩ rfl
    have coming : (idx < 512 && data.length == 4096 && s.incoming.any fun x => x.dst == dst) = true := by
      simpa [hidx, whole] using ⟨x, hx, fills⟩
    exact State.powered_next lit (if_pos coming)
  case owns =>
    rintro s dst holders behind oldest x _ lit found rfl
    exact State.powered_next lit (by rw [found]; rfl)

end Sys2Proof.Machine
end

section
/-! PROOF. What goes on between owners, stubs and holders (R326, R331, R332, R334, R336, R337; log 78). -/

namespace Sys2Proof.Machine

/-! ### A live stub, and what it serves (R331, R336) -/

theorem State.stub_live {s : State} {f : Nat} {x : Stub} (found : s.stub f = some x) (live : x.live = true) :
    (s.stub f).filter (·.live) = some x := by
  simp [found, live]

theorem State.stub_dead {s : State} {f : Nat} (dead : ∀ x, s.stub f = some x → x.live = false) :
    (s.stub f).filter (·.live) = none := by
  simpa [Option.filter_eq_none_iff] using dead

section

variable {x : Stub} {chip : Nat}

/-- An access of a group that is marked leaves the stub as it is but for the bit, which stands (R336). -/
theorem State.markStub_marked (s : State) (marked : x.holders.getLsbD (chip / 64) = true) :
    s.markStub x chip false = s.setStub { x with holders := x.holders ||| BitVec.twoPow 72 (chip / 64) } := by
  simp [State.markStub, marked, groupBit]

/-- RETIRE goes to a group that an access marks for the first time (log 78). -/
theorem State.markStub_unmarked (s : State) (unmarked : x.holders.getLsbD (chip / 64) = false) : s.markStub x chip false =
    (s.setStub { x with holders := x.holders ||| BitVec.twoPow 72 (chip / 64) }).sendRetire (chip / 64) x.old x.fwd := by
  simp [State.markStub, unmarked, groupBit]

end

/-- A relay for whose page no COMMIT is to come goes on, waits for FINAL's end or is performed (R330, R331). -/
theorem exec_relay_committed {s : State} (lit : s.dark = false) {m : Access} (unfilled : ∀ y ∈ s.incoming, y.dst ≠ frameOf m.pa) :
    exec (.relay m) s = .next (s.relayed m) :=
  State.powered_next lit (if_neg (by simpa using unfilled))

theorem State.relayed_stub {s : State} {m : Access} {x : Stub} (found : s.stub (frameOf m.pa) = some x) (live : x.live = true) :
    s.relayed m = (s.markStub x m.chip false).relayTo x.fwd m := by
  simp [State.relayed, State.relayFrom, found, live]

/-! ### An access at its page's owner (R174, R331, R336) -/

/-- What an access that was performed leaves at its page's owner: a peer's group holds the page, and the peer is answered with REDIR. -/
def State.answered (s : State) (m : Access) (y : State) (d : List Byte) : State :=
  if m.chip = s.chip then y
  else
    ((y.setOwned { s.ownedOf (frameOf m.pa) with
        holders := (s.ownedOf (frameOf m.pa)).holders ||| BitVec.twoPow 72 (m.chip / 64) }).send
      (.answer m.chip m.req d true)).send (.redir m.chip m.req (frameOf m.pa) (frameOf m.pa))

theorem State.relayed_owner {s : State} {m : Access} (unstubbed : s.stub (frameOf m.pa) = none)
    (unheld : s.frameHeld (frameOf m.pa) = false) (home : s.homeOk m.pa = true) (here : frameChip (frameOf m.pa) = s.chip)
    (clean : s.poisoned m.pa (opReads m.op) = false) {y : State} {d : List Byte} (performed : s.performAccess m.op m.pa = (y, d)) :
    s.relayed m = s.answered m y d := by
  simp [State.relayed, State.answerHere, State.answered, groupBit, unstubbed, unheld, home, here, clean, performed]

theorem State.poisoned_zero (s : State) (key : Nat) : s.poisoned key 0 = false := rfl

theorem State.performAccess_reduce {s : State} {key : Nat} {w : Bool} (clean : s.poisoned key (wBytes w) = false) (op : ROp) (v : Word) :
    s.performAccess (.reduce op w v) key = (s.writeHome key (toLe (wBytes w)
      (reduceNew op (8 * wBytes w) (s.home key (wBytes w)) (v.toNat % 2 ^ (8 * wBytes w)))), []) :=
  if_neg (ne_true_of_eq_false clean)

theorem relaysGoOn : Parts.RelaysGoOn := by
  rintro s ⟨pa, op, chip, req⟩ _ lit rfl
  refine ⟨fun ⟨x, hx, fills⟩ => ?_, fun x _ unfilled found live marks => ?_, fun unfilled unstubbed unheld home here done answers => ?_⟩
  · have coming : (s.incoming.any fun y => y.dst == frameOf pa) = true := List.any_eq_true.2 ⟨x, hx, beq_iff_eq.2 fills⟩
    exact State.powered_next lit (if_pos coming)
  · subst marks
    rw [exec_relay_committed lit unfilled, State.relayed_stub found live]
    exact ⟨fun marked => by rw [State.markStub_marked s marked], fun unmarked => by rw [State.markStub_unmarked s unmarked]⟩
  · rw [exec_relay_committed lit unfilled]
    subst answers
    refine ⟨?_, ?_, ?_, ?_⟩
    · rintro d rfl
      exact congrArg _ (State.relayed_owner unstubbed unheld home here (s.poisoned_zero _) rfl)
    · rintro n rfl clean
      exact congrArg _ (State.relayed_owner unstubbed unheld home here clean rfl)
    · rintro op w v e _ rfl clean rfl
      exact congrArg _ (State.relayed_owner unstubbed unheld home here clean rfl)
    · rintro op w v rfl clean
      exact congrArg _ (State.relayed_owner unstubbed unheld home here (s.poisoned_zero _) (State.performAccess_reduce clean op v))

theorem redirectionCompletes : Parts.RedirectionCompletes := by
  rintro s named owner _ lit rfl
  refine State.powered_next lit ?_
  rw [State.redirected]
  simp only [ne_eq, ite_not]

/-! ### RETIRE (R331, R336) -/

theorem State.retireWaits_iff (s : State) (old fwd : Nat) : s.retireWaits old fwd = true ↔ s.frameBusy old = true ∨
    (∃ l ∈ s.lines, old ∈ l.named) ∨ s.redirHeld fwd = true ∨ ∃ a ∈ s.mapEntries, s.areaHeld a 8 = true := by
  simp [State.retireWaits, or_assoc]

/-- What is known once a stub is retired, by whether a live stub here leads to its frame (R331). -/
theorem State.eq_forgetStub {s s' : State} {old fwd : Nat}
    (led : (∃ x ∈ s.stubs, x.live = true ∧ x.fwd = old) → s' = { s with
      retired := s.retired.filter (· != old) ++ [old], moved := s.moved.map fun (x : Nat × Nat) => if x.2 = old then (x.1, fwd) else x })
    (unled : (∀ x ∈ s.stubs, ¬(x.live = true ∧ x.fwd = old)) → s' = { s with
      moved := (s.moved.filter fun (x : Nat × Nat) => x.1 != old).map fun (x : Nat × Nat) => if x.2 = old then (x.1, fwd) else x }) :
    s' = s.forgetStub old fwd := by
  rw [State.forgetStub]
  split
  case isTrue leads => exact led (by simpa using leads)
  case isFalse leads => exact unled (by simpa using leads)

theorem retireCompletes : Parts.RetireCompletes := by
  intro s old fwd chip lit
  refine ⟨fun waits => State.powered_next lit (if_pos ((s.retireWaits_iff old fwd).2 waits)), ?_⟩
  rintro s1 _ s3 s4 idle unnamed served standing moves rfl renamed led unled
  have ready : ¬s.retireWaits old fwd = true := by
    rw [s.retireWaits_iff]
    simpa [idle, served] using ⟨unnamed, standing⟩
  have known : s1 = if (s.hop old != old || frameChip old == s.chip) = true then s else s.pageMoved old fwd :=
    moves.trans (ite_congr (by simp) (fun _ => rfl) fun _ => rfl)
  have forgotten : s4 = s3.forgetStub old fwd := State.eq_forgetStub led unled
  subst forgotten renamed known
  exact State.powered_next lit (if_neg ready)

/-! ### Acknowledgements, HOLD and STUB_GONE (R334, R336, R337) -/

/-- No COMMIT for a page is on its way. -/
theorem State.commit_none {s : State} {frame : Nat} (owned : ∀ m ∈ s.migs, ¬(m.2.state = .commit ∧ m.2.srcFrame = frame)) :
    (s.migs.find? fun m => m.2.state == .commit && m.2.srcFrame == frame) = none :=
  List.find?_eq_none.2 fun m hm => by simpa using owned m hm

theorem stubsGoFree : Parts.StubsGoFree := by
  refine ⟨fun s i lit => State.powered_next lit rfl, ?acknowledged, ?holdAway, ?holdOwner, ?holdStub, ?goneStub, ?goneCommit, ?goneOwner⟩
  case acknowledged =>
    rintro s old chip x _ lit found live rfl
    have served := State.stub_live found live
    refine ⟨fun all => State.powered_next lit ?_, fun more => State.powered_next lit ?_⟩
    · simp only [served, all, if_true]
    · simp only [served, more, Bool.false_eq_true, if_false]
  case holdAway =>
    intro s frame chip lit away
    exact State.powered_next lit (if_pos (bne_iff_ne.2 away))
  case holdOwner =>
    rintro s frame chip _ lit here dead rfl
    have unserved := State.stub_dead dead
    refine ⟨fun owned => State.powered_next lit ?_, fun m leaves => State.powered_next lit ?_⟩
    · simp only [here, unserved, State.commit_none owned, bne_self_eq_false, Bool.false_eq_true, if_false]
      rfl
    · simp only [here, unserved, leaves, bne_self_eq_false, Bool.false_eq_true, if_false]
      rfl
  case holdStub =>
    intro s frame chip x lit here found live
    refine State.powered_next lit ?_
    simp only [here, State.stub_live found live, bne_self_eq_false, Bool.false_eq_true, if_false]
  case goneStub =>
    intro s frame x lit found live
    exact State.powered_next lit (by rw [State.stub_live found live]; rfl)
  case goneCommit =>
    intro s frame m lit unstubbed leaves
    exact State.powered_next lit (by rw [unstubbed, leaves]; rfl)
  case goneOwner =>
    rintro s frame _ lit unstubbed owned ⟨x, hx, owns⟩ rfl
    have here : (s.owned.any fun x => x.frame == frame) = true := List.any_eq_true.2 ⟨x, hx, beq_iff_eq.2 owns⟩
    refine State.powered_next lit ?_
    rw [unstubbed, State.commit_none owned]
    exact if_pos here

theorem stubsComplete : Parts.StubsComplete := ⟨relaysGoOn, redirectionCompletes, retireCompletes, stubsGoFree⟩

/-- Settles O51: the source by the rows of GO's table and the passes, the destination and the stubs by what each of their events finds. -/
theorem movesComplete : Obligations.MovesComplete := ⟨movesStart, movesGoOn, movesArrive, stubsComplete⟩

end Sys2Proof.Machine
end

section
/-! PROOF. The error counts of a Terrace (R426, log 33). -/

namespace Sys2Proof.Machine

/-! ### The Terrace that a change names -/

theorem State.reset_terrace (t : Nat) : State.reset.terrace t = {} := by
  have same : ((List.replicate 8 ({} : Terrace))[t]?).getD {} = {} := by
    rw [List.getElem?_replicate]
    split <;> rfl
  exact same

theorem State.modTerrace_terrace_same {s : State} {t : Nat} (ht : t < s.terraces.length) (f : Terrace → Terrace) :
    (s.modTerrace t f).terrace t = f (s.terrace t) := by
  simp only [State.terrace, State.modTerrace_terraces, List.getElem?_set_self ht, Option.getD_some]

/-! ### The counts -/

/-- A count goes up by one until it stands at its largest value. -/
theorem toNat_satInc (x : BitVec 32) : (satInc x).toNat = min (x.toNat + 1) (2 ^ 32 - 1) := by
  unfold satInc
  split
  case isTrue full => subst full; rfl
  case isFalse below =>
    have unlike : x.toNat ≠ (BitVec.allOnes 32).toNat := mt BitVec.eq_of_toNat_eq below
    rw [BitVec.toNat_allOnes] at unlike
    rw [BitVec.toNat_add, show (1 : BitVec 32).toNat = 1 from rfl]
    omega

theorem State.eccCount_uncorrectable {s : State} {t : Nat} (ht : t < s.terraces.length) :
    (s.eccCount t true).terrace t = { s.terrace t with uncorr := satInc (s.terrace t).uncorr } :=
  State.modTerrace_terrace_same ht _

theorem State.eccCount_corrected {s : State} {t : Nat} (ht : t < s.terraces.length) :
    (s.eccCount t false).terrace t = { s.terrace t with corr := satInc (s.terrace t).corr } :=
  State.modTerrace_terrace_same ht _

/-! ### The events that reach the counts -/

/-- A module that has its supply takes a write of a register (R6, R410). -/
theorem exec_registerWrite_lit {s : State} (lit : s.dark = false) (r : DevReg) (v : Word) :
    exec (.registerWrite r v) s = .next (s.writeDev r v) := by
  change execRegisterWrite r v s = _
  simp [execRegisterWrite, lit]

/-- An error that the patrol corrects is counted and changes nothing else (R423). -/
theorem exec_patrolScrub_corrected {s : State} (lit : s.dark = false) (pa : Nat) :
    exec (.patrolScrub pa false) s = .next (s.eccCount (keyTerrace pa) false) := by
  change execPatrolScrub pa false s = _
  simp [execPatrolScrub, lit]

/-- Settles O22: the counts' reset values, the Lodge's write field by field, and a count that saturates. -/
theorem eccstatRegister : Obligations.EccstatRegister := by
  refine ⟨fun t => ?atReset, fun s t v lit => exec_registerWrite_lit lit (.eccstat t) v, fun s t ht => ?counted,
    fun s pa lit => exec_patrolScrub_corrected lit pa⟩
  case atReset =>
    rw [State.reset_terrace]
    exact ⟨rfl, rfl⟩
  case counted =>
    rw [State.eccCount_uncorrectable ht, State.eccCount_corrected ht]
    exact ⟨toNat_satInc _, rfl, toNat_satInc _, rfl⟩

end Sys2Proof.Machine
end
